-- ==== Sys2Proof/Word.lean ====
section
/-!
DEFINITION. The plain words the spec's layouts are made of, and the association list that the state's tables are.
-/
namespace Sys2Proof

/-- One byte of memory, of a packet or of a ring record. -/
abbrev Byte := BitVec 8
/-- A 32-bit BAR0 register value. -/
abbrev Word := BitVec 32
/-- A 64-bit descriptor or pennant field. -/
abbrev DWord := BitVec 64
/-- A fabric ID (R32). -/
abbrev Fid := BitVec 16
/-- A context ID (R70, R190). -/
abbrev CtxId := BitVec 20
/-- A string of octets. -/
abbrev Bytes := List Byte
/-- A table: pairs of key and value, at most one pair a key. -/
abbrev Tab (κ α : Type) := List (κ × α)

end Sys2Proof
end

