-- ==== Sys2Proof/Syntax.lean ====
section
/-!
DEFINITION. The commands of the block: one constructor of `Instr` for each row of the opcode table, with what the
event, register access, packet or command carries, and the plain data types those operands are made of.
-/
namespace Sys2Proof

/-! ## What the outside world did before a command -/

/-- How an access to host or accelerator memory fails (R431, R567); `silent` is memory whose reads the accelerator never answers
(R433). -/
inductive MemFaultKind where
  | unmapped | poison | abort | silent
  deriving DecidableEq, Repr

/-- What a completion of the accelerator brings beside its TAG and STATUS: ADDRESS and LAST of a CPL_D, and its data (R423, R424). -/
structure CplData where
  addr  : DWord := 0
  last  : Bool := false
  bytes : Bytes := []
  deriving DecidableEq, Repr

/-- A range of memory on which the environment refuses accesses: `base` and `len` are model addresses (Machine/Ops). One that
holds once is gone with the host-memory read that meets it (R567). -/
structure MemFault where
  base : Nat
  len  : Nat
  kind : MemFaultKind
  once : Bool := false
  deriving DecidableEq, Repr

/-- An uncorrectable SRAM error in the slots of a reduction die: the chunk of a collective that they hold (R544). -/
structure SlotError where
  die    : Nat
  group  : BitVec 12
  collId : Word
  chunk  : Nat
  deriving DecidableEq, Repr

/-- What happened around the module before a command: the bytes that a submitter or driver stored in its own memory, the
ranges that from now on refuse accesses (R146, R173), and SRAM errors in reduction slots (R544). -/
structure Env where
  stores : List Host.Cell := []
  faults : Option (List MemFault) := none
  slotErrors : List SlotError := []
  deriving DecidableEq, Repr

/-! ## Rails, kinds of unit -/

/-- The data-plane rails with a power-good input (R503). -/
inductive Rail where
  | core | serdes | io | memory
  deriving DecidableEq, Repr

/-- The kinds of unit of the bunting, in the order of R542. -/
inductive UnitKind where
  | lane | plane | reduction | epb | mgmt | clock | memory | fwSlot | hostPort
  deriving DecidableEq, Repr

/-! ## Packets -/

/-- The packet header (R70), field by field. -/
structure Header where
  version  : BitVec 4
  ptype    : BitVec 4
  cls      : BitVec 3
  colour   : BitVec 2
  flags    : BitVec 7
  dst      : Fid
  src      : Fid
  burgee   : BitVec 24
  opcode   : Byte
  length   : BitVec 13
  seq      : Word
  tag      : BitVec 16
  halyard  : BitVec 12
  age      : BitVec 16
  hops     : BitVec 6
  hint     : Byte
  region   : Word
  offset   : BitVec 48
  cnonce   : BitVec 60
  sgen     : BitVec 4
  dgen     : BitVec 4
  rsvd     : BitVec 49
  deriving DecidableEq, Repr

/-- A packet: its header and every byte that follows the header (R68). -/
structure Packet where
  hdr  : Header
  body : Bytes
  deriving DecidableEq, Repr

/-- A cell as the crossbar carries it: the fields of its header (R78), its 240 payload bytes, and the plane that brought it. -/
structure CellMsg where
  plane    : Nat
  pos      : BitVec 2
  packetId : BitVec 20
  index    : BitVec 5
  ingress  : BitVec 8
  egress   : BitVec 8
  cls      : BitVec 3
  colour   : BitVec 2
  valid    : Byte
  halyard  : Bool
  arrival  : BitVec 24
  ecc      : Byte
  rsvd     : BitVec 39
  payload  : Bytes
  deriving DecidableEq, Repr

/-! ## Other messages -/

/-- A commit-vote record (R333) with the fabric ID, unit and context of the WRITE packet that carries it, and the PEERS that a
PREPARE carries (R335), for which the record of R333 names no bytes. -/
structure VoteMsg where
  src   : Fid
  unit  : Nat
  ctx   : CtxId
  record : Bytes
  peers : List Fid
  deriving DecidableEq, Repr

/-- How a doorbell reached the module (R171): on an attach port, or on a page of the owner's BAR4. -/
inductive DbPath where
  | attach (port : Nat)
  | page (host : Nat)
  deriving DecidableEq, Repr

/-- What a cable's flags and monitors show at a poll (R403). -/
structure CableFlags where
  warning  : Bool
  monitor  : Bool
  alarm    : Bool
  lossLock : Bool
  txFault  : Bool
  deriving DecidableEq, Repr

/-- One ageing-monitor reading (R526, R527): number, lane measured, value; none where the monitor is not valid. -/
structure MonReading where
  number : Nat
  sub    : BitVec 4
  value  : Option (BitVec 16)
  deriving DecidableEq, Repr

/-- The key of an ordered or read stream at either end (R81). -/
structure StreamKey where
  src  : Fid
  ctx  : CtxId
  dst  : Fid
  read : Bool
  deriving DecidableEq, Repr

/-- An ownership transfer (R154, step 5): the packet's header, FORCED and the new owner. The spec gives its packet no type,
opcode or payload: `tagOk` and `crcOk` say whether the tag and the CRC-64 of the bytes that carry it verify (R82). -/
structure OwnMsg where
  hdr      : Header
  forced   : Bool
  newOwner : CtxId
  tagOk    : Bool := true
  crcOk    : Bool := true
  deriving DecidableEq, Repr

/-- What an access to a harbour line meets after its EDC retries (R316, R535): no error, a corrected one, or an uncorrectable
one. -/
inductive LineRead where
  | clean | corrected | uncorrectable
  deriving DecidableEq, Repr

/-- A collective of a module: context, group, plan epoch and COLL_ID. -/
structure CollKey where
  ctx    : CtxId
  group  : BitVec 12
  epoch  : BitVec 16
  collId : Word
  deriving DecidableEq, Repr

/-- A harbour set: context and HSET (R318). -/
structure SetKey where
  ctx  : CtxId
  hset : Word
  deriving DecidableEq, Repr

/-! ## The commands -/

/-- The commands of the block, one constructor for each row of the opcode table. -/
inductive Instr where
  -- power-up, boot and the control plane
  | pgCtlAssert
  | rootPllLock (role : BitVec 2) (lockstep : Bool) (selfTest0 : Bool) (env : Env)
  | mainImageCheck (dieImages : List Bytes) (tables : List Bytes)
  | configAnswerStart
  | memoryTrainingDone (rates : List (BitVec 6))
  | bootComplete
  | powerGoodBootTimeout
  | pgCtlDeassert
  | dataPlanePgLoss (rail : Rail)
  | rootPllLockLoss (refLost : Bool)
  | epoAssert
  | thermalTrip
  | fastShedAssert
  | fastShedRelease
  | capCodeSample (code : BitVec 4)
  | powerMeasure (watts : BitVec 12)
  | coreVsetStep
  | thermalCapStep (hottest : BitVec 16)
  -- host interface
  | perstNAssert (port : Nat)
  | hostLinkLoss (port : Nat)
  | hostReadTimeout (addr len : Nat)
  | nonOwnerMemoryRequest (port : Nat)
  | registerWrite (off : Nat) (data : Bytes)
  | counterReadClear (off size : Nat)
  | pairLoRead (off size : Nat)
  | leaveMaintRequest (role : BitVec 2) (env : Env)
  | enterMaintRequest (role : BitVec 2)
  | stateReqReservedTarget (target : BitVec 4) (role : BitVec 2)
  | arm (die : Nat)
  | residueInjectFire (die : Nat)
  | retrain (port : Nat)
  | release (port : Nat)
  | portEnableWrite (port : Nat) (value : Word)
  | cacheEnWrite (block : Nat) (value : Word)
  | halyardEnable (h : Nat) (cfg : Word)
  | halyardClear (h : Nat)
  | eventRingEnable (lo hi : Word)
  | mboxTailWrite (index : BitVec 16) (env : Env)
  | mailboxRequest
  | start (env : Env)
  | firmwareProgramDone (flashOk : Bool)
  | next
  | confirm
  | run
  | plannerPeriod
  | takeover
  | resume
  | hostDoorbellPageWrite (page off : Nat) (data : Bytes)
  | standbyMsixWrite (off : Nat) (data : Bytes)
  | bar2Access (off len : Nat) (write : Option Bytes)
  -- queues
  | submissionDoorbell (path : DbPath) (doorbell : DWord) (env : Env)
  | consumerDoorbell (path : DbPath) (doorbell : DWord)
  | descriptorFetch (block queue : Nat)
  | counterWaitSatisfied (block queue : Nat)
  | tileStart (block queue : Nat)
  | pennantWrite (block queue : Nat)
  | contextAdmit (block : Nat)
  -- commands of a queue
  | write (block queue : Nat)
  | read (block queue : Nat)
  | vread (block queue : Nat)
  | atomic (block queue : Nat)
  | copyPush (block queue : Nat)
  | copyPull (block queue : Nat)
  | copyLocal (block queue : Nat)
  | fence (block queue : Nat)
  | checkAccumulate (block queue : Nat)
  | checkRead (block queue : Nat)
  | checkLoad (block queue : Nat)
  | ownXfer (block queue : Nat)
  | ownershipTransferApply (msg : OwnMsg)
  | xlateInval (block queue : Nat)
  | ctxDefine (block queue : Nat)
  | queueEnable (block queue : Nat)
  | queueDisable (block queue : Nat)
  | ctrWrite (block queue : Nat)
  | ctrAdd (block queue : Nat)
  | ctrRead (block queue : Nat)
  | nop (block queue : Nat)
  | collLaunch (block queue : Nat)
  | collExt (block queue : Nat)
  | regroup (block queue : Nat)
  | groupDefine (block queue : Nat)
  | groupClose (block queue : Nat)
  | progLoad (block queue : Nat)
  | progUnload (block queue : Nat)
  | halyardWatch (block queue : Nat)
  | hbSetCreate (block queue : Nat)
  | hbSetDestroy (block queue : Nat)
  | hbPortBind (block queue : Nat)
  | hbPortUnbind (block queue : Nat)
  | hbSweep (block queue : Nat)
  | hbCommit (block queue : Nat)
  | hbStepAbort (block queue : Nat)
  | hbQuota (block queue : Nat)
  | teardown (block queue : Nat)
  | teardownQuietExpiry (ctx : CtxId)
  | tdReq (pkt : Packet)
  | tdDone (pkt : Packet)
  | tdDoneTimeout (peer : Fid) (ctx : CtxId)
  -- packets at the source and at the home
  | orderedReqReceive (pkt : Packet)
  | readReqReceive (pkt : Packet)
  | answerReceive (unit : Nat) (pkt : Packet)
  | resendTimeout (request : Nat)
  | ledgerEntryExpiry (block : Nat) (key : StreamKey) (seq : Word)
  | combinablePacketArrive (pkt : Packet)
  | combineWindowClose (die : Nat)
  | combinedAdd (pkt : Packet)
  | blockRestart (port : Nat) (pkt : Packet)
  | blockRestartRepeat (fid : Fid)
  | spareBlockQuietExpiry (block : Nat)
  -- the switch core
  | packetIngress (port : Nat) (pkt : Packet)
  | cellArrive (port : Nat) (cell : CellMsg)
  | reassemblyTimeout (port ingress packetId : Nat)
  | egressTransmit (port : Nat)
  | congNotify (pkt : Packet)
  | rateLimitRecover (block : Nat) (fid : Fid)
  | routeWithdraw (port : Nat) (pkt : Packet)
  | routeRestore (port : Nat) (pkt : Packet)
  | routeRestoreDelayExpiry (fid : Fid)
  -- cables and ports
  | cableInsert (port : Nat)
  | cableModuleLowPwr (port : Nat) (cmisRev : Byte) (appsOk : Bool)
  | cableModuleReady (port : Nat)
  | cableDpActivated (port : Nat)
  | cableBringupFail (port : Nat) (stepNo : Nat)
  | cableRetryExpiry (port : Nat)
  | cableRemove (port : Nat)
  | cablePoll (port : Nat) (flags : CableFlags)
  | sdaStuck (port : Nat) (stillLow : Bool)
  | linkInit (port : Nat) (frame : Bytes)
  | initAck (port : Nat) (frame : Bytes)
  | trainingTimeout (port : Nat)
  | los (port : Nat) (lanes : BitVec 9)
  | fecFail (port : Nat) (corrected uncorrectable : Nat)
  | swapReq (port : Nat) (frame : Bytes)
  | swapReady (port : Nat) (frame : Bytes)
  | swapMarker (port : Nat) (transmit : Bool)
  | swapTimeout (port : Nat)
  -- link frames and the attach link
  | dataFrameReceive (port : Nat) (frame : Bytes)
  | credit (port : Nat) (frame : Bytes)
  | creditSendTimer (port : Nat)
  | linkRetry (port : Nat) (frame : Bytes)
  | apWr (port : Nat) (tag : BitVec 16) (ctx : CtxId) (window : BitVec 12) (addr : DWord) (data : Bytes)
  | apRd (port : Nat) (tag : BitVec 16) (ctx : CtxId) (window : BitVec 12) (addr : DWord) (len : Nat) (vol : Bool)
  | cpl (port : Nat) (tag : BitVec 16) (status : Byte) (data : CplData)
  | attachTimeout (port : Nat) (tag : BitVec 16)
  -- collective messages and their timers
  | plan (pkt : Packet)
  | join (pkt : Packet)
  | joinTimeout (group : BitVec 12)
  | activate (pkt : Packet)
  | close (pkt : Packet)
  | ready (pkt : Packet)
  | claimGrant (cls : BitVec 3)
  | claimTimeout (key : CollKey)
  | go (pkt : Packet)
  | scan (pkt : Packet)
  | anchors (pkt : Packet)
  | contrib (pkt : Packet)
  | partialSum (pkt : Packet) (negZeros : List Nat)
  | result (pkt : Packet)
  | checked (pkt : Packet)
  | delivered (pkt : Packet)
  | commit (pkt : Packet)
  | retract (pkt : Packet)
  | abort (pkt : Packet)
  | stall (pkt : Packet)
  | stallTimeout (group : BitVec 12) (collId : Word) (chunk : Nat)
  | done (pkt : Packet)
  | finish (pkt : Packet)
  | provCrc (pkt : Packet)
  | provList (pkt : Packet)
  -- the harbour's commit vote
  | prepare (msg : VoteMsg)
  | voteYes (msg : VoteMsg)
  | voteNo (msg : VoteMsg)
  | decideCommit (msg : VoteMsg)
  | decideAbort (msg : VoteMsg)
  | voteTimeout (key : SetKey)
  | preparedQueryTimer (key : SetKey)
  | query (msg : VoteMsg)
  | stateReply (msg : VoteMsg)
  -- the ensign session
  | hello (msg : Bytes)
  | keyInstall (msg : Bytes)
  | keyActivate (msg : Bytes)
  | keyRetire (msg : Bytes)
  | sessionEnd (msg : Bytes)
  | sessionIdleTimeout (session : Word)
  | ensignFwd (pkt : Packet)
  | ensignRsp (pkt : Packet)
  -- lock-step
  | lsPair (port : Nat) (pkt : Packet)
  | lsRecord (port : Nat) (pkt : Packet)
  | lsMatchTimeout (kind : Byte) (key : DWord)
  | lsDiverge (port : Nat) (pkt : Packet)
  | lsResume (port : Nat) (pkt : Packet)
  -- ageing, spares and failures
  | monitorSample (readings : List MonReading)
  | failLimitResponse (monitor : Nat)
  | spareTest (kind : UnitKind) (unit : Nat)
  | spareTestDone (kind : UnitKind) (unit : Nat) (pass : Bool)
  | planeSwap (worn spare : Nat)
  | reductionDieSwap (worn spare : Nat)
  | endPointBlockSwap (block : Nat)
  | planeFail (die : Nat)
  | reductionDieFail (die : Nat)
  | endPointBlockFail (block : Nat)
  | memoryDeviceFail (device : Nat)
  | harbourLineRetire (line : Nat) (edcRetries : Nat) (found : LineRead)
  | heartbeatLoss
  | fatalError (cause : BitVec 4)
  | dumpStart
  | dumpDone
  -- PMBus
  | clearFaults
  | statusWord
  | readTemperature1
  | readPin
  | pmbusRevision
  | mfrPowerCap (write : Option (BitVec 16))
  | mfrCapState
  | pmbusUnsupportedCommand (code : Byte)
  -- further events
  | dataPlanePgAssert (rail : Rail)
  | lanesAligned (port : Nat) (lanes : BitVec 9)
  | spareLaneLock (port : Nat)
  | contextQuantumExpiry (block : Nat) (ctx : CtxId)
  | prepareWaitExpiry (key : SetKey)
  | managementDieFault
  | standbyDieFault
  | perstNDeassert (port : Nat)
  | hostLinkUp (port : Nat)
  | msixVectorUnmask (port vector : Nat)
  deriving DecidableEq, Repr

end Sys2Proof
end

