-- ==== Sys2Proof/Machine/Bits.lean ====
section
/-!
DEFINITION. Little-endian fields of byte strings (R7), bit fields, association lists, and the sparse store that memory
and the register file share.
-/
namespace Sys2Proof.Machine

open Sys2Proof

/-! ## Byte strings -/

/-- The number a byte string spells, little-endian (R7). -/
def leNat : Bytes → Nat
  | [] => 0
  | b :: bs => b.toNat + 256 * leNat bs

/-- The low `n` bytes of a number, little-endian (R7). -/
def toLe : Nat → Nat → Bytes
  | 0, _ => []
  | n + 1, v => BitVec.ofNat 8 v :: toLe n (v / 256)

/-- The number a byte string spells, big-endian (R440). -/
def beNat (bs : Bytes) : Nat := leNat bs.reverse

/-- The low `n` bytes of a number, big-endian (R440). -/
def toBe (n v : Nat) : Bytes := (toLe n v).reverse

/-- Bytes `at_` to `at_ + n - 1` of a byte string, zero where it is shorter. -/
def slice (bs : Bytes) (at_ n : Nat) : Bytes :=
  (bs.drop at_).take n ++ List.replicate (n - (bs.drop at_).length) 0

/-- The little-endian field of `n` bytes at byte `at_`. -/
def fieldAt (bs : Bytes) (at_ n : Nat) : Nat := leNat (slice bs at_ n)

/-- Byte `at_` of a byte string, zero beyond its end. -/
def byteAt (bs : Bytes) (at_ : Nat) : Byte := bs.getD at_ 0

/-- Bits `hi` to `lo` of a number. -/
def bits (v hi lo : Nat) : Nat := v / 2 ^ lo % 2 ^ (hi + 1 - lo)

/-- Bit `i` of a number. -/
def bit (v i : Nat) : Bool := v.testBit i

/-- Whether every byte of a list is zero. -/
def allZero (bs : Bytes) : Bool := bs.all (· == 0)

/-- One bit as a number. -/
def b01 (b : Bool) : Nat := if b then 1 else 0

/-- `n` bytes all zero. -/
def zeros (n : Nat) : Bytes := List.replicate n 0

/-- A byte string made exactly `n` long: cut, or padded with zeros. -/
def fit (n : Nat) (bs : Bytes) : Bytes := bs.take n ++ zeros (n - bs.length)

/-- The quotient rounded up. -/
def ceilDiv (a b : Nat) : Nat := (a + b - 1) / b

/-- Exclusive or of two byte strings, as long as the shorter. -/
def xorBytes (a b : Bytes) : Bytes := List.zipWith (· ^^^ ·) a b

/-- A byte string cut into pieces of `n` bytes, the last shorter; `fuel` bounds the number of pieces. -/
def chunksOf (n : Nat) : Nat → Bytes → List Bytes
  | 0, _ => []
  | fuel + 1, bs => if bs.isEmpty then [] else bs.take n :: chunksOf n fuel (bs.drop n)

/-- The signed value of a bit pattern of `w` bits. -/
def signed (w v : Nat) : Int := if v < 2 ^ (w - 1) then v else (v : Int) - 2 ^ w

/-- The low `w` bits of an integer, as a number. -/
def wrap (w : Nat) (i : Int) : Nat := (i % (2 ^ w : Int)).toNat

/-! ## Association lists -/

variable {κ α : Type} [DecidableEq κ]

/-- The value at a key. -/
def Tab.get? : Tab κ α → κ → Option α
  | [], _ => none
  | (k, v) :: t, key => if k = key then some v else Tab.get? t key

/-- The table with the value at a key replaced, or added at its end. -/
def Tab.put : Tab κ α → κ → α → Tab κ α
  | [], key, x => [(key, x)]
  | (k, v) :: t, key, x => if k = key then (k, x) :: t else (k, v) :: Tab.put t key x

/-- The table without a key. -/
def Tab.del (t : Tab κ α) (key : κ) : Tab κ α := t.filter (fun p => decide (p.1 ≠ key))

/-- The value at a key, or a default. -/
def Tab.getD (t : Tab κ α) (key : κ) (d : α) : α := (Tab.get? t key).getD d

/-- Whether a key has a value. -/
def Tab.has (t : Tab κ α) (key : κ) : Bool := (Tab.get? t key).isSome

/-! ## Sparse stores -/

/-- The value at an address: the listed one, or what an unlisted address reads as. -/
def sparseGet (d : Nat → α) : List (Nat × α) → Nat → α
  | [], k => d k
  | (a, v) :: t, k => if a = k then v else sparseGet d t k

/-- The store with one address removed from the list. -/
def sparseDel (l : List (Nat × α)) (k : Nat) : List (Nat × α) := l.filter (fun p => decide (p.1 ≠ k))

/-- The store with one address listed at its place in rising order. -/
def sparseIns : List (Nat × α) → Nat → α → List (Nat × α)
  | [], k, x => [(k, x)]
  | (a, v) :: t, k, x =>
    if k < a then (k, x) :: (a, v) :: t
    else if a = k then (k, x) :: t
    else (a, v) :: sparseIns t k x

/-- A write to a sparse store: a value equal to what an unlisted address reads as removes the entry. -/
def sparseSet [DecidableEq α] (d : Nat → α) (l : List (Nat × α)) (k : Nat) (x : α) : List (Nat × α) :=
  if x = d k then sparseDel l k else sparseIns l k x

/-- Whether every listed address lies above `lo`, rises strictly, and differs from what it would read as unlisted. -/
def sparseAbove [DecidableEq α] (d : Nat → α) : Option Nat → List (Nat × α) → Bool
  | _, [] => true
  | lo, (a, v) :: t => (match lo with | none => true | some b => decide (b < a)) && decide (v ≠ d a) && sparseAbove d (some a) t

/-- The canonical form of a sparse store. -/
def sparseWf [DecidableEq α] (d : Nat → α) (l : List (Nat × α)) : Bool := sparseAbove d none l

/-- Whether bytes `from_` to `to - 1` of a descriptor are reserved and zero (R8). -/
def reservedZero (d : Bytes) (first stop : Nat) : Bool := allZero (slice d first (stop - first))

end Sys2Proof.Machine
end

