-- ==== Sys2Proof/Machine/Crypto.lean ====
section
/-!
DEFINITION. The check value and the cryptographic functions the spec takes from its standards: CRC-64/XZ (R75),
SHA-384 (FIPS 180-4), HMAC and HKDF (RFC 5869), AES-256 with GCM (SP 800-38D) and XTS (IEEE 1619), and ECDSA and ECDH on
brainpoolP384r1 (RFC 5639). PRESUMED: the spec names these standards and does not print their tables (log 5).
-/
namespace Sys2Proof.Machine

open Sys2Proof

/-! ## CRC-64/XZ (R75) -/

/-- The reflected polynomial of R75. -/
def crcPoly : DWord := 0xC96C5795D7870F42

/-- One bit of the reflected CRC register. -/
def crcBit (r : DWord) : DWord := if r.getLsbD 0 then (r >>> 1) ^^^ crcPoly else r >>> 1

/-- One byte into the reflected CRC register. -/
def crcByte (r : DWord) (b : Byte) : DWord :=
  let r := r ^^^ (b.setWidth 64)
  crcBit (crcBit (crcBit (crcBit (crcBit (crcBit (crcBit (crcBit r)))))))

/-- Accumulation of bytes into a finished CRC value (R89): start at `v` with every bit inverted, invert at the end. -/
def crcMore (v : DWord) (bs : Bytes) : DWord := ~~~ (bs.foldl crcByte (~~~ v))

/-- CRC-64/XZ of a byte string (R75). -/
def crc64 (bs : Bytes) : DWord := crcMore 0 bs

/-! ## SHA-384 (FIPS 180-4) -/

/-- Round constants 0 to 7 of SHA-512 and SHA-384 (FIPS 180-4). -/
def shaK0 : List DWord :=
  [0x428a2f98d728ae22, 0x7137449123ef65cd,
   0xb5c0fbcfec4d3b2f, 0xe9b5dba58189dbbc,
   0x3956c25bf348b538, 0x59f111f1b605d019,
   0x923f82a4af194f9b, 0xab1c5ed5da6d8118]

/-- Round constants 8 to 15 of SHA-512 and SHA-384 (FIPS 180-4). -/
def shaK1 : List DWord :=
  [0xd807aa98a3030242, 0x12835b0145706fbe,
   0x243185be4ee4b28c, 0x550c7dc3d5ffb4e2,
   0x72be5d74f27b896f, 0x80deb1fe3b1696b1,
   0x9bdc06a725c71235, 0xc19bf174cf692694]

/-- Round constants 16 to 23 of SHA-512 and SHA-384 (FIPS 180-4). -/
def shaK2 : List DWord :=
  [0xe49b69c19ef14ad2, 0xefbe4786384f25e3,
   0x0fc19dc68b8cd5b5, 0x240ca1cc77ac9c65,
   0x2de92c6f592b0275, 0x4a7484aa6ea6e483,
   0x5cb0a9dcbd41fbd4, 0x76f988da831153b5]

/-- Round constants 24 to 31 of SHA-512 and SHA-384 (FIPS 180-4). -/
def shaK3 : List DWord :=
  [0x983e5152ee66dfab, 0xa831c66d2db43210,
   0xb00327c898fb213f, 0xbf597fc7beef0ee4,
   0xc6e00bf33da88fc2, 0xd5a79147930aa725,
   0x06ca6351e003826f, 0x142929670a0e6e70]

/-- Round constants 32 to 39 of SHA-512 and SHA-384 (FIPS 180-4). -/
def shaK4 : List DWord :=
  [0x27b70a8546d22ffc, 0x2e1b21385c26c926,
   0x4d2c6dfc5ac42aed, 0x53380d139d95b3df,
   0x650a73548baf63de, 0x766a0abb3c77b2a8,
   0x81c2c92e47edaee6, 0x92722c851482353b]

/-- Round constants 40 to 47 of SHA-512 and SHA-384 (FIPS 180-4). -/
def shaK5 : List DWord :=
  [0xa2bfe8a14cf10364, 0xa81a664bbc423001,
   0xc24b8b70d0f89791, 0xc76c51a30654be30,
   0xd192e819d6ef5218, 0xd69906245565a910,
   0xf40e35855771202a, 0x106aa07032bbd1b8]

/-- Round constants 48 to 55 of SHA-512 and SHA-384 (FIPS 180-4). -/
def shaK6 : List DWord :=
  [0x19a4c116b8d2d0c8, 0x1e376c085141ab53,
   0x2748774cdf8eeb99, 0x34b0bcb5e19b48a8,
   0x391c0cb3c5c95a63, 0x4ed8aa4ae3418acb,
   0x5b9cca4f7763e373, 0x682e6ff3d6b2b8a3]

/-- Round constants 56 to 63 of SHA-512 and SHA-384 (FIPS 180-4). -/
def shaK7 : List DWord :=
  [0x748f82ee5defb2fc, 0x78a5636f43172f60,
   0x84c87814a1f0ab72, 0x8cc702081a6439ec,
   0x90befffa23631e28, 0xa4506cebde82bde9,
   0xbef9a3f7b2c67915, 0xc67178f2e372532b]

/-- Round constants 64 to 71 of SHA-512 and SHA-384 (FIPS 180-4). -/
def shaK8 : List DWord :=
  [0xca273eceea26619c, 0xd186b8c721c0c207,
   0xeada7dd6cde0eb1e, 0xf57d4f7fee6ed178,
   0x06f067aa72176fba, 0x0a637dc5a2c898a6,
   0x113f9804bef90dae, 0x1b710b35131c471b]

/-- Round constants 72 to 79 of SHA-512 and SHA-384 (FIPS 180-4). -/
def shaK9 : List DWord :=
  [0x28db77f523047d84, 0x32caab7b40c72493,
   0x3c9ebe0a15c9bebc, 0x431d67c49c100d4c,
   0x4cc5d4becb3e42b6, 0x597f299cfc657e2a,
   0x5fcb6fab3ad6faec, 0x6c44198c4a475817]

/-- The eighty round constants. -/
def shaK : List DWord :=
  shaK0 ++ shaK1 ++ shaK2 ++ shaK3 ++ shaK4 ++ shaK5 ++ shaK6 ++ shaK7 ++ shaK8 ++ shaK9

/-- The initial hash value of SHA-384. -/
def sha384Init : List DWord :=
  [0xcbbb9d5dc1059ed8, 0x629a292a367cd507, 0x9159015a3070dd17, 0x152fecd8f70e5939,
   0x67332667ffc00b31, 0x8eb44a8768581511, 0xdb0c2e0d64f98fa7, 0x47b5481dbefa4fa4]

/-- The working variables of one block. -/
structure ShaVars where
  a : DWord
  b : DWord
  c : DWord
  d : DWord
  e : DWord
  f : DWord
  g : DWord
  h : DWord

/-- One round. -/
def shaRound (v : ShaVars) (kw : DWord) : ShaVars :=
  let s1 := v.e.rotateRight 14 ^^^ v.e.rotateRight 18 ^^^ v.e.rotateRight 41
  let ch := (v.e &&& v.f) ^^^ (~~~ v.e &&& v.g)
  let t1 := v.h + s1 + ch + kw
  let s0 := v.a.rotateRight 28 ^^^ v.a.rotateRight 34 ^^^ v.a.rotateRight 39
  let maj := (v.a &&& v.b) ^^^ (v.a &&& v.c) ^^^ (v.b &&& v.c)
  { a := t1 + (s0 + maj), b := v.a, c := v.b, d := v.c, e := v.d + t1, f := v.e, g := v.f, h := v.g }

/-- The message schedule, newest word first: `n` further words after the sixteen of the block. -/
def shaSchedule : Nat → List DWord → List DWord
  | 0, w => w
  | n + 1, w =>
    let x := w.getD 14 0
    let y := w.getD 1 0
    let s0 := x.rotateRight 1 ^^^ x.rotateRight 8 ^^^ (x >>> 7)
    let s1 := y.rotateRight 19 ^^^ y.rotateRight 61 ^^^ (y >>> 6)
    shaSchedule n ((s1 + w.getD 6 0 + s0 + w.getD 15 0) :: w)

/-- The big-endian words of a block of 128 bytes. -/
def shaWords : Nat → Bytes → List DWord
  | 0, _ => []
  | n + 1, bs => BitVec.ofNat 64 (beNat (bs.take 8)) :: shaWords n (bs.drop 8)

/-- One block into the hash value. -/
def shaBlock (hs : List DWord) (block : Bytes) : List DWord :=
  let w := (shaSchedule 64 (shaWords 16 block).reverse).reverse
  let at_ := fun i => hs.getD i 0
  let v0 : ShaVars := { a := at_ 0, b := at_ 1, c := at_ 2, d := at_ 3, e := at_ 4, f := at_ 5, g := at_ 6, h := at_ 7 }
  let v := (List.zipWith (· + ·) shaK w).foldl shaRound v0
  List.zipWith (· + ·) hs [v.a, v.b, v.c, v.d, v.e, v.f, v.g, v.h]

/-- The padded message. -/
def shaPad (bs : Bytes) : Bytes :=
  bs ++ [0x80] ++ zeros ((128 + 111 - bs.length % 128) % 128) ++ toBe 16 (8 * bs.length)

/-- SHA-384 of a byte string, 48 bytes. -/
def sha384 (bs : Bytes) : Bytes :=
  let p := shaPad bs
  let hs := (chunksOf 128 (p.length / 128 + 1) p).foldl shaBlock sha384Init
  (hs.take 6).flatMap (fun w => toBe 8 w.toNat)

/-! ## HMAC and HKDF with SHA-384 (R441) -/

/-- HMAC-SHA-384, whose block is 128 bytes. -/
def hmac (key msg : Bytes) : Bytes :=
  let k := fit 128 (if key.length > 128 then sha384 key else key)
  sha384 (k.map (· ^^^ 0x5c) ++ sha384 (k.map (· ^^^ 0x36) ++ msg))

/-- The output blocks of HKDF-Expand. -/
def hkdfBlocks (prk info : Bytes) : Nat → Nat → Bytes → Bytes
  | 0, _, _ => []
  | n + 1, i, prev =>
    let t := hmac prk (prev ++ info ++ [BitVec.ofNat 8 i])
    t ++ hkdfBlocks prk info n (i + 1) t

/-- HKDF-SHA-384, extract then expand, `n` bytes of output. -/
def hkdf (salt ikm info : Bytes) (n : Nat) : Bytes :=
  (hkdfBlocks (hmac salt ikm) info (ceilDiv n 48) 1 []).take n

/-! ## AES-256 (FIPS 197) -/

/-- Multiplication by x in the field of AES. -/
def xtime (b : Byte) : Byte := if b.getLsbD 7 then (b <<< 1) ^^^ 0x1b else b <<< 1

/-- Multiplication in the field of AES over the low `n` bits of the second factor. -/
def gmul : Nat → Byte → Byte → Byte
  | 0, _, _ => 0
  | n + 1, a, b => (if b.getLsbD 0 then a else 0) ^^^ gmul n (xtime a) (b >>> 1)

/-- The product of two bytes in the field of AES. -/
def aesMul (a b : Byte) : Byte := gmul 8 a b

/-- The inverse in the field of AES: the 254th power. -/
def aesInv (a : Byte) : Byte :=
  let a2 := aesMul a a
  let a4 := aesMul a2 a2
  let a8 := aesMul a4 a4
  let a16 := aesMul a8 a8
  let a32 := aesMul a16 a16
  let a64 := aesMul a32 a32
  let a128 := aesMul a64 a64
  aesMul a128 (aesMul a64 (aesMul a32 (aesMul a16 (aesMul a8 (aesMul a4 a2)))))

/-- The substitution of AES: inversion, then the affine map. -/
def aesSub (b : Byte) : Byte :=
  let x := aesInv b
  x ^^^ x.rotateLeft 1 ^^^ x.rotateLeft 2 ^^^ x.rotateLeft 3 ^^^ x.rotateLeft 4 ^^^ 0x63

/-- The substitution's inverse. -/
def aesUnsub (b : Byte) : Byte :=
  aesInv (b.rotateLeft 1 ^^^ b.rotateLeft 3 ^^^ b.rotateLeft 6 ^^^ 0x05)

/-- The key schedule of AES-256, four-byte words newest first: `n` further words, the next one being number `i`. -/
def aesExpand : Nat → Nat → Byte → List Bytes → List Bytes
  | 0, _, _, w => w
  | n + 1, i, rcon, w =>
    let t := w.headD []
    let back := w.getD 7 []
    let u :=
      if i % 8 = 0 then xorBytes ((t.drop 1 ++ t.take 1).map aesSub) [rcon, 0, 0, 0]
      else if i % 8 = 4 then t.map aesSub
      else t
    aesExpand n (i + 1) (if i % 8 = 0 then xtime rcon else rcon) (xorBytes back u :: w)

/-- The fifteen round keys of a 32-byte key. -/
def aesKeys (key : Bytes) : List Bytes :=
  let w := (aesExpand 52 8 0x01 (chunksOf 4 8 (fit 32 key)).reverse).reverse
  (chunksOf 16 16 w.flatten)

/-- The byte order that ShiftRows leaves, and its inverse. -/
def aesShift (s : Bytes) : Bytes := [0, 5, 10, 15, 4, 9, 14, 3, 8, 13, 2, 7, 12, 1, 6, 11].map (byteAt s)
def aesUnshift (s : Bytes) : Bytes := [0, 13, 10, 7, 4, 1, 14, 11, 8, 5, 2, 15, 12, 9, 6, 3].map (byteAt s)

/-- One column times the circulant matrix of the four coefficients. -/
def aesColumn (c0 c1 c2 c3 : Byte) (s : Bytes) : Bytes :=
  let x0 := byteAt s 0
  let x1 := byteAt s 1
  let x2 := byteAt s 2
  let x3 := byteAt s 3
  [aesMul c0 x0 ^^^ aesMul c1 x1 ^^^ aesMul c2 x2 ^^^ aesMul c3 x3,
   aesMul c3 x0 ^^^ aesMul c0 x1 ^^^ aesMul c1 x2 ^^^ aesMul c2 x3,
   aesMul c2 x0 ^^^ aesMul c3 x1 ^^^ aesMul c0 x2 ^^^ aesMul c1 x3,
   aesMul c1 x0 ^^^ aesMul c2 x1 ^^^ aesMul c3 x2 ^^^ aesMul c0 x3]

/-- MixColumns and its inverse. -/
def aesMix (s : Bytes) : Bytes := (chunksOf 4 4 s).flatMap (aesColumn 2 3 1 1)
def aesUnmix (s : Bytes) : Bytes := (chunksOf 4 4 s).flatMap (aesColumn 0x0e 0x0b 0x0d 0x09)

/-- The rounds of encryption after the first key. -/
def aesRounds : List Bytes → Bytes → Bytes
  | [], s => s
  | [k], s => xorBytes (aesShift (s.map aesSub)) k
  | k :: ks, s => aesRounds ks (xorBytes (aesMix (aesShift (s.map aesSub))) k)

/-- AES encryption of one block under expanded keys. -/
def aesBlock (keys : List Bytes) (x : Bytes) : Bytes := aesRounds (keys.drop 1) (xorBytes (fit 16 x) (keys.headD []))

/-- The rounds of decryption: the keys come last first. -/
def aesUnrounds : List Bytes → Bytes → Bytes
  | [], s => s
  | [k], s => xorBytes s k
  | k :: ks, s => aesUnrounds ks ((aesUnshift (if ks.length = 14 then xorBytes s k else aesUnmix (xorBytes s k))).map aesUnsub)

/-- AES decryption of one block under expanded keys. -/
def aesUnblock (keys : List Bytes) (x : Bytes) : Bytes := aesUnrounds keys.reverse (fit 16 x)

/-! ## GCM (SP 800-38D) -/

/-- One step of the GHASH product: the bits of `x` from the left, `v` multiplied by x each time. -/
def gcmMulLoop : Nat → BitVec 128 → BitVec 128 → BitVec 128 → BitVec 128
  | 0, _, z, _ => z
  | n + 1, x, z, v =>
    gcmMulLoop n x (if x.getLsbD n then z ^^^ v else z)
      (if v.getLsbD 0 then (v >>> 1) ^^^ 0xe1000000000000000000000000000000 else v >>> 1)

/-- The product in the field of GCM. -/
def gcmMul (x y : BitVec 128) : BitVec 128 := gcmMulLoop 128 x 0 y

/-- GHASH over whole blocks. -/
def ghash (h : BitVec 128) (bs : Bytes) : BitVec 128 :=
  (chunksOf 16 (bs.length / 16 + 1) bs).foldl (fun y b => gcmMul (y ^^^ BitVec.ofNat 128 (beNat (fit 16 b))) h) 0

/-- A byte string padded with zeros to whole blocks. -/
def pad16 (bs : Bytes) : Bytes := bs ++ zeros ((16 - bs.length % 16) % 16)

/-- The key stream of counter mode from block counter `i`. -/
def ctrStream (keys : List Bytes) (iv : Bytes) : Nat → Nat → Bytes
  | 0, _ => []
  | n + 1, i => aesBlock keys (iv ++ toBe 4 i) ++ ctrStream keys iv n (i + 1)

/-- GCM counter mode over a message, with a 96-bit IV (R441). -/
def gcmCtr (keys : List Bytes) (iv data : Bytes) : Bytes :=
  xorBytes data (ctrStream keys iv (ceilDiv data.length 16) 2)

/-- The tag of a ciphertext. -/
def gcmTag (keys : List Bytes) (iv aad cipher : Bytes) : Bytes :=
  let h := BitVec.ofNat 128 (beNat (aesBlock keys (zeros 16)))
  let y := ghash h (pad16 aad ++ pad16 cipher ++ toBe 8 (8 * aad.length) ++ toBe 8 (8 * cipher.length))
  xorBytes (toBe 16 y.toNat) (aesBlock keys (iv ++ toBe 4 1))

/-- AES-256-GCM: ciphertext, then the tag of 16 bytes. -/
def gcmSeal (key iv aad plain : Bytes) : Bytes :=
  let keys := aesKeys key
  let c := gcmCtr keys iv plain
  c ++ gcmTag keys iv aad c

/-- AES-256-GCM: the plaintext of ciphertext and tag, when the tag verifies. -/
def gcmOpen (key iv aad sealed : Bytes) : Option Bytes :=
  if sealed.length < 16 then none
  else
    let keys := aesKeys key
    let c := sealed.take (sealed.length - 16)
    if gcmTag keys iv aad c = sealed.drop (sealed.length - 16) then some (gcmCtr keys iv c) else none

/-! ## XTS (IEEE 1619), whole blocks only (R322) -/

/-- The tweak of the next block: multiplication by x in the field of XTS, little-endian. -/
def xtsNext (t : BitVec 128) : BitVec 128 := if t.getLsbD 127 then (t <<< 1) ^^^ 0x87 else t <<< 1

/-- Each block of a data unit under its tweak. -/
def xtsBlocks (f : Bytes → Bytes) : List Bytes → BitVec 128 → Bytes
  | [], _ => []
  | b :: bs, t =>
    let tw := toLe 16 t.toNat
    xorBytes (f (xorBytes b tw)) tw ++ xtsBlocks f bs (xtsNext t)

/-- AES-256-XTS encryption of a data unit: key 1 then key 2 of the 64-byte key, a 128-bit little-endian tweak. -/
def xtsSeal (key : Bytes) (tweak : Nat) (data : Bytes) : Bytes :=
  let t := BitVec.ofNat 128 (leNat (aesBlock (aesKeys (key.drop 32)) (toLe 16 tweak)))
  xtsBlocks (aesBlock (aesKeys (key.take 32))) (chunksOf 16 (data.length / 16 + 1) data) t

/-- AES-256-XTS decryption of a data unit. -/
def xtsOpen (key : Bytes) (tweak : Nat) (data : Bytes) : Bytes :=
  let t := BitVec.ofNat 128 (leNat (aesBlock (aesKeys (key.drop 32)) (toLe 16 tweak)))
  xtsBlocks (aesUnblock (aesKeys (key.take 32))) (chunksOf 16 (data.length / 16 + 1) data) t

/-! ## brainpoolP384r1 (RFC 5639) -/

def bpP : Nat := 0x8CB91E82A3386D280F5D6F7E50E641DF152F7109ED5456B412B1DA197FB71123ACD3A729901D1A71874700133107EC53
def bpA : Nat := 0x7BC382C63D8C150C3C72080ACE05AFA0C2BEA28E4FB22787139165EFBA91F90F8AA5814A503AD4EB04A8C7DD22CE2826
def bpB : Nat := 0x04A8C7DD22CE28268B39B55416F0447C2FB77DE107DCD2A62E880EA53EEB62D57CB4390295DBC9943AB78696FA504C11
def bpGx : Nat := 0x1D1C64F068CF45FFA2A63A81B7C13F6B8847A3E77EF14FE3DB7FCAFE0CBD10E8E826E03436D646AAEF87B2E247D4AF1E
def bpGy : Nat := 0x8ABE1D7520F9C2A45CB1EB8E95CFD55262B70B29FEEC5864E19C054FF99129280E4646217791811142820341263C5315
def bpN : Nat := 0x8CB91E82A3386D280F5D6F7E50E641DF152F7109ED5456B31F166E6CAC0425A7CF3AB6AF6B7FC3103B883202E9046565

/-- A power modulo m over the low `n` bits of the exponent. -/
def powMod (m : Nat) : Nat → Nat → Nat → Nat
  | 0, _, _ => 1 % m
  | n + 1, b, e =>
    let r := powMod m n (b * b % m) (e / 2)
    if e % 2 = 1 then b * r % m else r

/-- The inverse modulo a prime of 384 bits. -/
def invMod (m a : Nat) : Nat := powMod m 384 (a % m) (m - 2)

/-- The sum of two points of the curve; none is the point at infinity. -/
def ecAdd : Option (Nat × Nat) → Option (Nat × Nat) → Option (Nat × Nat)
  | none, q => q
  | p, none => p
  | some (x1, y1), some (x2, y2) =>
    if x1 = x2 ∧ (y1 + y2) % bpP = 0 then none
    else
      let l :=
        if x1 = x2 then (3 * x1 * x1 + bpA) % bpP * invMod bpP (2 * y1 % bpP) % bpP
        else (y2 + bpP - y1) % bpP * invMod bpP ((x2 + bpP - x1) % bpP) % bpP
      let x3 := (l * l + 2 * bpP - x1 - x2) % bpP
      some (x3, (l * ((x1 + bpP - x3) % bpP) + bpP - y1) % bpP)

/-- A multiple of a point over the low `n` bits of the scalar. -/
def ecMul : Nat → Nat → Option (Nat × Nat) → Option (Nat × Nat)
  | 0, _, _ => none
  | n + 1, k, p =>
    let r := ecMul n (k / 2) (ecAdd p p)
    if k % 2 = 1 then ecAdd p r else r

/-- The base point. -/
def bpG : Option (Nat × Nat) := some (bpGx, bpGy)

/-- A point in uncompressed form (R441), if it is on the curve. -/
def pointOf (bs : Bytes) : Option (Nat × Nat) :=
  let x := beNat (slice bs 1 48)
  let y := beNat (slice bs 49 48)
  if bs.length = 97 ∧ byteAt bs 0 = 4 ∧ x < bpP ∧ y < bpP ∧ y * y % bpP = (x * x * x + bpA * x + bpB) % bpP
  then some (x, y) else none

/-- The uncompressed form of a point (R441). -/
def pointBytes : Option (Nat × Nat) → Bytes
  | none => zeros 97
  | some (x, y) => 4 :: (toBe 48 x ++ toBe 48 y)

/-- The public point of a private scalar. -/
def publicOf (d : Nat) : Option (Nat × Nat) := ecMul 384 d bpG

/-- ECDSA with SHA-384 (R441): does a 96-byte signature over the bytes verify under a public point? -/
def ecdsaVerify (pub : Option (Nat × Nat)) (msg sig : Bytes) : Bool :=
  let r := beNat (slice sig 0 48)
  let s := beNat (slice sig 48 48)
  if pub.isNone ∨ r = 0 ∨ bpN ≤ r ∨ s = 0 ∨ bpN ≤ s then false
  else
    let w := invMod bpN s
    let z := beNat (sha384 msg)
    match ecAdd (ecMul 384 (z * w % bpN) bpG) (ecMul 384 (r * w % bpN) pub) with
    | none => false
    | some (x, _) => x % bpN == r

/-- ECDSA with SHA-384 (R441): r followed by s, for a private scalar and a per-signature secret. -/
def ecdsaSign (d k : Nat) (msg : Bytes) : Bytes :=
  let r := match ecMul 384 k bpG with
    | none => 0
    | some (x, _) => x % bpN
  let s := invMod bpN k * ((beNat (sha384 msg) + r * d) % bpN) % bpN
  toBe 48 r ++ toBe 48 s

/-- The ECDH output of R441: the X coordinate of the shared point. -/
def ecdhX (d : Nat) (pub : Option (Nat × Nat)) : Bytes :=
  match ecMul 384 d pub with
  | none => zeros 48
  | some (x, _) => toBe 48 x

end Sys2Proof.Machine
end

