-- ==== Sys2Proof/Config.lean ====
section
/-!
DEFINITION. What one module has that the spec leaves open: fused values, draws of the random bit generators, and free
values. Every constant here is opaque, so no proof can rest on what it is; each is named in the assumption log.
-/
namespace Sys2Proof.Config

/-- Draw number `n` of the module's random bit generators, one byte each (R361, R438, R441, R594). -/
opaque random : Nat → Byte

/-- The REASON byte of an event record that the rule with this number calls for (R584): the spec names no values. -/
opaque eventReason : Nat → Byte

/-- A value the spec leaves undefined or does not state, by the model's free counter. -/
opaque freeValue : Nat → BitVec 64

/-- The Vendor ID assigned to Neldiat (R565). -/
opaque vendorId : Nat

/-- A byte the spec leaves undefined, by the model's free counter and the byte's place. -/
opaque freeByte : Nat → Nat → Byte

/-- The private scalar of the identity key, fused at manufacture (R442). -/
opaque identityScalar : Nat

/-- The fused hash of Neldiat's firmware signing key, byte by byte (R445). -/
opaque signerHash : Nat → Byte

/-- The module's fused base voltage in mV (R504). -/
opaque baseMv : Nat

/-- The hash that steers a combinable packet to a reduction die (R219): of DST_FID, context ID, REGION and OFFSET. -/
opaque combineHash : Nat → Nat → Nat → Nat → Nat

/-- The rounding mode that DYN names in a sweep, by context, program and sweep ID (R329, R478): the spec gives a sweep none. -/
opaque sweepRound : Nat → Nat → Nat → Nat

/-- The hash of a program, or of a version of a parameter set, that a module takes into a record without holding it, byte by byte: by
context, handle and version (R338, R484, R488). -/
opaque remoteHash : Nat → Nat → Nat → Nat → Byte

/-- The draw under which the sum of squares is rounded in mode 4, by context and COLL_ID (R53, R265): the spec states none. -/
opaque sumsqDraw : Nat → Nat → BitVec 32

/-- The hash of SRC_FID, DST_FID and BURGEE that breaks a routing tie (R365). -/
opaque tieHash : Nat → Nat → Nat → Nat

/-- The hash of a flow, one of 4,096 (R365). -/
opaque flowHash : Nat → Nat → Nat → Nat

/-- The SECDED code of a cell header's low 81 bits, and what a header under another code is corrected to, none where its error is
uncorrectable (R78): the spec names no code. -/
opaque cellEcc : Nat → Byte
opaque cellFix : Nat → Byte → Option Nat

/-- The application that the cable of a port advertises for its lanes, as AppSel names it, and the equalisation of the tuning table for the
cable (R402, steps 2 and 3). -/
opaque appSel : Nat → Byte
opaque equalisation : Nat → Byte

/-- How many 64ths of the issue slots the power controller withholds at a measured draw under an effective cap (R513). -/
opaque withheldSlots : Nat → Nat → Nat

/-- Whether a lookup uses a cached table entry that no longer equals its table in memory (R120): by the number of the lookup,
the block, the kind of entry and its key. -/
opaque useCached : Nat → Nat → Nat → Nat → Bool

/-- Which entry a full translation cache gives up (R111), by the number of the lookup and the length of the caches. -/
opaque cacheVictim : Nat → Nat → Nat

/-- The control cores' trace, byte by byte (R557, FW_TRACE). -/
opaque fwTrace : Nat → Byte

end Sys2Proof.Config
end

