-- ==== Sys2Proof/Machine/State.lean ====
section
/-!
DEFINITION. The state of a DX-144 module as plain data, its fault and refusal reasons, and the state after reset.
Registers that a table of the spec lays out live in `State.regs` (Machine/RegMap says what each reads as when unlisted);
the other records hold what the spec says the dies keep outside those registers.
-/
namespace Sys2Proof.Machine

open Sys2Proof

/-! ## Why a step stops -/

/-- Why a command ends in a fault. -/
inductive Fault where
  /-- Raised by a BAR0 access whose offset lies at or above the 256 MiB of BAR0 (R10, R565), and by a BAR2 access at or
  above its 64 GiB: the address does not exist. Safe: the machine stops where hardware would not see the access. -/
  | outsideBar (offset : Nat)
  deriving DecidableEq, Repr

/-- Why a command is refused. -/
inductive Refusal where
  /-- Raised only by an arm of `exec` for a command that has no meaning yet. Safe: nothing is claimed of it. -/
  | notModelled (mnemonic : String)
  deriving DecidableEq, Repr

/-! ## Module, host interface, power -/

/-- The variants of the part (00_scope, "Variants"). -/
inductive Variant where
  | dx144 | dx144n | dx96
  deriving DecidableEq, Repr

/-- The module states of R570. DEGRADED is a field of its own. -/
inductive Mode where
  | off | reset | boot | maint | service | fatal | dump | epoOff
  deriving DecidableEq, Repr

/-- Levels of the module's input pins (R505, R511, R512, R517, R520; 21_package). -/
structure Pins where
  pgCtl     : Bool
  pgCore    : Bool
  pgSerdes  : Bool
  pgIo      : Bool
  pgMem     : Bool
  epoLow    : Bool
  shedLow   : Bool
  deriving DecidableEq, Repr

/-- An entry of an MSI-X table (R565, R586). -/
structure MsixEntry where
  addr   : DWord
  data   : Word
  masked : Bool
  deriving DecidableEq, Repr

/-- A PCI Express port and the MSI-X structures of its function (R564 to R567): the generation and width to which its link trained, 0 while it
is down, the sizes that the host configured, and the power state, D0 or D3hot. -/
structure HostPort where
  linkUp   : Bool
  perst    : Bool
  table    : Tab Nat MsixEntry
  waiting  : List Nat
  aerCount : Nat
  linkGen  : Nat := 0
  width    : Nat := 0
  maxPayload : Nat := 128
  maxRead  : Nat := 512
  d3hot    : Bool := false
  deriving DecidableEq, Repr

/-- An event record (R584): the bytes of DETAIL are the sixteen of bytes 16 to 31. `named` are the fabric IDs that a rule has the record
name and for which the DETAIL of R585 gives no bytes (R267, R467, log 62). -/
structure EventRec where
  kind   : Byte
  reason : Byte
  lost   : Bool
  unit   : Byte
  seq    : Word
  time   : DWord
  detail : Bytes
  named  : List Fid := []
  deriving DecidableEq, Repr

/-- The host side of the management dies (R30, R548, R564 to R567, R575, R583). `request` is the request that is being carried out, by its
TARGET and ROLE (BUSY, R598), and `stopping` says that its queues have been disabled on the way to MAINT (R579). -/
structure HostIf where
  owner       : Nat
  ownerCause  : BitVec 4
  standbyReady : Bool
  answering   : Bool
  port0       : HostPort
  port1       : HostPort
  reqStatus   : Byte
  reqReason   : Byte
  request     : Option (Nat × BitVec 2) := none
  stopping    : Bool := false
  eventSeq    : Word
  eventLog    : List EventRec
  eventLost   : Bool
  hiLatch     : Tab Nat Word
  loStage     : Tab Nat Word
  deriving DecidableEq, Repr

/-- The clock-and-power die (R504 to R518, R545). `gated` says that no data-plane clock runs, and `noRestart`
that a rail was lost or late, so that only a full power cycle starts the data plane. `capAgreed` is a CAP_CODE on which samples agreed in the floor state. `thermalCut` is how far the thermal cap lowers the effective cap, in quarters of
a watt, and `thermalOn` says that firmware is still lowering it. -/
structure Power where
  gated        : Bool
  noRestart    : Bool
  lanesOff     : Bool
  dpOffLow     : Bool
  capSamples   : List (BitVec 4)
  capAgreed    : Option (BitVec 4)
  pmbusCap     : Nat
  thermalCut : Nat
  thermalOn  : Bool
  floor        : Bool
  arithHalf    : Bool
  overrunSince : Option Nat
  withheld     : Nat
  ceiling      : Nat
  level        : Nat
  fill         : Nat
  lastVsetAt   : Nat
  cml          : Bool
  pmbusAnswers : List (List Byte)
  rootClockDie : Nat
  deriving DecidableEq, Repr

/-! ## Boot, firmware and the security processor -/

/-- A sealed session (R453, R455): the last accepted SEQ and the stored REPLY. -/
structure Session where
  ctx      : CtxId
  toModule : Bytes
  toTenant : Bytes
  lastSeq  : Nat
  reply    : Bytes
  lastAt   : Nat
  deriving DecidableEq, Repr

/-- The key store entry of a context (R437, R438, R458): its live epochs with the packet keys, the send epoch, the
harbour key, the claim hash, when each retired epoch was retired, and the keys of retired epochs under which packets that passed step 3 of
R82 are still to be finished (R462). -/
structure KeyEntry where
  live     : Tab (BitVec 4) Bytes
  send     : Option (BitVec 4)
  harbour  : Option Bytes
  claim    : Option Bytes
  retired  : Tab (BitVec 4) Nat
  finishing : Tab (BitVec 4) Bytes := []
  deriving DecidableEq, Repr

/-- An ensign message that this module forwards, until its answer comes (R451). -/
structure EnsignFwd where
  tag    : BitVec 16
  target : Fid
  slot   : Nat
  deriving DecidableEq, Repr

/-- Security and firmware (R438, R442 to R464). `wrapKey` is the key of this boot under which the security processor hands packet keys to
the units; `unitKeys` are the units that have fetched one: unit, context and epoch (R438). -/
structure Security where
  bootSlot    : Nat
  confirmed   : Bool
  svn         : Byte
  fwResult    : BitVec 4
  fwTarget    : Nat
  fwImage     : Bytes
  fusesBlown  : Nat
  mainOk      : Bool
  selfTest0   : Bool
  meas        : List Bytes
  sessions    : Tab Word Session
  keys        : Tab CtxId KeyEntry
  saveKey     : Option Bytes
  sealCount   : Nat
  forwards    : List EnsignFwd
  answered    : Tab (Fid × BitVec 16) (Bytes × Bytes)
  ensignOut   : List Bytes
  wrapKey     : Bytes
  unitKeys    : List (Nat × CtxId × BitVec 4)
  deriving DecidableEq, Repr

/-! ## Contexts, queues, commands -/

/-- A context as defined (R190), with its definition slot (R192) and its teardown (R466). -/
structure Context where
  blocks      : BitVec 32
  mirrorRoot  : Nat
  rankTbl     : Nat
  rankCount   : Nat
  counters    : Nat
  channels    : Nat
  weight      : Nat
  enc         : Bool
  hostTables  : Bool
  convert     : Bool
  slot        : Nat
  teardown    : Bool
  quota       : Nat
  deriving DecidableEq, Repr

/-- What a context has at one block (R178, R91, R192 to R195, R464): counters, check channels, residency, and the generation
of its save record. `parking` says that it is a victim whose started tiles have yet to retire (R195). -/
structure CtxAtBlock where
  counters   : List DWord
  channels   : List DWord
  resident   : Bool
  admittedAt : Nat
  admitNo    : Nat
  recGen     : Nat
  parking    : Bool := false
  deriving DecidableEq, Repr

/-- A queue table entry (R169). -/
structure QueueEntry where
  vector   : Nat
  notify   : Bool
  ctx      : CtxId
  cls      : BitVec 3
  headWb   : Nat
  cplLog2  : Nat
  cplBase  : Nat
  initEn   : Bool
  hostSpace : Bool
  ringLog2 : Nat
  ringBase : Nat
  deriving DecidableEq, Repr

/-- A fetched descriptor that is not yet accepted (R173, R176). `bell` numbers the doorbell that covered it (R90). -/
structure Fetched where
  index   : Nat
  hoist   : Nat
  fetchNo : Nat
  bytes   : Bytes
  bell    : Nat := 0
  deriving DecidableEq, Repr

/-- A pennant that waits to be written (R186, R187): `held` says that its command reserved an entry (R185), and
`onlyIfFree` that it is dropped where no entry is free (R184). -/
structure Pennant where
  result    : DWord
  userTag   : Word
  abandoned : Bool
  status    : Byte
  slot      : Nat
  fetchNo   : Nat
  aux       : Bytes
  held      : Bool
  onlyIfFree : Bool
  deriving DecidableEq, Repr

/-- An enabled queue (R170 to R174, R184, R185): H, T, W and C count modulo twice the ring size. `extAt` is the
slot whose COLL_EXT belongs to a launch that has left the queue (R251). -/
structure Queue where
  entry     : QueueEntry
  head      : Nat
  tail      : Nat
  written   : Nat
  consumed  : Nat
  hoistEnds : List Nat
  hoistNo   : Nat
  fetchCount : Nat
  fetched   : List Fetched
  reserved  : Nat
  pennants  : List Pennant
  takingDoorbells : Bool
  disabler  : Option Nat
  unwritten : Nat
  bells     : List Nat := []
  extAt     : Option Nat := none
  deriving DecidableEq, Repr

/-- Where an accepted command stands: accepted but held from starting, or started. -/
inductive CmdPhase where
  | accepted | started
  deriving DecidableEq, Repr

/-- What a translation cache entry stands for (R111): a leaf or a non-leaf entry of a mirror, an entry of a page list, a region
or window entry, or an entry of a rank table. -/
inductive CacheKind where
  | leaf | node | page | entry | rank
  deriving DecidableEq, Repr

/-- What tags a cached entry (R111, R112): its kind, its context, the handle or window that a translation was made through, and
the range that it covers: `size` virtual addresses, region offsets or ranks from `key` on. -/
structure CacheTag where
  kind : CacheKind
  ctx  : CtxId
  via  : Option Word
  key  : Nat
  size : Nat
  deriving DecidableEq, Repr

/-- An entry of a block's translation, walk, region or rank cache (R111): the bytes of the table entry as they were read. -/
structure CachedEntry where
  block : Nat
  tag   : CacheTag
  bytes : Bytes
  deriving DecidableEq, Repr

/-- The translations of a transfer into a local operand, held until it retires (R113, R123): the draw of the free counter at
its start, whether its row's last packet so far waits for the next tile (R69, R225), the operand's address, the runs as byte of the
operand, address and length, and the pages used. -/
structure HeldTile where
  no    : Nat
  waits : Bool
  base  : Nat
  runs  : List (Nat × Nat × Nat)
  pages : List CacheTag
  deriving DecidableEq, Repr

/-- An accepted command until its completion (R174 to R189). `tail` holds the bytes of a pushed row that wait for the tile that fills their
packet (R69, R225), `bell` numbers the doorbell that covered the command (R90), `rankNo` is where the free counter stood when its rank
was resolved, and `stale` says that an invalidate has named that rank since, before the command started (R123). `rowMiss` says that
packets have gone out for the row that a pull is in (R69, R148). -/
structure Cmd where
  id        : Nat
  block     : Nat
  queue     : Nat
  ctx       : CtxId
  index     : Nat
  hoist     : Nat
  fetchNo   : Nat
  desc      : Bytes
  ext       : Option Bytes
  phase     : CmdPhase
  sentAll   : Bool
  waitDone  : Bool
  status    : Byte
  result    : DWord
  aux       : Bytes
  refused   : Option Nat
  nextTile  : Nat
  tilesLeft : Nat
  dst       : Fid
  held      : List HeldTile
  tail      : Bytes := []
  bell      : Nat := 0
  rankNo    : Nat := 0
  stale     : Bool := false
  rowMiss   : Bool := false
  deriving DecidableEq, Repr

/-! ## What packets and frames carry -/

/-- The body of LINK_INIT (R417). -/
structure LinkInitMsg where
  attach      : Bool
  version     : Byte
  port        : Byte
  vcMask      : Byte
  lanes       : BitVec 9
  fid         : Fid
  incarnation : Word
  limits      : List Word
  deriving DecidableEq, Repr

/-- One VC of a CREDIT frame (R417). -/
structure VcCredit where
  limit : Word
  rcvd  : Word
  sent  : Word
  deriving DecidableEq, Repr

/-- A lock-step record (R491). -/
structure LsRec where
  kind  : Byte
  key   : DWord
  value : DWord
  deriving DecidableEq, Repr

/-- The payload of LS_PAIR (R490). -/
structure LsPairMsg where
  fid      : Fid
  features : List Word
  glbId    : Word
  role     : BitVec 2
  deriving DecidableEq, Repr

/-- What a collective launch must have in common at every member (R246, R251, R252). -/
structure LaunchFields where
  kind        : BitVec 4
  op          : BitVec 4
  ext         : Bool
  chunkSignal : Bool
  sumsqFp64   : Bool
  sumsq       : Bool
  prov        : Bool
  chunk       : BitVec 4
  arith       : Word
  collId      : Word
  count       : Word
  root        : BitVec 16
  program     : Word
  hset        : Word
  step        : Bytes
  params      : Bytes
  deriving DecidableEq, Repr

/-- The phase of a GO (R259, R260). -/
inductive GoPhase where
  | scan | data
  deriving DecidableEq, Repr

/-- What a COLL or COLL_CTRL packet carries after its header (R272, R273). A refusal of a plan says whether another plan of the same
epoch stands in its place (R244). -/
inductive CollBody where
  | contrib (data : Bytes)
  | partialSum (data : Bytes)
  | result (data : Bytes)
  | done (data : Bytes)
  | planFragment (start : Nat) (data : Bytes) (last : Bool) (regroup : Bool)
  | planRefuse (status : Byte) (lost : Bool)
  | join (refuse : Bool)
  | activate
  | close
  | ready (f : LaunchFields) (prefixLen : Nat)
  | go (phase : GoPhase) (count : Nat)
  | scan (words : List (BitVec 16))
  | anchors (words : List (BitVec 16))
  | checked (count : Nat) (corrupt overflow : Bool)
  | delivered
  | commit (overflow : Bool)
  | retract (newTry : Nat)
  | abort (status : Byte) (member : Nat) (faultWord : DWord)
  | stall (missing : List Fid)
  | provCrc (values : List (Nat × DWord))
  | provList (values : List DWord)
  | finish (value : DWord) (digest : Bytes)
  deriving DecidableEq, Repr

/-- A collective message: the packet's header (R271) and what its payload spells. -/
structure CollMsg where
  hdr  : Header
  body : CollBody
  deriving DecidableEq, Repr

/-! ## Packets at the source and at the home -/

/-- What a request asks for, and so what its answer does (R209, R212, R219, R225, R333). A combined packet carries the headers of
the combined packets that it merged, whose dies it answers. -/
inductive ReqKind where
  | write
  | read (dest : Option Nat) (at_ len : Nat) (fill : Bool)
  | atomic (width : Nat) (fetching : Bool) (buf : Option Nat)
  | ownXfer (msg : OwnMsg)
  | vote (hset : SetKey) (peer : Nat) (decide : Bool)
  | combined (merged : List Header)
  | mgmt (port : Option Nat)
  | coll (msg : CollMsg)
  deriving DecidableEq, Repr

/-- A request packet to be built (R23): everything but the sequence number, the tag and the key epoch, which building
gives it. `len` is LENGTH of a read. -/
structure SendReq where
  unit     : Nat
  src      : Fid
  dst      : Fid
  ctx      : CtxId
  cls      : BitVec 3
  ptype    : BitVec 4
  opcode   : Byte
  last     : Bool
  combinable : Bool
  region   : Word
  offset   : Nat
  len      : Nat
  payload  : Bytes
  kind     : ReqKind
  cmd      : Option Nat
  aperture : Option (Nat × BitVec 16)
  deriving DecidableEq, Repr

/-- A collective packet that waits for a key epoch to be built under (R76, R460): its unit, class and halyard. -/
structure CollWait where
  unit : Nat
  cls  : BitVec 3
  hal  : Option Nat
  msg  : CollMsg
  deriving DecidableEq, Repr

/-- An outstanding request (R87): the packet as built, the unit that built it, its tries and its timer, and of a line fill the lines that
an invalidation has met since it was sent (R150). -/
structure OutReq where
  id       : Nat
  unit     : Nat
  pkt      : Packet
  kind     : ReqKind
  cmd      : Option Nat
  aperture : Option (Nat × BitVec 16)
  tries    : Nat
  timerUs  : Nat
  deadline : Nat
  cfg      : Word
  stale    : List Nat
  deriving DecidableEq, Repr

/-- A stream at its source (R76, R81): the next number, packets since the epoch began, whether it is stopped, and the epoch that
it resumed under where that is not the send epoch (R460). -/
structure SrcStream where
  next       : Nat
  inEpoch    : Nat
  stopped    : Bool
  under      : Option (BitVec 4)
  deriving DecidableEq, Repr

/-- A stream at its home (R81, R82): E, the packets held for order, and whether the packet at E is being applied. -/
structure HomeStream where
  expect   : Word
  held     : List Packet
  applying : Bool
  deriving DecidableEq, Repr

/-- The answer a ledger entry holds (R214, R433). -/
inductive LedgerAnswer where
  | response (result : Bytes)
  | nak (code : Byte)
  | silent
  deriving DecidableEq, Repr

/-- A ledger entry (R214, R215). -/
structure LedgerEntry where
  block  : Nat
  key    : StreamKey
  seq    : Word
  answer : LedgerAnswer
  freeAt : Nat
  deriving DecidableEq, Repr

/-- A line of a remote line cache (R147). -/
structure CacheLine where
  die    : Nat
  ctx    : CtxId
  home   : Fid
  region : Word
  line   : Nat
  data   : Bytes
  deriving DecidableEq, Repr

/-- A combining window (R219). -/
structure Window where
  die      : Nat
  pkts     : List Packet
  total    : Nat
  closeAt  : Nat
  deriving DecidableEq, Repr

/-- A rate limit of a block for a destination (R371), in 64ths of the link rate, and when it lets the next new packet go. -/
structure RateLimit where
  block : Nat
  fid   : Fid
  rate  : Nat
  since : Nat
  freeAt : Nat
  deriving DecidableEq, Repr

/-- An answer that a rate limit delays (R371): the unit that builds it, the header that it answers, its type, opcode and payload. -/
structure AnswerWait where
  unit    : Nat
  req     : Header
  ptype   : BitVec 4
  opcode  : Byte
  payload : Bytes
  deriving DecidableEq, Repr

/-- An atomic whose port was lost and whose home has no ledger entry free for it (R215, R433). -/
structure LostAtomic where
  block : Nat
  key   : StreamKey
  seq   : Word
  deriving DecidableEq, Repr

/-! ## Attach link -/

/-- Why a request to the accelerator is outstanding, and so what its completion does (R431, R433). A pennant's writes carry its number;
once one of them has failed the others are spent (R623). A transfer's write carries the owner before it (R154). -/
inductive AttachUse where
  | homeWrite (key : StreamKey) (block : Nat) (pkt : Packet)
  | homeAtomic (key : StreamKey) (block : Nat) (pkt : Packet)
  | homeRead (block : Nat) (pkt : Packet)
  | localWrite (cmd va : Nat)
  | result (cmd : Nat) (msg : CollMsg) (va : Nat)
  | pennant (block queue no : Nat)
  | spent (block queue : Nat)
  | headWb (block queue : Nat)
  | ownOwner (block : Nat) (msg : OwnMsg) (old : CtxId)
  | lostRead (block : Nat)
  deriving DecidableEq, Repr

/-- An outstanding attach request (R423, R424): the address is a model address of the accelerator's memory, `no` is where
the free counter stood when it was sent, and `pages` are the translations that a packet's access came through (R123). -/
structure AttachReq where
  port     : Nat
  tag      : BitVec 16
  op       : Byte
  addr     : Nat
  data     : Bytes
  len      : Nat
  deadline : Nat
  no       : Nat
  use      : AttachUse
  pages    : List CacheTag := []
  deriving DecidableEq, Repr

/-- An aperture access that waits for its context to become resident or for its packets' answers (R427). `rankNo` is where the free
counter stood when its rank was resolved (R123). -/
structure Aperture where
  port  : Nat
  tag   : BitVec 16
  read  : Bool
  vol   : Bool
  ctx   : CtxId
  window : BitVec 12
  addr  : DWord
  data  : Bytes
  len   : Nat
  sent  : Bool
  rankNo : Nat := 0
  deriving DecidableEq, Repr

/-! ## Ports and cables -/

/-- The port states of R400. -/
inductive PortState where
  | down | training | up | quarantine
  deriving DecidableEq, Repr

/-- The steps of cable bring-up that a port waits in (R402). -/
inductive CableStep where
  | absent | waitLowPwr | waitReady | waitDp | ready | failed
  deriving DecidableEq, Repr

/-- A kept DATA frame (R422). -/
structure KeptFrame where
  vc   : Nat
  sent : Word
  body : Bytes
  deriving DecidableEq, Repr

/-- The credit state of one virtual channel (R420 to R422). -/
structure Vc where
  sent       : Word
  limit      : Word
  rcvd       : Word
  advertised : Word
  freed      : Word
  retrying   : Bool
  deriving DecidableEq, Repr

/-- A lane swap in progress (R407). -/
structure LaneSwap where
  lane      : Nat
  initiator : Bool
  asked     : Bool
  lane8Locked : Bool
  readySeen : Bool
  named     : Bool
  peerNamed : Bool
  marker    : Word
  peerMarker : Word
  txDone    : Bool
  rxDone    : Bool
  startedAt : Nat
  copied    : Nat := 0
  deriving DecidableEq, Repr

/-- A DATA frame body that waits for credit on its channel, since when, and the packet that it carries on a fabric port (R80, R420). -/
structure WaitFrame where
  vc   : Nat
  body : Bytes
  at_  : Nat
  pkt  : Option Packet := none
  deriving DecidableEq, Repr

/-- An external port (R400 to R408): state, cause, cable, lanes, link state. `peerInit` is the partner's last LINK_INIT, and
`newInc` says that its incarnation was new. `waitTx` holds the DATA frame bodies that wait
for credit (R420), `dead` the attach tags that the module has timed out (R432), `upAt` when the port last came UP, from which its markers
count (R397, R407), and `lane8InUse` says that lane 8 has entered service (R406, R407). `lane8Eyes` holds the eye samples of lane 8 in its running test (R532). -/
structure Port where
  state       : PortState
  cause       : BitVec 4
  cable       : CableStep
  present     : Bool
  retryAt     : Nat
  lanesFailed : BitVec 9
  lane8Tested : Bool
  lane8On     : Bool
  aligned     : BitVec 9
  active      : BitVec 9
  lastInc     : Option Word
  newInc      : Bool
  peerInit    : Option LinkInitMsg
  initSent    : Bool
  mySet       : Option (BitVec 9)
  peerAcked   : Bool
  trainingAt  : Nat
  restartLogged : Bool
  violations  : List Nat
  vcs         : List Vc
  kept        : List KeptFrame
  waitTx      : List WaitFrame
  upAt        : Nat
  swap        : Option LaneSwap
  lastCreditAt : Nat
  dead        : List (BitVec 16)
  fecWindow   : List (Nat × Nat) := []
  lane8InUse  : Bool := false
  lane8Eyes   : List Int := []
  deriving DecidableEq, Repr

/-! ## Switch core -/

/-- A packet inside the module (R354, R355, R357): where it entered, its PACKET_ID, its egress port and class, the
cells still missing, the bytes that the others brought, and when it became complete. -/
structure Transit where
  ingress  : Nat
  packetId : Nat
  egress   : Nat
  pkt      : Packet
  cells    : Nat
  missing  : List Nat
  got      : List (Nat × Bytes)
  arrival  : Nat
  firstAt  : Option Nat
  planes   : List Nat
  halyard  : Option Nat
  arrivedColour : BitVec 2
  complete : Bool
  doneAt   : Nat
  doneNo   : Nat
  deriving DecidableEq, Repr

/-- A token-bucket pair of a meter (R360), in 1,664ths of a byte, and when they were last filled. -/
structure Meter where
  port  : Nat
  cls   : Nat
  cir   : Nat
  pir   : Nat
  at_   : Nat
  deriving DecidableEq, Repr

/-- A flow that an ingress port remembers (R365). -/
structure Flow where
  ingress : Nat
  hash    : Nat
  member  : Nat
  lastAt  : Nat
  deriving DecidableEq, Repr

/-- The switch core (R351 to R378). -/
structure Switch where
  transits   : List Transit
  nextPid    : Tab Nat Nat
  admitted   : Tab Nat Nat
  doneCount  : Nat
  meters     : List Meter
  flows      : List Flow
  deficits   : Tab (Nat × Nat) Nat
  rrNext     : Tab Nat Nat
  cnSent     : Tab (Fid × Fid) Nat
  mirrorSeen : List Nat
  watches    : List (Nat × Nat)
  exclusions : List (Fid × Nat)
  excludeAll : List Nat
  withdrawn  : Tab Fid Nat
  deriving DecidableEq, Repr

/-! ## Collectives -/

/-- A member entry, a module entry and the header of a plan (R237, R238). -/
structure PlanModule where
  fid        : Fid
  parent     : Fid
  halyardEn  : Bool
  packetFallback : Bool
  halyardUp  : Nat
  halyardDn  : Nat
  deriving DecidableEq, Repr

structure Plan where
  ctx      : CtxId
  group    : BitVec 12
  epoch    : BitVec 16
  pipeline : Nat
  cls      : BitVec 3
  members  : List (Fid × Fid)
  modules  : List PlanModule
  roots    : List Fid
  deriving DecidableEq, Repr

/-- The group states of R241 (CLOSED groups leave the table). -/
inductive GroupState where
  | forming | active | stalled | regroup
  deriving DecidableEq, Repr

/-- A group as a module holds it (R236, R241, R243): `issuer` sent the plan that is being joined, at the local time
`since`, and `joinSent` says that this module has answered for it. `missing` are the fabric IDs that the last stall named (R267),
and `aborted` the collectives whose ABORT the primary root has sent (R264). -/
structure Group where
  plan     : Plan
  newPlan  : Option Plan
  state    : GroupState
  issuer   : Fid
  joined   : List Fid
  joinSent : Bool
  since    : Nat
  missing  : List Fid
  aborted  : List Word
  deriving DecidableEq, Repr

/-- The fragments of a plan record that have come from an issuing module (R243, R273). -/
structure PlanBuf where
  src      : Fid
  ctx      : CtxId
  group    : BitVec 12
  epoch    : BitVec 16
  cls      : BitVec 3
  regroup  : Bool
  frags    : List (Nat × Bytes)
  total    : Option Nat
  deriving DecidableEq, Repr

/-- A group command at its issuing module (R243): the command, the group, its epoch, the class of its packets, the receivers that
only the new plan names, and who has not yet answered. -/
structure GroupCmd where
  cmd     : Nat
  ctx     : CtxId
  group   : BitVec 12
  epoch   : BitVec 16
  cls     : BitVec 3
  fresh   : List Fid
  waiting : List Fid
  closing : Bool
  status  : Byte
  deriving DecidableEq, Repr

/-- The special-value state of an anchored accumulator (R47). -/
inductive Special where
  | finite | posInf | negInf | nan
  deriving DecidableEq, Repr

/-- A wide scalar accumulator (R61): W, its residue and its state. -/
structure Wide where
  w       : BitVec 640
  residue : BitVec 16
  special : Special
  deriving DecidableEq, Repr

/-- One accumulator of a slot: A, residue, special state and SAT mark (R39, R48, R56); whether every contribution so far
was -0 (R50), and whether none has come yet. -/
structure Acc where
  a       : BitVec 128
  residue : BitVec 16
  special : Special
  sat     : Bool
  negZero : Bool
  empty   : Bool
  deriving DecidableEq, Repr

/-- A slot claim (R254 to R256). -/
structure Claim where
  key      : CollKey
  cls      : BitVec 3
  slots    : Nat
  asked    : Nat
  granted  : Bool
  fallback : Bool
  die      : Nat
  placedAt : Nat
  deriving DecidableEq, Repr

/-- A piece of a chunk (R255): its range, its accumulators (none where the operation reduces nothing), how many elements
each child has delivered and checked, whether its partial sums or results have gone out, whether its program has been fetched and waits
at its first write (R303, R342), and when its GO went out. -/
structure Piece where
  first    : Nat
  count    : Nat
  accs     : List Acc
  cover    : List (Fid × Nat)
  checked  : List (Fid × Nat)
  sent     : Bool
  corrupt  : Bool
  overflow : Bool
  running  : Bool
  since    : Nat
  deriving DecidableEq, Repr

/-- What a module knows of one chunk (R259 to R263, R265, R486): its try, its anchors, the scan words of each child with
their first group, the ranges of GO not yet cut, its pieces, the elements checked, the elements that each member has
acknowledged, the children that have delivered, when the first RESULT and the GO of phase SCAN went out, the terms for the wide accumulator, the CRC values of its inputs, and for
lock-step the sums of the pieces checked and what each piece produced, as RESULT payload or array by array (R491, R492). -/
structure ChunkSt where
  chunk     : Nat
  tryNo     : Nat
  anchors   : List (BitVec 16)
  scans     : List (Fid × Nat × List (BitVec 16))
  scanGone  : Bool
  scanSent  : Bool
  dataGone  : Bool
  ranges    : List (Nat × Nat)
  pieces    : List Piece
  checked   : Nat
  acked     : List (Fid × Nat)
  delivered : List Fid
  leafSent  : Bool
  scanAt    : Nat
  resultAt  : Option Nat
  corrupt   : Bool
  overflow  : Bool
  provs     : List (Nat × DWord)
  wide      : Wide
  sums      : List (Nat × List Acc)
  produced  : List (Nat × List Bytes)
  deriving DecidableEq, Repr

/-- A collective at a module (R254 to R265): when it was first heard of and whether it was under way before a REGROUP, the READY of
each child, whether this module has passed READY on or started
it, its chunks, the chunks committed, the tries that RETRACT has named, the committed prefix under REGROUP, the wide accumulator of a root, and at the primary
root what the roots have sent. -/
structure Coll where
  key       : CollKey
  since     : Nat
  resumed   : Bool
  fields    : LaunchFields
  ready     : List (Fid × Nat)
  readySent : Bool
  started   : Bool
  chunks    : List ChunkSt
  committed : List Nat
  tries     : List (Nat × Nat)
  prefixLen : Nat
  wide      : Wide
  doneSent  : Bool
  dones     : List (Fid × Wide)
  provLists : List (Nat × Nat × List DWord)
  overflow  : Bool
  seen      : List (Fid × Byte × Nat × Nat × Nat)
  deriving DecidableEq, Repr

/-- A launch running at a member block (R258, R260, R262, R265, R266): the commits applied and held, the try of each chunk,
the messages seen, and what FINISH brought. -/
structure Launch where
  key       : CollKey
  cmd       : Nat
  block     : Nat
  member    : Nat
  fields    : LaunchFields
  committed : Nat
  heldCommits : List (Nat × Bool)
  overflow  : Bool
  tries     : List (Nat × Nat)
  seen      : List (Byte × Nat × Nat × Nat)
  finish    : Option (DWord × Bytes)
  deriving DecidableEq, Repr

/-- An element program held by the module (R297 to R301). -/
structure Program where
  ctx    : CtxId
  image  : Bytes
  hash   : Bytes
  deriving DecidableEq, Repr

/-! ## Harbour -/

/-- The states of a shard (R324). -/
inductive ShardState where
  | idle | opened | prepared
  deriving DecidableEq, Repr

/-- A shard of a parameter set (R318 to R325). `units` are the units of each (array, bank) in order. `stepWritten` lists
the (array, segment) that the open step has written, `everWritten` the (array, bank, segment) that a version has
written, and `lost` the banks whose contents a discarded step left undefined, each with its draw of the free counter. -/
structure Shard where
  key        : SetKey
  digest     : Bool
  priority   : Nat
  keep       : Nat
  transient  : BitVec 4
  stripeLog2 : Nat
  fmts       : List Byte
  rootCount  : Nat
  rootIndex  : Nat
  elements   : Nat
  version    : Nat
  state      : ShardState
  hash       : Bytes
  stepWritten : List (Nat × Nat)
  everWritten : List (Nat × Nat × Nat)
  lost     : List (Nat × Nat)
  units      : List (Nat × Nat × List Nat)
  createdNo  : Nat
  deriving DecidableEq, Repr

/-- A harbour port (R330): the number of binds it has had, and its binding. -/
structure HbPort where
  binds   : Nat
  bound   : Option SetKey
  unload  : Bool
  array   : Nat
  version : Nat
  deriving DecidableEq, Repr

/-- A sweep that waits at its first write for the floor state to end, with the parameter block that it has read (R342). -/
structure SweepWait where
  cmd : Nat
  key : SetKey
  params : Bytes
  deriving DecidableEq, Repr

/-- A commit vote at the coordinator or a peer (R332 to R335). -/
structure Vote where
  key        : SetKey
  step       : Nat
  coordinator : Bool
  cmd        : Option Nat
  peers      : List Fid
  yes        : List (Nat × DWord)
  preparing  : Bool
  failed     : List (Nat × Byte)
  answers    : List (Nat × Byte × Nat)
  deciding   : Bool
  waiting    : List Nat
  unreached  : List Nat
  coordinatorLost : Bool
  votedAt    : Nat
  cls        : Option (BitVec 3)
  deriving DecidableEq, Repr

/-- The harbour (R314 to R344, R535). -/
structure Harbour where
  unitsTotal : Nat
  shards     : List Shard
  created    : Nat
  ports      : Tab Nat HbPort
  votes      : List Vote
  sweeps     : List SweepWait
  held       : List (Nat × Bytes)
  poisoned   : List Nat
  retired    : Tab Nat Nat
  corrected  : Tab Nat Nat
  spareLeft  : Nat
  deriving DecidableEq, Repr

/-! ## Lock-step, ageing, faults -/

/-- The lock-step states of R500. -/
inductive LsState where
  | off | pairing | comparing | frozen | mismatch
  deriving DecidableEq, Repr

/-- A record of this module that is not yet matched (R491, R492): when it was produced, the context that it concerns, the
collective whose root holds `slots` for it, and the data that a capture of it takes (R494). -/
structure LsLocal where
  what   : LsRec
  since  : Nat
  ctx    : CtxId
  owner  : Option CollKey
  slots  : Nat
  data   : Bytes
  pool   : Option (BitVec 3 × Option Nat) := none
  deriving DecidableEq, Repr

/-- The lock-step unit (R489 to R495): records not yet matched, records not yet sent, the partner's records that met no local
one, and the captures made. -/
structure LockStep where
  state     : LsState
  cause     : BitVec 4
  localRecs : List LsLocal
  unsent    : List LsRec
  peerRecs  : List LsRec
  captures  : Nat
  captured  : Bool
  deriving DecidableEq, Repr

/-- The states of a unit in the bunting (R531). -/
inductive UnitState where
  | absent | active | spareTested | spareUntested | spareFailed | testing | draining | failed | standby
  deriving DecidableEq, Repr

/-- A unit in the bunting: a die by ordinal or an end-point block, with the local time of its last test and the state
that a running test returns to when it is ended (R531, R532, R543). -/
structure UnitRec where
  state    : UnitState
  before   : UnitState
  testedAt : Option Nat
  deriving DecidableEq, Repr

/-- Ageing and spares (R526 to R536): the lowest sample of each unit since the planner's last run, the swaps that wait, the
swap in progress as kind, worn unit and spare, whether a planner run waits for it, the planes in service in order (R354), and the dies
whose temperature is recorded as beyond the fail limit (R529). `eyeLast` is the lane that the eye monitor of each port measured last (R527), `testWorn` the units
under test with a sample beyond a wear limit, `testsDue` the tests that wait for the floor state or LIMITING to end (R532), and `replace` the
failed units, a block with its number, whose spare waits for a swap to end (R533). -/
structure Ageing where
  dies      : List UnitRec
  blocks    : List UnitRec
  serving   : List (Option Nat)
  fwSlotsBad : List Nat
  hostPortBad : Bool
  degraded  : BitVec 9
  lowest    : List (Nat × Int)
  swapQueue : List (Nat × UnitKind × Nat)
  runDue    : Bool
  swap      : Option (UnitKind × Nat × Nat)
  planeList : List Nat
  devices   : List (BitVec 6)
  retiredClock : Bool
  hotDies   : List Nat := []
  eyeLast   : Tab Nat Nat := []
  testWorn  : List (UnitKind × Nat) := []
  testsDue  : List (UnitKind × Nat) := []
  replace   : List (UnitKind × Nat × Nat) := []
  deriving DecidableEq, Repr

/-- The fatal dump (R554 to R558) and the management fail-over. -/
structure Dump where
  cause     : BitVec 4
  stateBefore : Mode
  dumpSeq   : Word
  regionOk  : Bool
  unwritten : Bool
  deriving DecidableEq, Repr

/-- A context's teardown at this module, under a number of its own (R466, R467): `peers` have not confirmed it yet, and `acked` says when a
peer's ACK came. -/
structure Teardown where
  no          : Nat
  ctx         : CtxId
  cmd         : Option Nat
  requesters  : List Fid
  stopAt      : Nat
  quiet       : Bool
  peers       : List Fid
  acked       : List (Fid × Nat)
  unconfirmed : List (Fid × Byte)
  deriving DecidableEq, Repr

/-- What the module has sent over its pins, ports and internal crossbar, oldest first. -/
inductive Out where
  | packet (unit : Nat) (pkt : Packet)
  | wire (port : Nat) (pkt : Packet)
  | ownXfer (unit : Nat) (msg : OwnMsg)
  | negZeros (unit : Nat) (cnonce : BitVec 60) (elems : List Nat)
  | link (port : Nat) (frame : Bytes)
  | attachEvent (port : Nat) (vector queue : Nat)
  | attachCpl (port : Nat) (tag : BitVec 16) (status : Byte) (data : Bytes)
  | msix (port vector : Nat) (addr : DWord) (data : Word)
  | vout (mv : Nat)
  | sideband (port : Nat) (action : Byte)
  | cableSelect (port : Nat) (appSel equalisation : Byte)
  | unsupported (port : Nat)
  | bar2 (data : Bytes)
  | regRead (off : Nat) (value : Word)
  deriving DecidableEq, Repr

/-! ## The state -/

/-- The state of the module. `owners` is the owner that a block holds for an entry whose write-back of OWNER_CTX failed (R104, R154), and
`lineWait` the streams whose next packet waits for a busy 256 B line, in the order in which they reached it (R221). `ownWait` the transfers that wait for the one before them to its region (R155). `answerWait` holds the answers that rate limits delay (R371), `lostAtomics` the atomics that wait for a ledger entry (R433), and
`collBuilt` the key epochs under which packets of each collective have been built (R461). `collUnder` is the epoch that a unit builds a context's collective packets under where its count under the send
epoch is used up (R76). `progStore` is the instruction store of each reduction die, the program used least recently first (R303). `lookups` counts the table lookups made, as an argument of free values. `repeatAt` says when BLOCK_RESTART for a fabric ID is due again (R85). `pending` is the queue of commands that wait, first in, first out. -/
structure State where
  pending  : List Instr
  variant  : Variant
  mode     : Mode
  degraded : Bool
  role     : BitVec 2
  lockstep : Bool
  now      : Nat
  serviceAt : Nat
  bootAt   : Nat
  fresh    : Nat
  pins     : Pins
  regs     : List (Nat × Word)
  mem      : List Host.Cell
  memFaults : List MemFault
  host     : HostIf
  power    : Power
  sec      : Security
  ctxs     : Tab CtxId Context
  ctxBlocks : Tab (Nat × CtxId) CtxAtBlock
  admitNext : Tab Nat (List CtxId)
  queues   : Tab (Nat × Nat) Queue
  cmds     : List Cmd
  reqs     : List OutReq
  stalled  : List SendReq
  collWait : List CollWait
  combIn   : List (Header × List (StreamKey × Word))
  answerWait : List AnswerWait
  lostAtomics : List LostAtomic
  collBuilt : List (CollKey × BitVec 4)
  srcStreams : Tab StreamKey SrcStream
  homeStreams : Tab StreamKey HomeStream
  nonces   : Tab (Nat × CtxId × BitVec 4) Nat
  collUnder : Tab (Nat × CtxId) (BitVec 4)
  unitBuilt : Tab Nat Nat
  ledger   : List LedgerEntry
  gens     : Tab Fid (BitVec 4)
  quietUntil : Tab Nat Nat
  repeatAt : Tab Fid Nat
  cache    : List CacheLine
  tables   : List CachedEntry
  lookups  : Nat
  windows  : List Window
  limits   : List RateLimit
  attReqs  : List AttachReq
  owners   : Tab (Nat × Word) CtxId
  ownWait  : List (Nat × OwnMsg)
  lineWait : List StreamKey
  apertures : List Aperture
  nextAttTag : BitVec 16
  ports    : Tab Nat Port
  switch   : Switch
  groups   : Tab (BitVec 12) Group
  planBufs : List PlanBuf
  groupCmds : List GroupCmd
  claims   : List Claim
  colls    : List Coll
  launches : List Launch
  programs : Tab (CtxId × Word) Program
  progStore : Tab Nat (List (CtxId × Word))
  hb       : Harbour
  ls       : LockStep
  age      : Ageing
  dump     : Dump
  teardowns : List Teardown
  out      : List Out
  deriving DecidableEq, Repr

/-! ## After reset -/

/-- A port as reset leaves it: DOWN with no cause (R400, R412). -/
def Port.blank : Port where
  state := .down
  cause := 0
  cable := .absent
  present := false
  retryAt := 0
  lanesFailed := 0
  lane8Tested := false
  lane8On := false
  aligned := 0
  active := 0
  lastInc := none
  newInc := false
  peerInit := none
  initSent := false
  mySet := none
  peerAcked := false
  trainingAt := 0
  restartLogged := false
  violations := []
  vcs := []
  kept := []
  waitTx := []
  upAt := 0
  swap := none
  lastCreditAt := 0
  dead := []

/-- A PCI Express port held in reset, with no MSI-X entry programmed. -/
def HostPort.blank : HostPort where
  linkUp := false
  perst := true
  table := []
  waiting := []
  aerCount := 0

/-- `n` units in one state, never tested. -/
def unitsIn (n : Nat) (st : UnitState) : List UnitRec :=
  List.replicate n { state := st, before := st, testedAt := none }

/-- The dies of a variant before any swap, in the ordinals of R526 (R14, R624). -/
def diesOf : Variant → List UnitRec
  | .dx144 => unitsIn 36 .active ++ unitsIn 16 .active ++ unitsIn 2 .spareUntested ++ unitsIn 24 .active ++
      unitsIn 2 .spareUntested ++ unitsIn 8 .active ++ unitsIn 8 .active ++ unitsIn 1 .active ++ unitsIn 1 .standby ++
      unitsIn 1 .active ++ unitsIn 1 .spareUntested
  | .dx144n => unitsIn 36 .active ++ unitsIn 16 .active ++ unitsIn 2 .spareUntested ++ unitsIn 24 .active ++
      unitsIn 2 .spareUntested ++ unitsIn 8 .active ++ unitsIn 8 .absent ++ unitsIn 1 .active ++ unitsIn 1 .standby ++
      unitsIn 1 .active ++ unitsIn 1 .spareUntested
  | .dx96 => unitsIn 24 .active ++ unitsIn 12 .absent ++ unitsIn 16 .active ++ unitsIn 2 .spareUntested ++
      unitsIn 16 .active ++ unitsIn 2 .spareUntested ++ unitsIn 8 .absent ++ unitsIn 4 .active ++ unitsIn 4 .absent ++
      unitsIn 4 .active ++ unitsIn 4 .absent ++ unitsIn 1 .active ++ unitsIn 1 .standby ++ unitsIn 1 .active ++
      unitsIn 1 .spareUntested

/-- The end-point blocks of a variant before any swap, by physical number (R6, R624). -/
def blocksOf : Variant → List UnitRec
  | .dx96 => unitsIn 16 .active ++ unitsIn 4 .spareUntested ++ unitsIn 20 .absent
  | _ => unitsIn 32 .active ++ unitsIn 8 .spareUntested

/-- The physical block that serves each block number before any swap (R6, R21). -/
def servingOf : Variant → List (Option Nat)
  | .dx96 => (List.range 16).map some
  | _ => (List.range 32).map some

/-- A module of a variant as it stands in RESET: PG_CTL is asserted, the root PLL is not yet locked, and every other
piece of state is as reset leaves it (R505, R520, R598). -/
def State.blank (v : Variant) : State where
  pending := []
  variant := v
  mode := .reset
  degraded := false
  role := 0
  lockstep := false
  now := 0
  serviceAt := 0
  bootAt := 0
  fresh := 0
  pins := { pgCtl := true, pgCore := false, pgSerdes := false, pgIo := false, pgMem := false, epoLow := false, shedLow := false }
  regs := []
  mem := []
  memFaults := []
  host := { owner := 0, ownerCause := 0, standbyReady := false, answering := false, port0 := HostPort.blank,
            port1 := HostPort.blank, reqStatus := 0, reqReason := 0, eventSeq := 0, eventLog := [], eventLost := false,
            hiLatch := [], loStage := [] }
  power := { gated := true, noRestart := false, lanesOff := true, dpOffLow := false, capSamples := [], capAgreed := none, pmbusCap := 0, thermalCut := 0, thermalOn := false,
             floor := false, arithHalf := false, overrunSince := none, withheld := 0, ceiling := 0, level := 0, fill := 0, lastVsetAt := 0, cml := false,
             pmbusAnswers := [], rootClockDie := 0 }
  sec := { bootSlot := 0, confirmed := false, svn := 0, fwResult := 0, fwTarget := 0, fwImage := [], fusesBlown := 0,
           mainOk := false, selfTest0 := true, meas := List.replicate 8 (List.replicate 48 0),
           sessions := [], keys := [], saveKey := none, sealCount := 0, forwards := [], answered := [], ensignOut := [],
           wrapKey := [], unitKeys := [] }
  ctxs := []
  ctxBlocks := []
  admitNext := []
  queues := []
  cmds := []
  reqs := []
  stalled := []
  collWait := []
  combIn := []
  answerWait := []
  lostAtomics := []
  collBuilt := []
  srcStreams := []
  homeStreams := []
  nonces := []
  collUnder := []
  unitBuilt := []
  ledger := []
  gens := []
  quietUntil := []
  repeatAt := []
  cache := []
  tables := []
  lookups := 0
  windows := []
  limits := []
  attReqs := []
  owners := []
  ownWait := []
  lineWait := []
  apertures := []
  nextAttTag := 0
  ports := []
  switch := { transits := [], nextPid := [], admitted := [], doneCount := 0, meters := [], flows := [], deficits := [],
              rrNext := [], cnSent := [], mirrorSeen := [0, 0, 0, 0], watches := [], exclusions := [], excludeAll := [],
              withdrawn := [] }
  groups := []
  planBufs := []
  groupCmds := []
  claims := []
  colls := []
  launches := []
  programs := []
  progStore := []
  hb := { unitsTotal := 0, shards := [], created := 0, ports := [], votes := [], sweeps := [], held := [], poisoned := [],
          retired := [], corrected := [], spareLeft := 0 }
  ls := { state := .off, cause := 0, localRecs := [], unsent := [], peerRecs := [], captures := 0, captured := false }
  age := { dies := diesOf v, blocks := blocksOf v, serving := servingOf v, fwSlotsBad := [], hostPortBad := false,
           degraded := 0, lowest := [], swapQueue := [], runDue := false, swap := none, planeList := List.range 16, devices := [],
           retiredClock := false }
  dump := { cause := 0, stateBefore := .reset, dumpSeq := 0, regionOk := false, unwritten := false }
  teardowns := []
  out := []

/-- The module right after reset: a DX-144 in RESET (log 1). -/
def State.reset : State := State.blank .dx144

end Sys2Proof.Machine
end

