-- ==== Sys2Proof/Machine/RegMap.lean ====
section
/-!
DEFINITION. The register map of BAR0: the blocks of R587 and every register that a table of the spec defines, with its
access codes (R12), its reset value, whether the driver may write it in MAINT only, and whether it is half of a pair.
-/
namespace Sys2Proof.Machine

open Sys2Proof

/-- The blocks of R587. -/
inductive Blk where
  | glb | mg | sec | cp | hb | pt | xb | ari | ep | mem
  deriving DecidableEq, Repr

/-- Which half of a _LO/_HI pair a register is (R11). -/
inductive Half where
  | single | lo | hi
  deriving DecidableEq, Repr

/-- A register, or a run of `count` registers `stride` apart of `words` words each: the masks of its rw, w1c, w1s and rc
fields, its reset value, whether a driver write outside MAINT is discarded, and which half of a pair it is. -/
structure RegSpec where
  off    : Nat
  count  : Nat := 1
  stride : Nat := 4
  words  : Nat := 1
  rw     : Word := 0
  w1c    : Word := 0
  w1s    : Word := 0
  rc     : Word := 0
  reset  : Word := 0
  maint  : Bool := false
  half   : Half := .single
  deriving DecidableEq, Repr

/-! ## Where the blocks lie (R587) -/

def glbBase : Nat := 0x00000000
def mgBase : Nat := 0x00100000
def secBase : Nat := 0x00200000
def cpBase : Nat := 0x00300000
def hbBase : Nat := 0x00400000
def ptBase (p : Nat) : Nat := 0x01000000 + 0x00010000 * p
def xbBase (d : Nat) : Nat := 0x02000000 + 0x00100000 * d
def ariBase (d : Nat) : Nat := 0x04000000 + 0x00100000 * d
def epBase (b : Nat) : Nat := 0x06000000 + 0x00100000 * b
def memBase (d : Nat) : Nat := 0x08000000 + 0x00100000 * d

/-! ## The tables, block by block -/

/-- Registers of the GLB block, part 0. -/
def glbRegs0 : List RegSpec := [
  -- GLB_ID (R591)
  { off := 0x0000, reset := 0x0000A000 },
  -- GLB_STRAPS (R592)
  { off := 0x0004 },
  -- GLB_OWN_FID (R593)
  { off := 0x0008, rw := 0x0001FFFF, maint := true },
  -- GLB_INCARNATION (R594)
  { off := 0x000C },
  -- GLB_FEAT_OFFERED (R595)
  { off := 0x0010, count := 4 },
  -- GLB_FEAT_ACCEPTED (R595)
  { off := 0x0020, count := 4, rw := 0xFFFFFFFF, maint := true },
  -- GLB_ATTN (R596)
  { off := 0x0030 }]

/-- Registers of the GLB block (R590). -/
def glbRegs : List RegSpec := glbRegs0

/-- Registers of the MG block, part 0. -/
def mgRegs0 : List RegSpec := [
  -- MG_STATE (R598)
  { off := 0x0000 },
  -- MG_STATE_REQ (R599)
  { off := 0x0004, rw := 0x0000003F, w1s := 0x00000100 },
  -- MG_EVENT_CFG (R600)
  { off := 0x0010, rw := 0x800007FF },
  -- MG_EVENT_RING_LO (R600)
  { off := 0x0014, rw := 0xFFFFF03F, maint := true, half := .lo },
  -- MG_EVENT_RING_HI (R600)
  { off := 0x0018, rw := 0x000FFFFF, maint := true, half := .hi },
  -- MG_EVENT_PROD (R600)
  { off := 0x001C },
  -- MG_EVENT_CONS (R600)
  { off := 0x0020, rw := 0xFFFFFFFF },
  -- MG_EVENT_STATUS (R600)
  { off := 0x0024, w1c := 0x00000001 },
  -- MG_EVENT_DROP_CNT (R600)
  { off := 0x0028, rc := 0xFFFFFFFF },
  -- MG_PKT_AGE_LIMIT (R93)
  { off := 0x0200, rw := 0x0000FFFF, reset := 0x00000C35, maint := true },
  -- MG_CTX_SAVE_LO (R197)
  { off := 0x0210, rw := 0xFFFFF001, maint := true, half := .lo },
  -- MG_CTX_SAVE_HI (R198)
  { off := 0x0214, rw := 0x000FFFFF, maint := true, half := .hi }]

/-- Registers of the MG block, part 1. -/
def mgRegs1 : List RegSpec := [
  -- MG_COLL_CFG (R276)
  { off := 0x0300, rw := 0xFFFFFFFF, reset := 0x003200C8, maint := true },
  -- MG_COLL_STATUS (R278)
  { off := 0x0304, w1c := 0x0000001F },
  -- MG_COLL_POOL (R277)
  { off := 0x0308, count := 8, rw := 0x00003FFF, maint := true },
  -- MG_COLL_RETRACT_CNT (R279)
  { off := 0x0328, rc := 0xFFFFFFFF },
  -- MG_COLL_FALLBACK_CNT (R279)
  { off := 0x032C, rc := 0xFFFFFFFF },
  -- MG_COLL_STALL_CNT (R279)
  { off := 0x0330, rc := 0xFFFFFFFF },
  -- MG_COLL_ABORT_CNT (R279)
  { off := 0x0334, rc := 0xFFFFFFFF },
  -- MG_COLL_STALE_CNT (R279)
  { off := 0x0338, rc := 0xFFFFFFFF },
  -- MG_SLOTS (R280)
  { off := 0x033C },
  -- MG_PROG_HELD (R310)
  { off := 0x0380 },
  -- MG_PROG_STATUS (R311)
  { off := 0x0384, w1c := 0x00000001 },
  -- MG_PROG_REJECT_CNT (R312)
  { off := 0x0388, rc := 0xFFFFFFFF }]

/-- Registers of the MG block, part 2. -/
def mgRegs2 : List RegSpec := [
  -- MG_BUF_CFG (R380)
  { off := 0x0400, rw := 0x000007FF, reset := 0x00000330, maint := true },
  -- MG_FWD_CFG (R381)
  { off := 0x0404, rw := 0xFFFF003F, reset := 0x30100004, maint := true },
  -- MG_HOT_CFG (R382)
  { off := 0x0408, rw := 0xFFFFFFFF, reset := 0x8A140400 },
  -- MG_SWITCH_STATUS (R393)
  { off := 0x0410, w1c := 0x00000007 },
  -- MG_NO_ROUTE_CNT (R395)
  { off := 0x0414, rc := 0xFFFFFFFF },
  -- MG_HALYARD_DROP_CNT (R395)
  { off := 0x0418, rc := 0xFFFFFFFF },
  -- MG_CN_SENT_CNT (R395)
  { off := 0x041C, rc := 0xFFFFFFFF },
  -- MG_MIRROR_DROP_CNT (R395)
  { off := 0x0420, rc := 0xFFFFFFFF },
  -- MG_CLASS_CFG (R383)
  { off := 0x0428, count := 8, rw := 0x800000FF, reset := 0x00000010 },
  -- MG_RED (R384)
  { off := 0x0448, count := 24, rw := 0xFFFFFFFF, reset := 0x00FFFFFF },
  -- MG_MIRROR_CFG (R385)
  { off := 0x04B0, count := 4, stride := 8, rw := 0xC0FF00FF, reset := 0x000000FF },
  -- MG_MIRROR_RATE (R385)
  { off := 0x04B4, count := 4, stride := 8, rw := 0x00FFFFFF }]

/-- Registers of the MG block, part 3. -/
def mgRegs3 : List RegSpec := [
  -- MG_MIRROR_RING_LO (R386)
  { off := 0x04D0, rw := 0xFFFFF03F, half := .lo },
  -- MG_MIRROR_RING_HI (R386)
  { off := 0x04D4, rw := 0x000FFFFF, half := .hi },
  -- MG_MIRROR_PROD (R387)
  { off := 0x04D8 },
  -- MG_MIRROR_CONS (R387)
  { off := 0x04DC, rw := 0xFFFFFFFF },
  -- MG_DET_STATUS (R497)
  { off := 0x0500, w1c := 0x0000001F },
  -- MG_DET_BREAK_CNT (R502)
  { off := 0x0504, rc := 0xFFFFFFFF },
  -- MG_DIGEST_RING_LO (R498)
  { off := 0x0508, rw := 0xFFFFF03F, maint := true, half := .lo },
  -- MG_DIGEST_RING_HI (R498)
  { off := 0x050C, rw := 0x000FFFFF, maint := true, half := .hi },
  -- MG_DIGEST_PROD (R498)
  { off := 0x0510 },
  -- MG_DIGEST_CONS (R498)
  { off := 0x0514, rw := 0xFFFFFFFF },
  -- MG_DIGEST_DROP_CNT (R502)
  { off := 0x0518, rc := 0xFFFFFFFF },
  -- MG_LS_CFG (R499)
  { off := 0x0520, rw := 0x80FFFFFF, reset := 0x0003E800, maint := true }]

/-- Registers of the MG block, part 4. -/
def mgRegs4 : List RegSpec := [
  -- MG_LS_CTRL (R500)
  { off := 0x0524, w1s := 0x00000001 },
  -- MG_LS_STATE (R500)
  { off := 0x0528 },
  -- MG_LS_CAP_LO (R501)
  { off := 0x052C, rw := 0xFFFFF000, maint := true, half := .lo },
  -- MG_LS_CAP_HI (R501)
  { off := 0x0530, rw := 0x000FFFFF, maint := true, half := .hi },
  -- MG_LS_CAP_SIZE (R501)
  { off := 0x0534, rw := 0x000FFFFF, maint := true },
  -- MG_LS_DIVERGE_CNT (R502)
  { off := 0x0538, rc := 0xFFFFFFFF },
  -- MG_PLAN_STATE (R539)
  { off := 0x0600 },
  -- MG_PLAN_CTRL (R539)
  { off := 0x0604, rw := 0x00000002, w1s := 0x00000001 },
  -- MG_BUNT_STATUS (R540)
  { off := 0x0608, w1c := 0x00000007 },
  -- MG_SWAP_CNT (R541)
  { off := 0x060C, rc := 0xFFFFFFFF },
  -- MG_TEST_FAIL_CNT (R541)
  { off := 0x0610, rc := 0xFFFFFFFF },
  -- MG_DEGRADE_CNT (R541)
  { off := 0x0614, rc := 0xFFFFFFFF }]

/-- Registers of the MG block, part 5. -/
def mgRegs5 : List RegSpec := [
  -- MG_BUNT_KIND (R542)
  { off := 0x0620, count := 9 },
  -- MG_UNIT_STATE (R543)
  { off := 0x0700, count := 100 },
  -- MG_EPB_STATE (R543)
  { off := 0x0900, count := 40 },
  -- MG_FAULT_STATUS (R560)
  { off := 0x0A00, w1c := 0x00000007 },
  -- MG_FAILOVER_CTRL (R560)
  { off := 0x0A04, w1s := 0x00000001 },
  -- MG_OWNER (R560)
  { off := 0x0A08 },
  -- MG_FAILOVER_CNT (R563)
  { off := 0x0A0C, rc := 0xFFFFFFFF },
  -- MG_EXCL_USED (R561)
  { off := 0x0A10 },
  -- MG_EXCL_FULL_CNT (R563)
  { off := 0x0A14, rc := 0xFFFFFFFF },
  -- MG_THERMAL_CNT (R563)
  { off := 0x0A18, rc := 0xFFFFFFFF },
  -- MG_DUMP_BUF_LO (R561)
  { off := 0x0A20, rw := 0xFFFFF001, maint := true, half := .lo },
  -- MG_DUMP_BUF_HI (R561)
  { off := 0x0A24, rw := 0x000FFFFF, maint := true, half := .hi }]

/-- Registers of the MG block, part 6. -/
def mgRegs6 : List RegSpec := [
  -- MG_DUMP_BUF_SIZE (R561)
  { off := 0x0A28, rw := 0x000FFFFF, maint := true },
  -- MG_DUMP_STATE (R562)
  { off := 0x0A2C, w1c := 0x00000001 },
  -- MG_ROUTE (R388)
  { off := 0x40000, count := 65536, rw := 0x800000FF },
  -- MG_GROUP (R389)
  { off := 0x80000, count := 256, stride := 32, words := 4, rw := 0xFFFFFFFF },
  -- MG_GROUP word 4 (R389)
  { off := 0x80010, count := 256, stride := 32, rw := 0x0000FFFF },
  -- MG_GROUP words 5-7 (R389)
  { off := 0x80014, count := 256, stride := 32, words := 3 },
  -- MG_HALYARD CFG (R390)
  { off := 0x90000, count := 4096, stride := 16, rw := 0xC7FFFFFF },
  -- MG_HALYARD PORTS (R390)
  { off := 0x90004, count := 4096, stride := 16, rw := 0x0000FFFF },
  -- MG_HALYARD STATE (R390)
  { off := 0x90008, count := 4096, stride := 16 },
  -- MG_HALYARD reserved (R390)
  { off := 0x9000C, count := 4096, stride := 16 }]

/-- Registers of the MG block (R597, R93, R197, R275, R379, R496, R537, R559). -/
def mgRegs : List RegSpec := mgRegs0 ++ mgRegs1 ++ mgRegs2 ++ mgRegs3 ++ mgRegs4 ++ mgRegs5 ++ mgRegs6

/-- Registers of the SEC block, part 0. -/
def secRegs0 : List RegSpec := [
  -- SEC_STATUS (R470)
  { off := 0x0000, w1c := 0x00000007 },
  -- SEC_MBOX_CFG (R471)
  { off := 0x0004, rw := 0x8000FFF7, maint := true },
  -- SEC_MBOX_RING_LO (R472)
  { off := 0x0008, rw := 0xFFFFF000, maint := true, half := .lo },
  -- SEC_MBOX_RING_HI (R472)
  { off := 0x000C, rw := 0x000FFFFF, maint := true, half := .hi },
  -- SEC_MBOX_TAIL (R473)
  { off := 0x0010, rw := 0x0000FFFF },
  -- SEC_MBOX_HEAD (R473)
  { off := 0x0014 },
  -- SEC_SESSIONS (R473)
  { off := 0x0018 },
  -- SEC_FW_CTRL (R474)
  { off := 0x001C, w1s := 0x00000007 },
  -- SEC_FW_STATE (R475)
  { off := 0x0020 },
  -- SEC_FW_SRC_LO (R472)
  { off := 0x0024, rw := 0xFFFFF000, half := .lo },
  -- SEC_FW_SRC_HI (R472)
  { off := 0x0028, rw := 0x000FFFFF, half := .hi },
  -- SEC_FW_LEN (R473)
  { off := 0x002C, rw := 0x03FFFFFF }]

/-- Registers of the SEC block, part 1. -/
def secRegs1 : List RegSpec := [
  -- SEC_ARB (R473)
  { off := 0x0030 },
  -- SEC_MBOX_BAD_CNT (R477)
  { off := 0x0034, rc := 0xFFFFFFFF },
  -- SEC_REFUSE_CNT (R477)
  { off := 0x0038, rc := 0xFFFFFFFF },
  -- SEC_TEARDOWN_CNT (R477)
  { off := 0x003C, rc := 0xFFFFFFFF },
  -- SEC_MEAS (R476)
  { off := 0x0100, count := 96 }]

/-- Registers of the SEC block (R469). -/
def secRegs : List RegSpec := secRegs0 ++ secRegs1

/-- Registers of the CP block, part 0. -/
def cpRegs0 : List RegSpec := [
  -- CP_PWR_STATUS (R520)
  { off := 0x0000 },
  -- CP_CAP_CFG (R521)
  { off := 0x0004, rw := 0x83FF03FF, reset := 0x00640064 },
  -- CP_CAP_STATE (R522)
  { off := 0x0008, reset := 0x00000AF0 },
  -- CP_POWER (R523)
  { off := 0x000C },
  -- CP_STATUS (R524)
  { off := 0x0010, w1c := 0x00000007 },
  -- CP_OVERRUN_CNT (R525)
  { off := 0x0014, rc := 0xFFFFFFFF },
  -- CP_OVERRUN_LAST (R525)
  { off := 0x0018 },
  -- CP_FAST_SHED_CNT (R525)
  { off := 0x001C, rc := 0xFFFFFFFF },
  -- CP_CLK_STATUS (R524)
  { off := 0x0020, w1c := 0x00000004 },
  -- CP_CORE_VSET (R523)
  { off := 0x0024 },
  -- CP_PG_LOSS_CNT (R525)
  { off := 0x0028, rc := 0xFFFFFFFF },
  -- CP_MON_SEQ (R538)
  { off := 0x0100 }]

/-- Registers of the CP block, part 1. -/
def cpRegs1 : List RegSpec := [
  -- CP_MON (R538)
  { off := 0x1000, count := 1024 }]

/-- Registers of the CP block (R519, R537). -/
def cpRegs : List RegSpec := cpRegs0 ++ cpRegs1

/-- Registers of the HB block, part 0. -/
def hbRegs0 : List RegSpec := [
  -- HB_UNITS_TOTAL (R346)
  { off := 0x0100 },
  -- HB_UNITS_FREE (R346)
  { off := 0x0104 },
  -- HB_SETS (R347)
  { off := 0x0108 },
  -- HB_PHY_RATE (R348)
  { off := 0x010C },
  -- HB_STATUS (R349)
  { off := 0x0110, w1c := 0x0000000F },
  -- HB_CE_CNT (R350)
  { off := 0x0114, rc := 0xFFFFFFFF },
  -- HB_UE_CNT (R350)
  { off := 0x0118, rc := 0xFFFFFFFF },
  -- HB_EDC_RETRY_CNT (R350)
  { off := 0x011C, rc := 0xFFFFFFFF },
  -- HB_POISON_READ_CNT (R350)
  { off := 0x0120, rc := 0xFFFFFFFF },
  -- HB_EVICT_CNT (R350)
  { off := 0x0124, rc := 0xFFFFFFFF },
  -- HB_COMMIT_CNT (R350)
  { off := 0x0128, rc := 0xFFFFFFFF },
  -- HB_STEP_ABORT_CNT (R350)
  { off := 0x012C, rc := 0xFFFFFFFF }]

/-- Registers of the HB block, part 1. -/
def hbRegs1 : List RegSpec := [
  -- HB_BAR2_WIN (R569)
  { off := 0x0200, rw := 0x0000001F }]

/-- Registers of the HB block (R345, R569). -/
def hbRegs : List RegSpec := hbRegs0 ++ hbRegs1

/-- Registers of the PT block, part 0. -/
def ptRegs0 : List RegSpec := [
  -- PT_CFG (R410)
  { off := 0x0000, rw := 0xFF000003, reset := 0x10000001 },
  -- PT_CTRL (R411)
  { off := 0x0004, w1s := 0x00000003 },
  -- PT_STATE (R412)
  { off := 0x0008 },
  -- PT_LANES (R413)
  { off := 0x000C },
  -- PT_PARTNER (R413)
  { off := 0x0010 },
  -- PT_LINK_STATUS (R414)
  { off := 0x0014, w1c := 0x0000000F },
  -- PT_LOS_CNT..PT_CABLE_ALARM_CNT (R415)
  { off := 0x0018, count := 7, rc := 0xFFFFFFFF },
  -- PT_FRAME_CRC_CNT..PT_LATE_CPL_CNT (R435)
  { off := 0x0040, count := 4, rc := 0xFFFFFFFF },
  -- PT_AGE_DROP..PT_RX_BAD_CNT (R96,R395)
  { off := 0x0600, count := 7, rc := 0xFFFFFFFF },
  -- PT_FWD_CFG (R391)
  { off := 0x0700, rw := 0x000000FF, reset := 0x000000FF, maint := true },
  -- PT_METER (R392)
  { off := 0x0720, count := 8, rw := 0xFFFFFF00, reset := 0x40801000 }]

/-- Registers of the PT block (R409, R434, R96, R379). -/
def ptRegs : List RegSpec := ptRegs0

/-- Registers of the XB block, part 0. -/
def xbRegs0 : List RegSpec := [
  -- XB_CELL_DROP_CNT (R395)
  { off := 0x0100, rc := 0xFFFFFFFF },
  -- XB_ECC_DROP_CNT (R395)
  { off := 0x0104, rc := 0xFFFFFFFF },
  -- XB_BUF_USED (R394)
  { off := 0x0108 }]

/-- Registers of the XB block (R379). -/
def xbRegs : List RegSpec := xbRegs0

/-- Registers of the ARI block, part 0. -/
def ariRegs0 : List RegSpec := [
  -- ARI_ARITH_STATUS (R64)
  { off := 0x0400, w1c := 0x0000000F },
  -- ARI_SAT_CNT..ARI_MX_CLAMP_CNT (R65)
  { off := 0x0404, count := 4, rc := 0xFFFFFFFF },
  -- ARI_RESIDUE_INJECT (R66)
  { off := 0x0414, w1s := 0x00000001 },
  -- ARI_SCRATCH_CFG (R167)
  { off := 0x0500, rw := 0x003FFFFF, maint := true },
  -- ARI_COMBINE_IN_CNT,OUT_CNT (R235)
  { off := 0x0600, count := 2, rc := 0xFFFFFFFF },
  -- ARI_PKT_STATUS (R620)
  { off := 0x0804, w1c := 0x000003FF },
  -- ARI_CRC_FAIL_CNT..ARI_REGION_REFUSE_CNT (R620)
  { off := 0x0808, count := 12, rc := 0xFFFFFFFF }]

/-- Registers of the ARI block (R63, R167, R233, R620). -/
def ariRegs : List RegSpec := ariRegs0

/-- Registers of the EP block, part 0. -/
def epRegs0 : List RegSpec := [
  -- EP_RESEND_CFG (R94)
  { off := 0x0800, rw := 0x0FFFFFFF, reset := 0x08190032 },
  -- EP_PKT_STATUS (R95)
  { off := 0x0804, w1c := 0x000001FF },
  -- EP_CRC_FAIL_CNT..EP_SEQ_WRAP_CNT (R96)
  { off := 0x0808, count := 11, rc := 0xFFFFFFFF },
  -- EP_FID (R126)
  { off := 0x0900, rw := 0x0001FFFF, maint := true },
  -- EP_REGION_TBL_LO (R127)
  { off := 0x0904, rw := 0xFFFFFF7F, maint := true, half := .lo },
  -- EP_REGION_TBL_HI (R127)
  { off := 0x0908, rw := 0x000FFFFF, maint := true, half := .hi },
  -- EP_WINDOW_TBL_LO (R128)
  { off := 0x090C, rw := 0xFFFFFF03, maint := true, half := .lo },
  -- EP_WINDOW_TBL_HI (R128)
  { off := 0x0910, rw := 0x000FFFFF, maint := true, half := .hi },
  -- EP_XLATE_STATUS (R129)
  { off := 0x0914, w1c := 0x00000007 },
  -- EP_XLATE_MISS_CNT..EP_BAD_ENTRY_CNT (R130)
  { off := 0x0918, count := 4, rc := 0xFFFFFFFF },
  -- EP_RLC_CFG (R165)
  { off := 0x0A00, rw := 0x00000001, reset := 0x00000001, maint := true },
  -- EP_RLC_HIT_CNT..INVAL_CNT (R166)
  { off := 0x0A04, count := 3, rc := 0xFFFFFFFF }]

/-- Registers of the EP block, part 1. -/
def epRegs1 : List RegSpec := [
  -- EP_QUEUE_TBL_LO (R197)
  { off := 0x0B00, rw := 0xFFFFF001, maint := true, half := .lo },
  -- EP_QUEUE_TBL_HI (R198)
  { off := 0x0B04, rw := 0x000FFFFF, maint := true, half := .hi },
  -- EP_SCHED_CFG (R199)
  { off := 0x0B08, rw := 0x0000FFFF, reset := 0x00000064, maint := true },
  -- EP_QUEUE_STATUS (R200)
  { off := 0x0B0C, w1c := 0x00000003 },
  -- EP_DB_BAD_CNT,EP_STATE_REJ_CNT,EP_CTX_SWITCH_CNT (R201)
  { off := 0x0B10, count := 3, rc := 0xFFFFFFFF },
  -- EP_RESIDENT (R202)
  { off := 0x0B1C },
  -- EP_LEDGER_USED (R234)
  { off := 0x0C00 },
  -- EP_LEDGER_BUSY_CNT,MISS_CNT (R235)
  { off := 0x0C04, count := 2, rc := 0xFFFFFFFF }]

/-- Registers of the EP block (R92, R125, R164, R196, R233). -/
def epRegs : List RegSpec := epRegs0 ++ epRegs1

/-- Registers of the MEM block, part 0. -/
def memRegs0 : List RegSpec := [
  -- MEM_DEV_STATUS (R603)
  { off := 0x0000, count := 2 },
  -- MEM_PKT_STATUS (R620)
  { off := 0x0804, w1c := 0x000003FF },
  -- MEM_CRC_FAIL_CNT..MEM_REGION_REFUSE_CNT (R620)
  { off := 0x0808, count := 12, rc := 0xFFFFFFFF }]

/-- Registers of the MEM block (R603, R620). -/
def memRegs : List RegSpec := memRegs0

/-! ## Finding a register -/

/-- The register table of a block. -/
def blkTable : Blk → List RegSpec
  | .glb => glbRegs
  | .mg => mgRegs
  | .sec => secRegs
  | .cp => cpRegs
  | .hb => hbRegs
  | .pt => ptRegs
  | .xb => xbRegs
  | .ari => ariRegs
  | .ep => epRegs
  | .mem => memRegs

/-- External ports of a variant (R6). -/
def portCount : Variant → Nat
  | .dx96 => 96
  | _ => 144

/-- End-point blocks of a variant, spares apart (R6). -/
def blockCount : Variant → Nat
  | .dx96 => 16
  | _ => 32

/-- Reduction dies of a variant, spares included (R6). -/
def ariCount : Variant → Nat
  | .dx96 => 18
  | _ => 26

/-- Memory dies of a variant (R6). -/
def memCount : Variant → Nat
  | .dx144 => 8
  | .dx144n => 0
  | .dx96 => 4

/-- Whether a variant carries an instance of a block (R587). -/
def carries (v : Variant) : Blk → Nat → Bool
  | .pt, i => decide (i < portCount v) || (decide (144 ≤ i) && decide (i ≤ 187))
  | .xb, i => decide (i < 18)
  | .ari, i => decide (i < ariCount v)
  | .ep, i => decide (i < blockCount v)
  | .mem, i => decide (i < memCount v)
  | _, i => decide (i = 0)

/-- The block, the instance and the offset in it that a BAR0 offset names (R587). -/
def blkOf (off : Nat) : Option (Blk × Nat × Nat) :=
  if off < 0x00100000 then some (.glb, 0, off)
  else if off < 0x00200000 then some (.mg, 0, off - 0x00100000)
  else if off < 0x00300000 then some (.sec, 0, off - 0x00200000)
  else if off < 0x00400000 then some (.cp, 0, off - 0x00300000)
  else if off < 0x00500000 then some (.hb, 0, off - 0x00400000)
  else if off < 0x01000000 then none
  else if off < 0x02000000 then some (.pt, (off - 0x01000000) / 0x10000, (off - 0x01000000) % 0x10000)
  else if off < 0x04000000 then some (.xb, (off - 0x02000000) / 0x100000, (off - 0x02000000) % 0x100000)
  else if off < 0x06000000 then some (.ari, (off - 0x04000000) / 0x100000, (off - 0x04000000) % 0x100000)
  else if off < 0x08000000 then some (.ep, (off - 0x06000000) / 0x100000, (off - 0x06000000) % 0x100000)
  else if off < 0x08800000 then some (.mem, (off - 0x08000000) / 0x100000, (off - 0x08000000) % 0x100000)
  else none

/-- Whether an offset within a block lies in a table row. -/
def covers (o : Nat) (r : RegSpec) : Bool :=
  decide (r.off ≤ o) && decide ((o - r.off) / r.stride < r.count) &&
    decide ((o - r.off) % r.stride < 4 * r.words) && decide (o % 4 = 0)

/-- The register at an offset within a block. PT offsets below 0x600 exist at external ports only (R604). -/
def regIn (b : Blk) (i o : Nat) : Option RegSpec :=
  if b = .pt ∧ 144 ≤ i ∧ o < 0x600 then none else (blkTable b).find? (covers o)

/-- The register that a BAR0 offset names on a variant; none where R588 says the offset names no register. -/
def regSpec (v : Variant) (off : Nat) : Option RegSpec :=
  match blkOf off with
  | none => none
  | some (b, i, o) => if carries v b i then regIn b i o else none

/-- The part code (R591). -/
def partCode : Variant → Nat
  | .dx144 => 0x0D14
  | .dx144n => 0x0D15
  | .dx96 => 0x0D16

/-- The reset value of a collective pool (R277). -/
def poolReset : Variant → Word
  | .dx96 => 0x0500
  | _ => 0x0780

/-- What a register reads as after reset, before anything wrote it: the tables' reset values, with the part code and
the collective pools by variant (R277, R591). -/
def regReset (v : Variant) (off : Nat) : Word :=
  if off = 0 then BitVec.ofNat 32 (partCode v * 0x10000 + 0xA000)
  else if 0x00100308 ≤ off ∧ off < 0x00100328 then (if off % 4 = 0 then poolReset v else 0)
  else match regSpec v off with
    | none => 0
    | some r => r.reset

end Sys2Proof.Machine
end

