-- ==== Sys2Proof/Machine/Ops.lean ====
section
/-!
DEFINITION. The named operations over the state: memory in its spaces, registers, local time, the event log, interrupts
and rings. Every meaning changes memory and registers through these.
-/
namespace Sys2Proof.Machine

open Sys2Proof

/-! ## Memory

One canonical store of bytes holds every memory the module reaches, each in a space of its own of model addresses. -/

/-- What a byte that nothing has written reads as (log 3: DESIGN CHOICE, the spec gives no contents). -/
def memDefault (_ : Nat) : Byte := 0

/-- The size of a space. -/
def spaceSize : Nat := 2 ^ 64

/-- Host memory, the memory of the accelerator of block b, the scratch window of reduction die d, the harbour's linear
space (R568) and the firmware flash (R443). -/
def hostAddr (a : Nat) : Nat := a % spaceSize
def accAddr (b a : Nat) : Nat := (1 + b) * spaceSize + a % spaceSize
def scratchAddr (d a : Nat) : Nat := (256 + d) * spaceSize + a % spaceSize
def harbourAddr (a : Nat) : Nat := 512 * spaceSize + a % spaceSize
def flashAddr (a : Nat) : Nat := 768 * spaceSize + a % spaceSize

/-- One byte of memory. -/
def memByte (s : State) (a : Nat) : Byte := sparseGet memDefault s.mem a

/-- The bytes from an address on. -/
def memRead (s : State) : Nat → Nat → Bytes
  | _, 0 => []
  | a, n + 1 => memByte s a :: memRead s (a + 1) n

/-- A store with bytes written from an address on. -/
def memPut : List Host.Cell → Nat → Bytes → List Host.Cell
  | m, _, [] => m
  | m, a, b :: bs => memPut (sparseSet memDefault m a b) (a + 1) bs

/-- The state with bytes written from an address on. -/
def memWrite (s : State) (a : Nat) (bs : Bytes) : State := { s with mem := memPut s.mem a bs }

/-- The store without the cells of a range: every byte of it reads as unwritten memory, which is zero. -/
def memZero (s : State) (a n : Nat) : State :=
  { s with mem := s.mem.filter (fun c => !(decide (a ≤ c.1) && decide (c.1 < a + n))) }

/-- The canonical form of memory: addresses rise strictly and no cell holds what an unlisted address reads as. -/
def Memory.wf (m : List Host.Cell) : Bool := sparseWf memDefault m

/-- The first listed range that an access of `n` bytes at `a` meets, at its lowest failing address (R424, R431). -/
def memFaultAt (s : State) (a n : Nat) : Option MemFaultKind :=
  let hits := s.memFaults.filter (fun f => decide (f.base < a + n) && decide (a < f.base + f.len))
  (hits.foldl (fun best f =>
    match best with
    | none => some f
    | some g => if max f.base a < max g.base a then some f else some g) (none : Option MemFault)).map (·.kind)

/-- The lowest failing address of an access of `n` bytes at `a`. -/
def memFaultLow (s : State) (a n : Nat) : Nat :=
  ((s.memFaults.filter (fun f => decide (f.base < a + n) && decide (a < f.base + f.len))).map (fun f => max f.base a)).foldl min (a + n)

/-- An uncorrectable SRAM error in a reduction die's slots: the chunk that they hold is corrupt, as after a residue mismatch (R57, R544). -/
def spoilSlots (s : State) (e : SlotError) : State :=
  let held := fun (c : Coll) => s.claims.any (fun x => decide (x.key = c.key) && x.granted && !x.fallback && decide (x.die = e.die))
  { s with colls := s.colls.map (fun c =>
      if c.key.group = e.group ∧ c.key.collId = e.collId ∧ held c then
        { c with chunks := c.chunks.map (fun x =>
            if x.chunk = e.chunk then { x with pieces := x.pieces.map (fun q => { q with corrupt := true }) } else x) }
      else c) }

/-- What happened around the module before a command (R146, R173, R544). -/
def applyEnv (s : State) (e : Env) : State :=
  let s := e.slotErrors.foldl spoilSlots s
  let s := { s with mem := e.stores.foldl (fun m c => sparseSet memDefault m c.1 c.2) s.mem }
  match e.faults with
  | none => s
  | some f => { s with memFaults := f }

/-! ## Registers -/

/-- A register's stored value. -/
def reg (s : State) (off : Nat) : Word := sparseGet (regReset s.variant) s.regs off

/-- The state with a register's stored value replaced. -/
def setReg (s : State) (off : Nat) (v : Word) : State := { s with regs := sparseSet (regReset s.variant) s.regs off v }

/-- The field hi:lo of a register. -/
def regField (s : State) (off hi lo : Nat) : Nat := bits (reg s off).toNat hi lo

/-- The state with the field hi:lo of a register replaced. -/
def setRegField (s : State) (off hi lo v : Nat) : State :=
  let old := (reg s off).toNat
  let w := 2 ^ (hi + 1 - lo)
  setReg s off (BitVec.ofNat 32 (old - bits old hi lo * 2 ^ lo + v % w * 2 ^ lo))

/-- Bit `i` of a register. -/
def regBit (s : State) (off i : Nat) : Bool := (reg s off).getLsbD i

/-- The 64-bit base address that a pair holds: BASE_LO from bit `lo` up, BASE_HI in bits 19:0 (R198, R386). -/
def pairBase (s : State) (loOff hiOff lo : Nat) : Nat :=
  (reg s loOff).toNat / 2 ^ lo * 2 ^ lo + (reg s hiOff).toNat % 2 ^ 20 * 2 ^ 32

/-- One more in a counter, which stops at 0xFFFF_FFFF (R12, R602). -/
def bump (s : State) (off : Nat) : State :=
  setReg s off (if reg s off = 0xFFFFFFFF then 0xFFFFFFFF else reg s off + 1)

/-- Some more in a counter, which stops at 0xFFFF_FFFF (R12, R602). -/
def bumpBy (s : State) (off n : Nat) : State := setReg s off (BitVec.ofNat 32 (min 0xFFFFFFFF ((reg s off).toNat + n)))

/-- A flag set. -/
def setFlag (s : State) (off i : Nat) : State := setReg s off (reg s off ||| (1 <<< i))

/-- An event counted, with the flag beside its counter (R602). -/
def countEvent (s : State) (cnt flags i : Nat) : State := setFlag (bump s cnt) flags i

/-! ## Local time (R9) -/

/-- Cell-clock cycles in a microsecond at 2.6 GHz (R508). -/
def cyclesPerUs : Nat := 2600

/-- A duration in microseconds, in cell-clock cycles. -/
def us (n : Nat) : Nat := n * cyclesPerUs

/-- Local time moved on to a deadline, if it has not passed it (log 6). -/
def advanceTo (s : State) (t : Nat) : State := { s with now := max s.now t }

/-- One microsecond of local time with nothing commanded (log 2). -/
def tick (s : State) : State := { s with now := s.now + us 1 }

/-- A value of the model's free counter, and the state with the counter advanced. -/
def takeFresh (s : State) : Nat × State := (s.fresh, { s with fresh := s.fresh + 1 })

/-- The module's serial number, as its identity certificate in the flash carries it (R442, R449). -/
def moduleSerial (s : State) : Bytes := memRead s (flashAddr 12) 16

/-- `n` bytes of the random bit generator (R441), and the state with the draws counted. -/
def draw (s : State) (n : Nat) : Bytes × State :=
  ((List.range n).map (fun i => Config.random (s.fresh + i)), { s with fresh := s.fresh + n })

/-- One more thing sent. -/
def emit (s : State) (o : Out) : State := { s with out := s.out ++ [o] }

/-! ## Units -/

/-- Die ordinals (R526). -/
def ordPort (p : Nat) : Nat := p / 4
def ordPlane (d : Nat) : Nat := 36 + d
def ordAri (d : Nat) : Nat := 54 + d
def ordEp (d : Nat) : Nat := 80 + d
def ordMem (d : Nat) : Nat := 88 + d
def ordMgmt (d : Nat) : Nat := 96 + d
def ordClock (d : Nat) : Nat := 98 + d

/-- The end-point die of a block by physical number: four blocks and one spare to a die (R6, R14). -/
def epDieOf (v : Variant) (b : Nat) : Nat := if b < blockCount v then b / 4 else b - blockCount v

/-- The state of a die in the bunting. -/
def dieState (s : State) (ord : Nat) : UnitState := (s.age.dies.getD ord { state := .absent, before := .absent, testedAt := none }).state

/-- The state of an end-point block in the bunting, by physical number. -/
def blockState (s : State) (b : Nat) : UnitState := (s.age.blocks.getD b { state := .absent, before := .absent, testedAt := none }).state

/-- Whether a unit carries traffic: in service, or leaving service under a planned swap (R531). -/
def serves : UnitState → Bool
  | .active => true
  | .draining => true
  | _ => false

/-- Whether a reduction die is in service. -/
def ariServes (s : State) (d : Nat) : Bool := decide (d < ariCount s.variant) && serves (dieState s (ordAri d))

/-- The physical block that serves block number b, if one does (R21, R536). -/
def servedBy (s : State) (b : Nat) : Option Nat := s.age.serving.getD b none

/-- Whether block number b is in service. -/
def blockServes (s : State) (b : Nat) : Bool := (servedBy s b).isSome

/-- The end-point die of the physical block that serves block b. -/
def epDie (s : State) (b : Nat) : Nat := epDieOf s.variant ((servedBy s b).getD b)

/-- Whether a block takes up new work: one under a planned swap does not (R534). -/
def blockRuns (s : State) (b : Nat) : Bool := match servedBy s b with
  | none => false
  | some n => decide (blockState s n ≠ .draining)

/-- The reduction dies in service, in die order; one that leaves takes no new claim (R533). -/
def ariInService (s : State) : List Nat :=
  (List.range (ariCount s.variant)).filter (fun d => decide (dieState s (ordAri d) = .active))

/-- The planes in service, in the order of R354. -/
def planesInService (s : State) : List Nat := s.age.planeList

/-- The memory dies in service, in die order. -/
def memInService (s : State) : List Nat := (List.range (memCount s.variant)).filter (fun d => serves (dieState s (ordMem d)))

/-- Feature bit i as accepted by the driver (R595). -/
def accepted (s : State) (i : Nat) : Bool := regBit s (glbBase + 0x20 + 4 * (i / 32)) (i % 32)

/-- Feature bit i as offered (R580). -/
def offered (s : State) (i : Nat) : Bool := regBit s (glbBase + 0x10 + 4 * (i / 32)) (i % 32)

/-- The module's own fabric ID, where the driver set one (R593). -/
def ownFid (s : State) : Option Fid :=
  if regBit s (glbBase + 8) 16 then some (BitVec.ofNat 16 (regField s (glbBase + 8) 15 0)) else none

/-- The fabric ID of a block, where the driver set one (R97, R126). -/
def blockFid (s : State) (b : Nat) : Option Fid :=
  if regBit s (epBase b + 0x900) 16 then some (BitVec.ofNat 16 (regField s (epBase b + 0x900) 15 0)) else none

/-- The block that serves a fabric ID, if one in service does. -/
def blockOfFid (s : State) (f : Fid) : Option Nat :=
  (List.range (blockCount s.variant)).find? (fun b => blockServes s b && decide (blockFid s b = some f))

/-- Whether the data plane runs: MAINT or SERVICE with the clocks not gated (R507, R571). -/
def inService (s : State) : Bool := decide (s.mode = .service)

/-- Whether the control plane runs (R505, R570). -/
def controlRuns (s : State) : Bool := match s.mode with
  | .off => false
  | .reset => false
  | _ => true

/-- Whether the management state is there to be used: the states that serve BAR0 fully (R572). -/
def configurable (s : State) : Bool := decide (s.mode = .maint) || decide (s.mode = .service)

/-! ## Host memory and interrupts -/

/-- One of the two PCI Express ports. -/
def hostPort (s : State) (i : Nat) : HostPort := if i = 0 then s.host.port0 else s.host.port1

/-- The state with one of the two PCI Express ports replaced. -/
def setHostPort (s : State) (i : Nat) (p : HostPort) : State :=
  if i = 0 then { s with host := { s.host with port0 := p } } else { s with host := { s.host with port1 := p } }

/-- A port whose link is down. -/
def portDown (p : HostPort) : HostPort := { p with linkUp := false, linkGen := 0, width := 0 }

/-- Whether the owner's link carries host-memory traffic (R567). -/
def hostLinkOk (s : State) : Bool := (hostPort s s.host.owner).linkUp && !(hostPort s s.host.owner).perst

/-- A posted write to host memory, discarded while the owner's link is not in L0 (R567). -/
def hostWrite (s : State) (a : Nat) (bs : Bytes) : State := if hostLinkOk s then memWrite s (hostAddr a) bs else s

/-- A read of host memory: the bytes; one that fails in any way, or finds no link, takes the ABORT column (R431, R567). -/
def hostRead (s : State) (a n : Nat) : Except MemFaultKind Bytes :=
  if hostLinkOk s ∧ (memFaultAt s (hostAddr a) n).isNone then .ok (memRead s (hostAddr a) n) else .error .abort

/-- What a failed read of host memory leaves, at its model address: one that a link carried counts in the owner's AER registers, and an
answer that failed to come once is over (R567). -/
def noteHostRead (s : State) (a n : Nat) : State :=
  if hostLinkOk s ∧ (memFaultAt s a n).isSome then
    let p := hostPort s s.host.owner
    setHostPort { s with memFaults := s.memFaults.filter (fun f => !(f.once && decide (f.base < a + n) && decide (a < f.base + f.len))) }
      s.host.owner { p with aerCount := p.aerCount + 1 }
  else s

/-- One message dropped and counted (R586, R600). -/
def dropMsix (s : State) : State := countEvent s (mgBase + 0x28) (mgBase + 0x24) 0

/-- An MSI-X message of the owner's table: sent, held in the PBA while masked, or dropped (R586). -/
def sendMsix (s : State) (v : Nat) : State :=
  let o := s.host.owner
  let p := hostPort s o
  match Tab.get? p.table v with
  | none => dropMsix s
  | some e =>
    if e.masked then setHostPort s o { p with waiting := if v ∈ p.waiting then p.waiting else p.waiting ++ [v] }
    else if hostLinkOk s then emit s (.msix o v e.addr e.data) else s

/-! ## Rings in host memory (R386, R387, R583) -/

/-- The registers of a ring and the byte and bit that hold PHASE in a record of it. -/
structure RingRegs where
  lo    : Nat
  hi    : Nat
  prod  : Nat
  cons  : Nat
  bytes : Nat
  phaseByte : Nat
  phaseBit  : Nat

/-- The number of records that a ring holds (R386). -/
def ringSize (s : State) (r : RingRegs) : Nat :=
  let k := regField s r.lo 5 1
  if 4 ≤ k ∧ k ≤ 16 then 2 ^ k else 16

/-- Whether a ring takes a record now. -/
def ringOpen (s : State) (r : RingRegs) : Bool :=
  regBit s r.lo 0 && decide ((reg s r.prod - reg s r.cons).toNat < ringSize s r)

/-- A record written to its slot with PHASE, and PROD advanced (R377, R387). -/
def ringPut (s : State) (r : RingRegs) (rec : Bytes) : State :=
  let w := (reg s r.prod).toNat
  let size := ringSize s r
  let phase := 1 - w / size % 2
  let b := byteAt rec r.phaseByte ||| BitVec.ofNat 8 (phase * 2 ^ r.phaseBit)
  let s := hostWrite s (pairBase s r.lo r.hi 12 + w % size * r.bytes) (rec.set r.phaseByte b)
  setReg s r.prod (reg s r.prod + 1)

/-- The event ring, the sampling ring and the digest ring. -/
def eventRing : RingRegs :=
  { lo := mgBase + 0x14, hi := mgBase + 0x18, prod := mgBase + 0x1C, cons := mgBase + 0x20, bytes := 32, phaseByte := 2, phaseBit := 0 }
def mirrorRing : RingRegs :=
  { lo := mgBase + 0x4D0, hi := mgBase + 0x4D4, prod := mgBase + 0x4D8, cons := mgBase + 0x4DC, bytes := 160, phaseByte := 128, phaseBit := 3 }
def digestRing : RingRegs :=
  { lo := mgBase + 0x508, hi := mgBase + 0x50C, prod := mgBase + 0x510, cons := mgBase + 0x514, bytes := 192, phaseByte := 155, phaseBit := 1 }

/-! ## The event log (R583 to R585) -/

/-- The kinds of event record (R585). -/
inductive EvKind where
  | state | regWrite | command | port | collective | harbour | security | unit | power | fault | route | table
  deriving DecidableEq, Repr

/-- KIND as R585 numbers it. -/
def EvKind.code : EvKind → Byte
  | .state => 0x01
  | .regWrite => 0x02
  | .command => 0x03
  | .port => 0x04
  | .collective => 0x05
  | .harbour => 0x06
  | .security => 0x07
  | .unit => 0x08
  | .power => 0x09
  | .fault => 0x0A
  | .route => 0x0B
  | .table => 0x0C

/-- The 32 bytes of an event record, PHASE clear (R584). -/
def eventBytes (e : EventRec) : Bytes :=
  [e.reason, e.kind, BitVec.ofNat 8 (2 * b01 e.lost), e.unit] ++ toLe 4 e.seq.toNat ++ toLe 8 e.time.toNat ++ fit 16 e.detail

/-- The records that the management dies keep: the last 4,096 (R583). -/
def keepEvents (l : List EventRec) : List EventRec := l.drop (l.length - 4096)

/-- One event record, called for by the rule with number `rule`: kept on the management dies, and written to the event
ring or dropped and counted (R583, R600). `named` are fabric IDs that it names beside its DETAIL. -/
def logNaming (s : State) (kind : EvKind) (unit : Nat) (detail : Bytes) (rule : Nat) (named : List Fid) : State :=
  let e : EventRec :=
    { kind := kind.code, reason := Config.eventReason rule, lost := s.host.eventLost, unit := BitVec.ofNat 8 unit,
      seq := s.host.eventSeq, time := BitVec.ofNat 64 (s.now - s.bootAt), detail := fit 16 detail, named := named }
  let s := { s with host := { s.host with eventSeq := s.host.eventSeq + 1, eventLog := keepEvents (s.host.eventLog ++ [e]) } }
  if ringOpen s eventRing then
    let s := ringPut s eventRing (eventBytes e)
    let s := { s with host := { s.host with eventLost := false } }
    if regBit s (mgBase + 0x10) 31 then sendMsix s (regField s (mgBase + 0x10) 10 0) else s
  else
    { dropMsix s with host := { (dropMsix s).host with eventLost := true } }

/-- An event record that names no fabric ID beside its DETAIL. -/
def logEvent (s : State) (kind : EvKind) (unit : Nat) (detail : Bytes) (rule : Nat) : State := logNaming s kind unit detail rule []

/-- UNIT of a record that concerns the whole module (R584). -/
def wholeModule : Nat := 0xFF

/-- MG_STATE.STATE (R570). -/
def modeCode : Mode → Nat
  | .off => 0
  | .reset => 1
  | .boot => 2
  | .maint => 3
  | .service => 4
  | .fatal => 5
  | .dump => 6
  | .epoOff => 7

/-- A STATE record: old state, new state, REQ_STATUS, REQ_REASON (R585). -/
def logState (s : State) (old : Mode) (rule : Nat) : State :=
  logEvent s .state wholeModule
    [BitVec.ofNat 8 (modeCode old), BitVec.ofNat 8 (modeCode s.mode), s.host.reqStatus, s.host.reqReason] rule

/-- A REG_WRITE record: BAR0 offset and value written (R585). -/
def logRegWrite (s : State) (off value : Nat) : State :=
  logEvent s .regWrite wholeModule (toLe 4 off ++ toLe 4 value) 585

/-- Whether recovery firmware runs (R447). -/
def recovery (s : State) : Bool := decide (s.sec.bootSlot = 2)

/-- What a command beyond firmware update and the reading of the dump comes to: recovery firmware serves none and logs the write (R447, log
213). -/
def unlessRecovery (s : State) (off : Nat) (v : Word) (served : State) : State := if recovery s then logRegWrite s off v.toNat else served

/-- A COMMAND record (R585). -/
def logCommand (s : State) (b q : Nat) (opcode status : Byte) (tag slot rule : Nat) : State :=
  logEvent s .command (ordEp (epDie s b))
    (toLe 2 b ++ toLe 2 q ++ [opcode, status, 0, 0] ++ toLe 4 tag ++ toLe 2 slot) rule

/-- A PORT record: port, cause, failing step (R585). -/
def logPort (s : State) (p cause step rule : Nat) : State :=
  logEvent s .port (ordPort p) [BitVec.ofNat 8 p, BitVec.ofNat 8 cause, BitVec.ofNat 8 step] rule

/-- A COLLECTIVE record that names fabric IDs (R267, R585). -/
def logCollNaming (s : State) (ctx : CtxId) (group epoch collId chunk rule : Nat) (named : List Fid) : State :=
  logNaming s .collective wholeModule
    (toLe 3 ctx.toNat ++ toLe 2 group ++ toLe 2 epoch ++ [0] ++ toLe 4 collId ++ toLe 4 chunk) rule named

/-- A COLLECTIVE record (R585). -/
def logColl (s : State) (ctx : CtxId) (group epoch collId chunk rule : Nat) : State := logCollNaming s ctx group epoch collId chunk rule []

/-- A HARBOUR record (R585). -/
def logHarbour (s : State) (ctx : CtxId) (hset : Word) (what rule : Nat) : State :=
  logEvent s .harbour wholeModule (toLe 3 ctx.toNat ++ [0] ++ toLe 4 hset.toNat ++ toLe 6 what) rule

/-- A SECURITY record (R585). -/
def logSecurity (s : State) (ctx : CtxId) (result : Byte) (session : Word) (epoch rule : Nat) : State :=
  logEvent s .security wholeModule (toLe 3 ctx.toNat ++ [result] ++ toLe 4 session.toNat ++ [BitVec.ofNat 8 epoch]) rule

/-- A POWER record (R585). -/
def logPower (s : State) (what rule : Nat) : State := logEvent s .power wholeModule (toLe 4 what) rule

/-- A FAULT record (R585): class, cause, unit. -/
def logFault (s : State) (cls cause unit rule : Nat) : State :=
  logEvent s .fault wholeModule ([BitVec.ofNat 8 cls, BitVec.ofNat 8 cause] ++ toLe 2 unit) rule

/-- A ROUTE record (R585). -/
def logRoute (s : State) (fid port rule : Nat) : State :=
  logEvent s .route wholeModule (toLe 2 fid ++ [BitVec.ofNat 8 port]) rule

/-! ## Determinism flags (R483, R497) -/

/-- The conditions of R483, by their bit in MG_DET_STATUS. -/
def detClock : Nat := 0
def detCap : Nat := 1
def detTopology : Nat := 2
def detResend : Nat := 3

/-- A broken condition of R481: its flag, and one in MG_DET_BREAK_CNT. -/
def detBreak (s : State) (flag : Nat) : State := countEvent s (mgBase + 0x504) (mgBase + 0x500) flag

/-! ## Status codes (R188) -/

def stOk : Byte := 0x00
def stStateRejected : Byte := 0x01
def stFaultUnmapped : Byte := 0x02
def stDestLost : Byte := 0x03
def stCheckFailed : Byte := 0x04
def stIndeterminate : Byte := 0x05
def stContextGone : Byte := 0x06
def stOverflow : Byte := 0x07
def stOwnerMismatch : Byte := 0x08
def stKeyInvalid : Byte := 0x09
def stTimeout : Byte := 0x0A
def stProtocol : Byte := 0x0B

/-! ## Outcomes -/

/-- A meaning that always gives a next state. -/
abbrev Result := Host.Outcome State Fault Refusal

/-- The event does not apply in the present state: nothing changes (log 7). -/
def idle (s : State) : Result := .next s

end Sys2Proof.Machine
end

