-- ==== Sys2Proof/Machine/Images.lean ====
section
/-!
DEFINITION. The images of the firmware flash, and when they are valid (R444, R445).
-/
namespace Sys2Proof.Machine

open Sys2Proof

/-- Where an image fails. -/
inductive ImageFail where
  | header | signature | rollback | hash
  deriving DecidableEq, Repr

/-- SHA-384 of the fused signing key. -/
def signerHash : Bytes := (List.range 48).map Config.signerHash

/-- An image of a KIND in a region: none where it is valid. -/
def imageFail (s : State) (image : Bytes) (kind room : Nat) : Option ImageFail :=
  let h := slice image 0 512
  let n := fieldAt h 8 4
  if fieldAt h 0 4 ≠ 0xF1A90001 ∨ byteAt h 4 ≠ 1 ∨ 64 < (byteAt h 5).toNat ∨ (byteAt h 6).toNat ≠ kind ∨ byteAt h 7 ≠ 0 ∨
      !reservedZero h 12 16 ∨ !reservedZero h 161 168 ∨ !reservedZero h 264 512 ∨ room < 512 + n then some .header
  else if sha384 (slice h 64 97) ≠ signerHash ∨ !ecdsaVerify (pointOf (slice h 64 97)) (h.take 168) (slice h 168 96) then some .signature
  else if (byteAt h 5).toNat < s.sec.fusesBlown then some .rollback
  else if sha384 (slice image 512 n) ≠ slice h 16 48 then some .hash
  else none

/-- Where a slot's two images stand, and how much room each has. -/
def mainOffset : Nat := 0x200000
def slotBytes : Nat := 0x2000000
def slotAt (slot : Nat) : Nat := 0x01000000 + slotBytes * slot

/-- KIND of the first-stage image of a slot; the main image's is one more. -/
def firstKind (slot : Nat) : Nat := if slot = 2 then 3 else 1

/-- A slot's bytes in the flash from an offset. -/
def slotRead (s : State) (slot off n : Nat) : Bytes := memRead s (flashAddr (slotAt slot + off)) n

/-- An image of the flash, header and body. -/
def slotImage (s : State) (slot off : Nat) : Bytes :=
  slotRead s slot off (512 + min (fieldAt (slotRead s slot off 512) 8 4) slotBytes)

/-- Whether a slot's first-stage image, and its main image, are valid. -/
def firstStageOk (s : State) (slot : Nat) : Bool := (imageFail s (slotImage s slot 0) (firstKind slot) mainOffset).isNone
def mainImageOk (s : State) (slot : Nat) : Bool :=
  (imageFail s (slotImage s slot mainOffset) (firstKind slot + 1) (slotBytes - mainOffset)).isNone

/-- Whether both images of a slot are valid (R445, R532). -/
def slotValid (s : State) (slot : Nat) : Bool := firstStageOk s slot && mainImageOk s slot

end Sys2Proof.Machine
end

