-- ==== Sys2Proof/Machine/Anchored.lean ====
section
/-!
DEFINITION. Number formats and anchored arithmetic (R33 to R62): decoding, conversion to anchored form, special values,
final rounding, MX blocks, residues, exact reductions, the counter hash and the wide scalar accumulator. Every value
between decoding and rounding is exact.
-/
namespace Sys2Proof.Machine

open Sys2Proof

/-! ## Exact values -/

/-- A decoded value: a NaN, an infinity, or the number (-1)^neg * m * 2^e. -/
inductive Num where
  | nan
  | inf (neg : Bool)
  | fin (neg : Bool) (m : Nat) (e : Int)
  deriving DecidableEq, Repr

/-- The number one. -/
def Num.one : Num := .fin false 1 0

/-- A zero. -/
def Num.zero : Num := .fin false 0 0

/-- The exponent of a finite non-zero value: floor of log2 of its magnitude (R39). -/
def expOf (m : Nat) (e : Int) : Int := (Nat.log2 m : Int) + e

/-- A magnitude in units of 2^q, with what lies below one unit: the whole units, and the rest as `rem` of `2 ^ sh`. -/
def cutAt (m : Nat) (e q : Int) : Nat × Nat × Nat :=
  if q ≤ e then (m * 2 ^ (e - q).toNat, 0, 0)
  else ((m / 2 ^ (q - e).toNat), m % 2 ^ (q - e).toNat, (q - e).toNat)

/-- Rounding modes (R49). -/
def rndNear : Nat := 0
def rndZero : Nat := 1
def rndUp : Nat := 2
def rndDown : Nat := 3
def rndHash : Nat := 4

/-- A magnitude rounded to whole units of 2^q under a mode (R49, R53); `r` is the draw of mode 4. -/
def roundUnits (mode r : Nat) (neg : Bool) (m : Nat) (e q : Int) : Nat :=
  let c := cutAt m e q
  let k := c.1
  let rem := c.2.1
  let sh := c.2.2
  if rem = 0 then k
  else if mode = rndZero then k
  else if mode = rndUp then (if neg then k else k + 1)
  else if mode = rndDown then (if neg then k + 1 else k)
  else if mode = rndHash then (if 2 ^ 32 ≤ rem * 2 ^ 32 / 2 ^ sh + r then k + 1 else k)
  else if 2 ^ sh < 2 * rem then k + 1
  else if 2 ^ sh = 2 * rem then k + k % 2
  else k

/-- The signed integer of a sign and a magnitude. -/
def signedOf (neg : Bool) (k : Nat) : Int := if neg then -(k : Int) else k

/-- The exact sum of two finite values in units of the smaller exponent: signed count and exponent. -/
def addExact (n1 : Bool) (m1 : Nat) (e1 : Int) (n2 : Bool) (m2 : Nat) (e2 : Int) : Int × Int :=
  let q := min e1 e2
  (signedOf n1 (m1 * 2 ^ (e1 - q).toNat) + signedOf n2 (m2 * 2 ^ (e2 - q).toNat), q)

/-- The order of two finite values: negative, zero or positive difference. -/
def cmpExact (n1 : Bool) (m1 : Nat) (e1 : Int) (n2 : Bool) (m2 : Nat) (e2 : Int) : Int :=
  (addExact n1 m1 e1 (!n2) m2 e2).1

/-! ## Formats (R33) -/

/-- A binary format: bits, fraction bits, bias, largest finite encoding, whether it has an infinity, whether its top
exponent field is the IEEE one, and the canonical NaN. -/
structure FloatFmt where
  width  : Nat
  frac   : Nat
  bias   : Nat
  maxEnc : Nat
  inf    : Bool
  ieee   : Bool
  nan    : Nat
  deriving DecidableEq, Repr

/-- The binary formats and the element formats of the MX formats, MXINT8 apart. -/
def floatFmt (code : Nat) : Option FloatFmt :=
  if code = 0x01 then some ⟨64, 52, 1023, 0x7FEFFFFFFFFFFFFF, true, true, 0x7FF8000000000000⟩
  else if code = 0x02 then some ⟨32, 23, 127, 0x7F7FFFFF, true, true, 0x7FC00000⟩
  else if code = 0x03 then some ⟨16, 10, 15, 0x7BFF, true, true, 0x7E00⟩
  else if code = 0x04 then some ⟨16, 7, 127, 0x7F7F, true, true, 0x7FC0⟩
  else if code = 0x05 then some ⟨8, 3, 7, 0x7E, false, false, 0x7F⟩
  else if code = 0x06 then some ⟨8, 2, 15, 0x7B, true, true, 0x7E⟩
  else if code = 0x10 then some ⟨8, 3, 7, 0x7E, false, false, 0x7F⟩
  else if code = 0x11 then some ⟨8, 2, 15, 0x7B, false, true, 0x7E⟩
  else if code = 0x12 then some ⟨6, 3, 1, 0x1F, false, false, 0⟩
  else if code = 0x13 then some ⟨6, 2, 3, 0x1F, false, false, 0⟩
  else if code = 0x14 then some ⟨4, 1, 1, 0x7, false, false, 0⟩
  else none

def fp64 : FloatFmt := ⟨64, 52, 1023, 0x7FEFFFFFFFFFFFFF, true, true, 0x7FF8000000000000⟩
def fp32 : FloatFmt := ⟨32, 23, 127, 0x7F7FFFFF, true, true, 0x7FC00000⟩

/-- Whether a code names a format, an MX format, an integer format (R33). -/
def isMx (code : Nat) : Bool := decide (0x10 ≤ code) && decide (code ≤ 0x15)
def isInt (code : Nat) : Bool := decide (0x20 ≤ code) && decide (code ≤ 0x23)
def isFloat (code : Nat) : Bool := decide (1 ≤ code) && decide (code ≤ 6)
def isFmt (code : Nat) : Bool := isMx code || isInt code || isFloat code

/-- Bits of one element. -/
def elemBits (code : Nat) : Nat :=
  if code = 0x15 then 8
  else if code = 0x20 ∨ code = 0x22 then 32
  else if code = 0x21 ∨ code = 0x23 then 64
  else match floatFmt code with
    | none => 0
    | some f => f.width

/-- Bytes of `n` elements of a format, packed from bit 0 of the lowest byte (R35). -/
def elemBytes (code n : Nat) : Nat := ceilDiv (n * elemBits code) 8

/-- Element `i` of a packed array. -/
def elemAt (code : Nat) (bs : Bytes) (i : Nat) : Nat :=
  let w := elemBits code
  leNat (slice bs (i * w / 8) 9) / 2 ^ (i * w % 8) % 2 ^ w

/-- An array of elements packed. -/
def packElems (code : Nat) (l : List Nat) : Bytes :=
  let w := elemBits code
  toLe (elemBytes code l.length) (l.foldr (fun x acc => x % 2 ^ w + acc * 2 ^ w) 0)

/-! ## Decoding -/

/-- The value of an encoding of a binary format (R33, R34). -/
def decodeFloat (f : FloatFmt) (enc : Nat) : Num :=
  let neg := bit enc (f.width - 1)
  let mag := enc % 2 ^ (f.width - 1)
  let x := mag / 2 ^ f.frac
  let m := mag % 2 ^ f.frac
  if f.maxEnc < mag then
    (if f.ieee ∧ m = 0 then .inf neg else .nan)
  else if x = 0 then .fin neg m (1 - (f.bias : Int) - f.frac)
  else .fin neg (m + 2 ^ f.frac) ((x : Int) - f.bias - f.frac)

/-- The integer of an encoding of an integer format. -/
def decodeInt (code enc : Nat) : Int :=
  if code = 0x20 then signed 32 enc
  else if code = 0x21 then signed 64 enc
  else enc

/-- The value of an encoding of a format without a scale. -/
def decodePlain (code enc : Nat) : Num :=
  if isInt code then
    let v := decodeInt code enc
    .fin (decide (v < 0)) v.natAbs 0
  else if code = 0x15 then
    let v := signed 8 enc
    .fin (decide (v < 0)) v.natAbs (-6)
  else match floatFmt code with
    | none => .nan
    | some f => decodeFloat f enc

/-- The value of an MX element under its block's scale byte (R35): a special element keeps its own state. -/
def decodeMx (code scale enc : Nat) : Num :=
  if scale = 0xFF then .nan
  else match decodePlain code enc with
    | .fin n m e => .fin n m (e + scale - 127)
    | x => x

/-- Element `i` of a contribution: elements and, for MX formats, scale bytes. -/
def decodeElem (code : Nat) (elems scales : Bytes) (i : Nat) : Num :=
  if isMx code then decodeMx code (byteAt scales (i / 32)).toNat (elemAt code elems i)
  else decodePlain code (elemAt code elems i)

/-- The exponent of the smallest subnormal of a format (R46); for MX formats under the smallest scale (log 20). -/
def smallestExp (code : Nat) : Int :=
  if code = 0x15 then -133
  else match floatFmt code with
    | none => 110
    | some f => 1 - (f.bias : Int) - f.frac - (if isMx code then 127 else 0)

/-! ## Special values and residues -/

/-- The combination of special-value states (R47). -/
def Special.join : Special → Special → Special
  | .finite, x => x
  | x, .finite => x
  | .posInf, .posInf => .posInf
  | .negInf, .negInf => .negInf
  | _, _ => .nan

/-- The state of a value. -/
def Num.special : Num → Special
  | .nan => .nan
  | .inf true => .negInf
  | .inf false => .posInf
  | .fin _ _ _ => .finite

/-- The residue of an integer modulo 65,535 (R56). -/
def residueInt (i : Int) : Nat := (i % 65535).toNat

/-- The residue of A (R57): what the folding of its eight words and the sign correction give. -/
def residueOf (a : BitVec 128) : BitVec 16 := BitVec.ofNat 16 (residueInt a.toInt)

/-- The sum of two residues modulo 65,535. -/
def residueAdd (x y : BitVec 16) : BitVec 16 := BitVec.ofNat 16 ((x.toNat + y.toNat) % 65535)

/-- An accumulator that nothing has reached. -/
def Acc.blank : Acc := { a := 0, residue := 0, special := .finite, sat := false, negZero := true, empty := true }

/-- A contribution in anchored form (R42, R47, R48). -/
def contribution (anchor : Int) (explicit : Bool) : Num → Acc
  | .fin neg m e =>
    if m = 0 then { Acc.blank with negZero := neg, empty := false }
    else
      let big := explicit && decide (anchor < expOf m e)
      let k := if big then 2 ^ 111 - 1 else roundUnits rndNear 0 neg m e (anchor - 110)
      let v := signedOf neg k
      { a := BitVec.ofInt 128 v, residue := BitVec.ofNat 16 (residueInt v), special := .finite, sat := big, negZero := false,
        empty := false }
  | x => { Acc.blank with special := x.special, negZero := false, empty := false }

/-- The sum of two accumulators. -/
def Acc.add (x y : Acc) : Acc :=
  { a := x.a + y.a, residue := residueAdd x.residue y.residue, special := x.special.join y.special, sat := x.sat || y.sat,
    negZero := x.negZero && y.negZero, empty := x.empty && y.empty }

/-- Whether an accumulator passes its residue check (R57). -/
def Acc.checks (x : Acc) : Bool := decide (x.residue = residueOf x.a)

/-! ## Reduction operations (R47, R58, R59) -/

/-- KIND of a launch (R248). -/
def opSum : Nat := 1
def opMax : Nat := 2
def opMin : Nat := 3
def opAnd : Nat := 4
def opOr : Nat := 5
def opXor : Nat := 6

/-- The binary64 encoding of an exact value that binary64 holds. -/
def encodeExact64 : Num → Nat
  | .nan => fp64.nan
  | .inf neg => b01 neg * 2 ^ 63 + 0x7FF0000000000000
  | .fin neg m e =>
    if m = 0 then b01 neg * 2 ^ 63
    else
      let x := max (expOf m e) (-1022)
      let k := roundUnits rndNear 0 neg m e (x - 52)
      b01 neg * 2 ^ 63 + ((x + 1022).toNat * 2 ^ 52 + k)

/-- Whether the first value is greater, for MAX on floating-point values: +0 is greater than -0 (R58). -/
def greater : Num → Num → Bool
  | .inf n1, y => !n1 && decide (y ≠ .inf false)
  | .fin _ _ _, .inf n2 => n2
  | .fin n1 m1 e1, .fin n2 m2 e2 =>
    let d := cmpExact n1 m1 e1 n2 m2 e2
    decide (0 < d) || (decide (d = 0) && !n1 && n2)
  | _, _ => false

/-- A contribution to MAX or MIN on floating-point or MX inputs: the decoded value as binary64 (R58, R274). -/
def exactContribution (x : Num) : Acc :=
  { a := BitVec.ofNat 128 (encodeExact64 x), residue := 0, special := x.special, sat := false, negZero := false, empty := false }

/-- A contribution to an integer MAX or MIN, or to AND, OR or XOR (R59, R274). -/
def intContribution (code op enc : Nat) : Acc :=
  { a := if op = opMax ∨ op = opMin then BitVec.ofInt 128 (decodeInt code enc) else BitVec.ofNat 128 enc, residue := 0,
    special := .finite, sat := false, negZero := false, empty := false }

/-- The combination of two accumulators under a reduction operation on inputs of a format. One that nothing has reached carries
no value, but its residue counts: an injected error may lie in it (R66). -/
def combine (op code : Nat) (x y : Acc) : Acc :=
  if x.empty then { y with residue := residueAdd x.residue y.residue }
  else if y.empty then { x with residue := residueAdd x.residue y.residue }
  else if op = opSum then x.add y
  else if op = opAnd then { x with a := x.a &&& y.a }
  else if op = opOr then { x with a := x.a ||| y.a }
  else if op = opXor then { x with a := x.a ^^^ y.a }
  else if isInt code then
    (if (op = opMax) = (x.a.toInt < y.a.toInt) then y else x)
  else if x.special = .nan ∨ y.special = .nan then { x with a := BitVec.ofNat 128 fp64.nan, special := .nan }
  else
    let u := decodeFloat fp64 (x.a.toNat % 2 ^ 64)
    let v := decodeFloat fp64 (y.a.toNat % 2 ^ 64)
    if op = opMax then (if greater v u then y else x) else (if greater u v then y else x)

/-! ## Final rounding (R49 to R55) -/

/-- A finite non-zero magnitude encoded in a binary format, and whether it overflows (R49, R51). -/
def encodeMag (f : FloatFmt) (mode r : Nat) (neg : Bool) (m : Nat) (e : Int) : Nat × Bool :=
  let emin : Int := 1 - f.bias
  let x := max (expOf m e) emin
  let k := roundUnits mode r neg m e (x - f.frac)
  let enc := (x - emin).toNat * 2 ^ f.frac + k
  if enc ≤ f.maxEnc then (enc, false)
  else if f.inf ∧ (mode = rndNear ∨ mode = rndHash ∨ (mode = rndUp ∧ !neg) ∨ (mode = rndDown ∧ neg)) then (f.maxEnc + 1, true)
  else (f.maxEnc, true)

/-- An exact value in a binary format: the encoding, and whether it overflows. -/
def roundFloat (f : FloatFmt) (mode r : Nat) : Num → Nat × Bool
  | .nan => (f.nan, false)
  | .inf neg => (if f.inf then b01 neg * 2 ^ (f.width - 1) + f.maxEnc + 1 else f.nan, false)
  | .fin neg m e =>
    if m = 0 then (b01 neg * 2 ^ (f.width - 1), false)
    else
      let p := encodeMag f mode r neg m e
      (b01 neg * 2 ^ (f.width - 1) + p.1, p.2)

/-- The limits of an integer format. -/
def intLimits (code : Nat) : Int × Int :=
  if code = 0x20 then (-(2 ^ 31), 2 ^ 31 - 1)
  else if code = 0x21 then (-(2 ^ 63), 2 ^ 63 - 1)
  else if code = 0x22 then (0, 2 ^ 32 - 1)
  else (0, 2 ^ 64 - 1)

/-- An integer in an integer format, saturated (R52). -/
def roundInt (code : Nat) (v : Int) : Nat × Bool :=
  let l := intLimits code
  let w := elemBits code
  if v < l.1 then (wrap w l.1, true)
  else if l.2 < v then (wrap w l.2, true)
  else (wrap w v, false)

/-- The value that an accumulator stands for: its special state, or A units of 2^(anchor - 110), with the sign of zero
that R50 gives. -/
def Acc.value (x : Acc) (anchor : Int) : Num :=
  match x.special with
  | .nan => .nan
  | .posInf => .inf false
  | .negInf => .inf true
  | .finite =>
    if x.a = 0 then .fin (x.negZero && !x.empty) 0 0
    else .fin (decide (x.a.toInt < 0)) x.a.toInt.natAbs (anchor - 110)

/-- The value that the root rounds, for a reduction operation on inputs of a format. -/
def Acc.result (x : Acc) (op code : Nat) (anchor : Int) : Num :=
  if op = opSum then x.value anchor
  else if isInt code then
    let v := if op = opMax ∨ op = opMin then x.a.toInt else decodeInt code x.a.toNat
    .fin (decide (v < 0)) v.natAbs 0
  else decodeFloat fp64 (x.a.toNat % 2 ^ 64)

/-- The integer of a value that is one. -/
def Num.toInt : Num → Int
  | .fin neg m e => signedOf neg (cutAt m e 0).1
  | _ => 0

/-- A value rounded to a format without a scale: the encoding, and whether it overflows. -/
def roundPlain (code mode r : Nat) (x : Num) : Nat × Bool :=
  if isInt code then roundInt code x.toInt
  else match floatFmt code with
    | none => (0, false)
    | some f => roundFloat f mode r x

/-- The largest exponent of an MX element format (R55). -/
def mxEmax (code : Nat) : Int :=
  if code = 0x10 then 8 else if code = 0x11 then 15 else if code = 0x12 then 2 else if code = 0x13 then 4
  else if code = 0x14 then 2 else 0

/-- One MX element from a finite value under the scale exponent x, and whether it saturates (R55, R35). -/
def mxElem (code mode r : Nat) (x : Int) : Num → Nat × Bool
  | .fin neg m e =>
    if code = 0x15 then
      let k := roundUnits mode r neg m (e - x) (-6)
      let c := min k 127
      (wrap 8 (signedOf neg c), decide (127 < k))
    else roundPlain code mode r (.fin neg m (e - x))
  | _ => (0, false)

/-- The exponent of a finite non-zero value. -/
def Num.exp? : Num → Option Int
  | .fin _ m e => if m = 0 then none else some (expOf m e)
  | _ => none

/-- The larger of two exponents that may be absent. -/
def maxExp : Option Int → Option Int → Option Int
  | none, x => x
  | x, none => x
  | some a, some b => some (max a b)

/-- An MX block: the scale byte, the elements, and how many elements saturate (R55). `r` gives each element's draw. -/
def mxBlock (code mode : Nat) (xs : List (Num × Nat)) : Nat × List Nat × Nat :=
  if xs.any (fun p => decide (p.1.special ≠ .finite)) then (0xFF, xs.map (fun _ => 0), 0)
  else match xs.foldl (fun acc p => maxExp acc p.1.exp?) none with
    | none => (0, xs.map (fun p => (mxElem code mode p.2 0 p.1).1), 0)
    | some top =>
      let x := max (-127) (min 127 (top - mxEmax code))
      let es := xs.map (fun p => mxElem code mode p.2 x p.1)
      ((x + 127).toNat, es.map (·.1), (es.filter (·.2)).length)

/-! ## The counter hash (R54) -/

/-- The mixing function of R54, on 64-bit words. -/
def hashMix (x : BitVec 64) : BitVec 64 :=
  let x := x ^^^ (x >>> 30)
  let x := x * 0xBF58476D1CE4E5B9
  let x := x ^^^ (x >>> 27)
  let x := x * 0x94D049BB133111EB
  x ^^^ (x >>> 31)

/-- The counter hash of an element (R54). -/
def counterHash (ctx collId chunk element : Nat) : BitVec 64 :=
  let w0 := BitVec.ofNat 64 (collId % 2 ^ 32 * 2 ^ 32 + chunk % 2 ^ 32)
  let w1 := BitVec.ofNat 64 (ctx * 2 ^ 32 + element % 2 ^ 32)
  hashMix (w1 ^^^ hashMix (w0 ^^^ 0x7A31C4E90D58B6F3))

/-- The draw r of mode 4 (R53). -/
def hashDraw (ctx collId chunk element : Nat) : Nat := (counterHash ctx collId chunk element).toNat / 2 ^ 32

/-! ## FP32 addition (R212, R34) -/

/-- The IEEE sum of two values before rounding: an exact zero sum of unlike signs is +0 under round to nearest. -/
def addNum : Num → Num → Num
  | .nan, _ => .nan
  | _, .nan => .nan
  | .inf a, .inf b => if a = b then .inf a else .nan
  | .inf a, _ => .inf a
  | _, .inf b => .inf b
  | .fin n1 m1 e1, .fin n2 m2 e2 =>
    let p := addExact n1 m1 e1 n2 m2 e2
    if p.1 = 0 then .fin (n1 && n2 && decide (m1 = 0) && decide (m2 = 0)) 0 0
    else .fin (decide (p.1 < 0)) p.1.natAbs p.2

/-- The IEEE product of two values before rounding. -/
def mulNum : Num → Num → Num
  | .nan, _ => .nan
  | _, .nan => .nan
  | .inf a, .inf b => .inf (a != b)
  | .inf a, .fin b m _ => if m = 0 then .nan else .inf (a != b)
  | .fin a m _, .inf b => if m = 0 then .nan else .inf (a != b)
  | .fin n1 m1 e1, .fin n2 m2 e2 => .fin (n1 != n2) (m1 * m2) (e1 + e2)

/-- The sum of two FP32 encodings under roundTiesToEven. -/
def fp32Add (x y : Nat) : Nat := (roundFloat fp32 rndNear 0 (addNum (decodeFloat fp32 x) (decodeFloat fp32 y))).1

/-! ## The wide scalar accumulator (R61, R62) -/

/-- A wide accumulator that nothing has reached. -/
def Wide.zero : Wide := { w := 0, residue := 0, special := .finite }

/-- A value added to a wide accumulator, exactly, and its residue to the residue (R56, R61). -/
def wideAdd (x : Wide) : Num → Wide
  | .fin neg m e =>
    let v := signedOf neg (cutAt m e (-300)).1
    { x with w := x.w + BitVec.ofInt 640 v, residue := residueAdd x.residue (BitVec.ofNat 16 (residueInt v)) }
  | y => { x with special := x.special.join y.special }

/-- Two wide accumulators added. -/
def wideJoin (x y : Wide) : Wide :=
  { w := x.w + y.w, residue := residueAdd x.residue y.residue, special := x.special.join y.special }

/-- Whether a wide accumulator passes its residue check (R57, R61). -/
def Wide.checks (x : Wide) : Bool := decide (x.residue.toNat = residueInt x.w.toInt)

/-- A wide accumulator rounded once to FP32 or FP64: a zero result of a finite state is +0 (R61). -/
def wideRound (f : FloatFmt) (mode r : Nat) (x : Wide) : Nat × Bool :=
  match x.special with
  | .nan => roundFloat f mode r .nan
  | .posInf => roundFloat f mode r (.inf false)
  | .negInf => roundFloat f mode r (.inf true)
  | .finite =>
    let v := x.w.toInt
    let p := roundFloat f mode r (.fin (decide (v < 0)) v.natAbs (-300))
    if p.1 % 2 ^ (f.width - 1) = 0 then (0, p.2) else p

/-! ## The arithmetic control word (R36 to R38) -/

def arithIn (w : Word) : Nat := bits w.toNat 7 0
def arithOut (w : Word) : Nat := bits w.toNat 15 8
def arithRound (w : Word) : Nat := bits w.toNat 18 16
def arithExplicit (w : Word) : Bool := w.getLsbD 19
def arithAnchor (w : Word) : Int := signed 12 (bits w.toNat 31 20)

/-- Whether a pair of formats is legal for a reduction operation (R38). -/
def pairLegal (op i o : Nat) : Bool :=
  let fl := fun c => isFloat c || isMx c
  if op = opSum then (fl i && fl o) || (isInt i && (isInt o || fl o))
  else if op = opMax ∨ op = opMin then (fl i && fl o) || (isInt i && isInt o)
  else if op = opAnd ∨ op = opOr ∨ op = opXor then isInt i && decide (i = o)
  else false

/-- The rules of R33, R35, R36, R37, R38, R49 and R52 for an arithmetic control word; `mx` says that feature bit 4 is accepted. -/
def arithOk (mx : Bool) (op : Nat) (w : Word) : Bool :=
  let i := arithIn w
  let o := arithOut w
  isFmt i && isFmt o && pairLegal op i o && (mx || (!isMx i && !isMx o)) && decide (arithRound w ≤ 4) &&
  (!isInt o || decide (arithRound w = 0)) &&
  (if isInt i then !arithExplicit w && decide (arithAnchor w = 0)
   else if arithExplicit w then decide (-1074 ≤ arithAnchor w) && decide (arithAnchor w ≤ 1023)
   else decide (arithAnchor w = 0))

/-! ## PARTIAL payloads (R274) -/

/-- A mark. -/
def markOf (x : Acc) : Nat :=
  (match x.special with
   | .finite => 0
   | .posInf => 1
   | .negInf => 2
   | .nan => 3) + 4 * b01 x.sat

/-- The special-value state of a mark. -/
def markSpecial (m : Nat) : Special :=
  if m % 4 = 0 then .finite else if m % 4 = 1 then .posInf else if m % 4 = 2 then .negInf else .nan

/-- The payload of a PARTIAL packet. -/
def partialBytes (xs : List Acc) : Bytes :=
  xs.flatMap (fun x => toLe 16 x.a.toNat) ++ xs.flatMap (fun x => toLe 2 x.residue.toNat) ++
  toLe (ceilDiv xs.length 2) (xs.foldr (fun x acc => markOf x + 16 * acc) 0)

/-- Elements of a PARTIAL payload: n elements make 18n + ceil(n / 2) bytes. -/
def partialCount (bs : Bytes) : Nat := bs.length * 2 / 37

/-- Whether bytes are laid out as a PARTIAL payload: 1 to 220 elements, and bit 3 of every mark zero. -/
def partialOk (bs : Bytes) : Bool :=
  let n := partialCount bs
  decide (1 ≤ n) && decide (n ≤ 220) && decide (bs.length = 18 * n + ceilDiv n 2) &&
  (List.range (2 * ceilDiv n 2)).all (fun i => !bit ((byteAt bs (18 * n + i / 2)).toNat / 16 ^ (i % 2) % 16) 3)

/-- Accumulator `i` of a PARTIAL payload of `n` elements. Whether a zero sum stands for contributions that were all -0 (R50) is
not in the payload: `negZero` says it (log 21). -/
def partialAcc (bs : Bytes) (n : Nat) (negZero : Bool) (i : Nat) : Acc :=
  let a := BitVec.ofNat 128 (fieldAt bs (16 * i) 16)
  let mark := (byteAt bs (18 * n + i / 2)).toNat / 16 ^ (i % 2) % 16
  { a := a, residue := BitVec.ofNat 16 (fieldAt bs (16 * n + 2 * i) 2), special := markSpecial mark, sat := bit mark 2,
    negZero := decide (a = 0) && decide (markSpecial mark = .finite) && negZero, empty := false }

end Sys2Proof.Machine
end

