-- ==== Sys2Proof/Machine/Flags.lean ====
section
/-!
DEFINITION. The registers that show state kept elsewhere (R520, R592, R596, R598 and the counts of the subject chapters),
the attention flags, and what a register reads as.
-/
namespace Sys2Proof.Machine

open Sys2Proof

/-! ## Lock-step (R489 to R493) -/

/-- The lock-step port, where the driver has accepted feature bit 3 and ENABLE is 1 (R489). -/
def lsPort (s : State) : Option Nat :=
  if accepted s 3 ∧ regBit s (mgBase + 0x520) 31 then some (regField s (mgBase + 0x520) 7 0) else none

/-- Whether a port is the lock-step port. -/
def isLsPort (s : State) (p : Nat) : Bool := decide (lsPort s = some p)

/-- A record produced in COMPARING, to be sent to the partner and matched (R491). -/
def lsProduce (s : State) (x : LsLocal) : State :=
  if s.ls.state = .comparing
  then { s with ls := { s.ls with localRecs := s.ls.localRecs ++ [x], unsent := s.ls.unsent ++ [x.what] } } else s

/-- Every slot held for a record released (R493, step 4). -/
def lsRelease (s : State) : State := { s with ls := { s.ls with localRecs := s.ls.localRecs.map (fun x => { x with slots := 0 }) } }

/-- FROZEN with a cause, where lock-step runs (R493, R500). -/
def lsFreeze (s : State) (cause : BitVec 4) : State :=
  if s.ls.state = .off ∨ s.ls.state = .frozen then s
  else { s with ls := { s.ls with state := .frozen, cause := cause, unsent := [] } }

/-- The lock-step port or a lock-step packet is lost (R493). -/
def lsLinkLost (s : State) : State := if s.ls.state = .off ∨ s.ls.state = .frozen then s else lsRelease (lsFreeze s 4)

/-! ## Attention flags (R596) -/

/-- The bit of GLB_ATTN that a block kind sets. MEM flags show in bit HB; the XB and GLB blocks hold no flag. -/
def attnBit : Blk → Option Nat
  | .mg => some 0
  | .sec => some 1
  | .cp => some 2
  | .hb => some 3
  | .mem => some 3
  | .pt => some 4
  | .ari => some 6
  | .ep => some 7
  | .glb => none
  | .xb => none

/-- Whether an instance of a block is in service, so that its registers exist (R588). -/
def instServes (s : State) : Blk → Nat → Bool
  | .xb, i => serves (dieState s (ordPlane i))
  | .ari, i => ariServes s i
  | .ep, i => blockServes s i
  | .mem, i => serves (dieState s (ordMem i))
  | .pt, i =>
    if i < 144 then true
    else if i < 170 then ariServes s (i - 144)
    else if i < 178 then serves (dieState s (ordEp (i - 170)))
    else if i < 186 then serves (dieState s (ordMem (i - 178)))
    else decide (dieState s (ordMgmt (i - 186)) = .active ∨ dieState s (ordMgmt (i - 186)) = .standby)
  | _, _ => true

/-- The register that a BAR0 offset names in the present state: none where R588 says the offset names no register. -/
def liveReg (s : State) (off : Nat) : Option RegSpec :=
  match blkOf off with
  | none => none
  | some (b, i, _) => if instServes s b i then regSpec s.variant off else none

/-- The attention bits that one stored register raises: a w1c flag that reads 1, MG_DUMP_STATE.REGION_VALID apart; the flags of an instance that
is not in service read 0 (R588, R596). -/
def attnOf (s : State) (off : Nat) (w : Word) : Nat :=
  if off = mgBase + 0xA2C then 0
  else match blkOf off, liveReg s off with
    | some (b, _, _), some r =>
      if w &&& r.w1c = 0 then 0
      else match attnBit b with
        | none => 0
        | some i => 2 ^ i
    | _, _ => 0

/-- GLB_ATTN. -/
def glbAttn (s : State) : Word := BitVec.ofNat 32 (s.regs.foldl (fun a c => a ||| attnOf s c.1 c.2) 0)

/-! ## Counts -/

/-- Slots of a reduction die: 640 of 64 KiB (R19). -/
def slotsPerDie : Nat := 640

/-- Slots on the reduction dies in service (R280). -/
def slotsInService (s : State) : Nat := slotsPerDie * (ariInService s).length

/-- Slots that granted claims hold, those of fallback blocks apart (R254, R256). -/
def slotsHeld (s : State) : Nat :=
  ((s.claims.filter (fun c => c.granted && !c.fallback)).map (·.slots)).foldl (· + ·) 0

/-- Tenant contexts resident at a block (R202). -/
def residentCount (s : State) (b : Nat) : Nat := (s.ctxBlocks.filter (fun e => decide (e.1.1 = b) && e.2.resident)).length

/-- Ledger entries of a block not yet free (R215, R234). -/
def ledgerUsed (s : State) (b : Nat) : Nat := (s.ledger.filter (fun e => decide (e.block = b))).length

/-- Cells of a plane's buffer that packets in the module hold (R394). -/
def planeCells (s : State) (d : Nat) : Nat :=
  (s.switch.transits.map (fun t => (t.planes.filter (fun p => decide (p = d))).length)).foldl (· + ·) 0

/-- Harbour units that shards hold (R321). -/
def unitsUsed (s : State) : Nat :=
  (s.hb.shards.map (fun h => (h.units.map (fun u => u.2.2.length)).foldl (· + ·) 0)).foldl (· + ·) 0

/-! ## The bunting (R531, R542, R543) -/

/-- A bunting state as R531 numbers it. -/
def unitCode : UnitState → Nat
  | .absent => 0
  | .active => 1
  | .spareTested => 2
  | .spareUntested => 3
  | .spareFailed => 4
  | .testing => 5
  | .draining => 6
  | .failed => 7
  | .standby => 8

/-- A kind of unit as R542 numbers it. -/
def kindCode : UnitKind → Nat
  | .lane => 0
  | .plane => 1
  | .reduction => 2
  | .epb => 3
  | .mgmt => 4
  | .clock => 5
  | .memory => 6
  | .fwSlot => 7
  | .hostPort => 8

/-- Cell-clock cycles in an hour. -/
def cyclesPerHour : Nat := 3600 * 1000000 * cyclesPerUs

/-- MG_UNIT_STATE or MG_EPB_STATE of a unit (R543). -/
def unitWord (s : State) (u : UnitRec) : Word :=
  let h := match u.testedAt with
    | none => 0xFFFF
    | some t => min ((s.now - t) / cyclesPerHour) 0xFFFE
  BitVec.ofNat 32 (h * 0x10000 + unitCode u.state)

/-- How many units of a list are in service, spare, and failed (R542). -/
def unitCounts (l : List UnitRec) : Nat × Nat × Nat :=
  ((l.filter (fun u => decide (u.state = .active))).length,
   (l.filter (fun u => decide (u.state = .spareTested ∨ u.state = .spareUntested ∨ u.state = .standby))).length,
   (l.filter (fun u => decide (u.state = .failed ∨ u.state = .spareFailed))).length)

/-- A port's record, as reset leaves it where nothing changed it. -/
def portOf (s : State) (p : Nat) : Port := Tab.getD s.ports p Port.blank

/-- The state with a port's record replaced. -/
def setPort (s : State) (p : Nat) (r : Port) : State := { s with ports := Tab.put s.ports p r }

/-- The lanes of a set, as a count. -/
def laneCount (l : BitVec 9) : Nat := ((List.range 9).filter (fun i => l.getLsbD i)).length

/-- Whether a port runs x4 (R404). -/
def runsX4 (r : Port) : Bool := decide (laneCount r.active = 4)

/-- Whether the bunting holds a tested spare lane for a port: lane 8, tested, not failed and not in use (R406, R542). -/
def hasSpareLane (r : Port) : Bool := r.lane8Tested && !r.lanesFailed.getLsbD 8 && !r.active.getLsbD 8 && !r.lane8InUse

/-- IN_SERVICE, SPARE and FAILED of a kind (R542): a slot counts where it has not failed its test and its images are valid. -/
def kindCounts (s : State) (k : Nat) : Nat × Nat × Nat :=
  let dies := fun from_ n => unitCounts ((s.age.dies.drop from_).take n)
  if k = 0 then
    let ps := (List.range (portCount s.variant)).map (portOf s)
    ((ps.filter (fun r => decide (r.state = .up) && decide (laneCount r.active = 8))).length,
     (ps.filter hasSpareLane).length,
     (ps.filter (fun r => (decide (r.state = .up) && runsX4 r) || (decide (r.state = .down) && decide (r.cause = 9)))).length)
  else if k = 1 then dies 36 18
  else if k = 2 then dies 54 26
  else if k = 3 then unitCounts s.age.blocks
  else if k = 4 then dies 96 2
  else if k = 5 then dies 98 2
  else if k = 6 then
    ((s.age.devices.filter (fun r => decide (r ≠ 0))).length, s.hb.spareLeft,
     (s.age.devices.filter (fun r => decide (r = 0))).length)
  else if k = 7 then
    let valid := fun (i : Nat) => decide (i ∉ s.age.fwSlotsBad) && slotValid s i
    (([0, 1].filter valid).length, b01 (valid 2), s.age.fwSlotsBad.length)
  else (b01 (hostPort s s.host.owner).linkUp, b01 (s.host.standbyReady && !s.age.hostPortBad), b01 s.age.hostPortBad)

/-- MG_BUNT_KINDk (R542). -/
def kindWord (s : State) (k : Nat) : Word :=
  let c := kindCounts s k
  BitVec.ofNat 32 (b01 (s.age.degraded.getLsbD k) * 2 ^ 31 + c.2.2 % 256 * 2 ^ 16 + c.2.1 % 256 * 2 ^ 8 + c.1 % 256)

/-! ## Registers that show other state -/

/-- Port states and lock-step states as R400 and R500 number them. -/
def portCode : PortState → Nat
  | .down => 0
  | .training => 1
  | .up => 2
  | .quarantine => 3

def lsCode : LsState → Nat
  | .off => 0
  | .pairing => 1
  | .comparing => 2
  | .frozen => 3
  | .mismatch => 4

/-- MG_STATE (R598). -/
def mgState (s : State) : Word :=
  BitVec.ofNat 32 (s.host.reqReason.toNat * 2 ^ 24 + s.host.reqStatus.toNat * 2 ^ 16 + b01 s.host.request.isSome * 2 ^ 9 +
    b01 s.degraded * 2 ^ 8 + modeCode s.mode)

/-- CP_PWR_STATUS (R520). -/
def pwrStatus (s : State) : Word :=
  BitVec.ofNat 32 (b01 s.pins.epoLow * 64 + b01 s.pins.shedLow * 32 + b01 s.pins.pgMem * 16 + b01 s.pins.pgIo * 8 +
    b01 s.pins.pgSerdes * 4 + b01 s.pins.pgCore * 2 + b01 s.pins.pgCtl)

/-- SEC_FW_STATE (R475), NEXT_SLOT apart, which Security adds from the boot control record it holds. -/
def fwState (s : State) (nextSlot : Nat) : Word :=
  BitVec.ofNat 32 (s.sec.svn.toNat * 2 ^ 16 + s.sec.fwResult.toNat * 2 ^ 12 + nextSlot % 2 * 2 ^ 8 +
    b01 s.sec.confirmed * 2 ^ 7 + s.sec.bootSlot % 4 * 2 ^ 4)

/-- What a register of the MG block shows of other state. -/
def viewMg (s : State) (o : Nat) : Option Word :=
  if o = 0x0 then some (mgState s)
  else if o = 0x4 then some (reg s (mgBase + 4) ||| BitVec.ofNat 32 (b01 s.host.request.isSome * 256))
  else if o = 0x33C then some (BitVec.ofNat 32 (slotsInService s * 2 ^ 16 + (slotsInService s - slotsHeld s)))
  else if o = 0x380 then some (BitVec.ofNat 32 s.programs.length)
  else if o = 0x528 then some (BitVec.ofNat 32 (s.ls.cause.toNat * 16 + lsCode s.ls.state))
  else if 0x620 ≤ o ∧ o < 0x644 then some (kindWord s ((o - 0x620) / 4))
  else if 0x700 ≤ o ∧ o < 0x890 then
    (s.age.dies[(o - 0x700) / 4]?).map (unitWord s)
  else if 0x900 ≤ o ∧ o < 0x9A0 then
    (s.age.blocks[(o - 0x900) / 4]?).map (unitWord s)
  else if o = 0xA08 then
    some (BitVec.ofNat 32 (s.host.ownerCause.toNat * 16 + b01 s.host.standbyReady * 2 + s.host.owner % 2))
  else if o = 0xA10 then some (BitVec.ofNat 32 (s.switch.exclusions.length + s.switch.excludeAll.length))
  else none

/-- What a register shows of state kept elsewhere; none where its stored value is what it reads as. -/
def viewReg (s : State) (nextSlot : Nat) (b : Blk) (i o : Nat) : Option Word :=
  match b with
  | .glb =>
    if o = 4 then some (BitVec.ofNat 32 (b01 s.lockstep * 4 + s.role.toNat))
    else if o = 0x30 then some (glbAttn s)
    else none
  | .mg => viewMg s o
  | .sec =>
    if o = 0x18 then some (BitVec.ofNat 32 s.sec.sessions.length)
    else if o = 0x1C then some (BitVec.ofNat 32 (b01 (decide (s.sec.fwResult = 1))))
    else if o = 0x20 then some (fwState s nextSlot)
    else if o = 0x30 then some (BitVec.ofNat 32 s.sec.fusesBlown)
    else if 0x100 ≤ o ∧ o < 0x280 then
      some (BitVec.ofNat 32 (fieldAt (s.sec.meas.getD ((o - 0x100) / 0x30) []) ((o - 0x100) % 0x30) 4))
    else none
  | .cp => if o = 0 then some (pwrStatus s) else none
  | .hb =>
    if o = 0x100 then some (BitVec.ofNat 32 s.hb.unitsTotal)
    else if o = 0x104 then some (BitVec.ofNat 32 (s.hb.unitsTotal - unitsUsed s))
    else if o = 0x108 then some (BitVec.ofNat 32 s.hb.shards.length)
    else none
  | .pt =>
    if o = 8 then some (BitVec.ofNat 32 ((portOf s i).cause.toNat * 16 + portCode (portOf s i).state))
    else if o = 0xC then
      some (BitVec.ofNat 32 (b01 (runsX4 (portOf s i)) * 2 ^ 27 + (portOf s i).lanesFailed.toNat * 2 ^ 16 + (portOf s i).active.toNat))
    else none
  | .xb => if o = 0x108 then some (BitVec.ofNat 32 (planeCells s i)) else none
  | .ep =>
    if o = 0xB1C then some (BitVec.ofNat 32 (residentCount s i))
    else if o = 0xC00 then some (BitVec.ofNat 32 (ledgerUsed s i))
    else none
  | .ari => none
  | .mem => none

end Sys2Proof.Machine
end

