-- ==== Sys2Proof/Machine/Operands.lean ====
section
/-!
DEFINITION. The layouts that commands carry: the descriptor header (R175), the operand forms (R203, R204), queue table
entries (R169), context descriptors (R190), region entries (R101), and the ordering flags legal on each command (R142).
-/
namespace Sys2Proof.Machine

open Sys2Proof

/-! ## The descriptor header (R175) -/

/-- The header of a descriptor, field by field; `clean` says its reserved bits are zero. -/
structure DescHdr where
  opcode    : Nat
  rel       : Bool
  relScope  : Nat
  acq       : Bool
  acqScope  : Nat
  vol       : Bool
  waitEn    : Bool
  waitAcq   : Bool
  waitScope : Nat
  sigEn     : Bool
  pennant   : Bool
  waitCtr   : Nat
  sigCtr    : Nat
  waitValue : Nat
  sigAdd    : Nat
  userTag   : Nat
  clean     : Bool
  deriving DecidableEq, Repr

/-- Bytes 0 to 23 of a descriptor. -/
def descHdr (d : Bytes) : DescHdr :=
  let w := fieldAt d 0 4
  let c := fieldAt d 4 4
  { opcode := bits w 7 0, rel := bit w 8, relScope := bits w 10 9, acq := bit w 11, acqScope := bits w 13 12,
    vol := bit w 14, waitEn := bit w 15, waitAcq := bit w 16, waitScope := bits w 18 17, sigEn := bit w 19,
    pennant := bit w 20, waitCtr := bits c 11 0, sigCtr := bits c 27 16, waitValue := fieldAt d 8 8,
    sigAdd := fieldAt d 16 4, userTag := fieldAt d 20 4,
    clean := decide (bits w 31 21 = 0) && decide (bits c 15 12 = 0) && decide (bits c 31 28 = 0) }

/-- The scope rules of R132 and R175: a scope is zero without its enabling bit, and never the reserved value. -/
def scopesOk (h : DescHdr) : Bool :=
  decide (h.relScope < 3) && decide (h.acqScope < 3) && decide (h.waitScope < 3) &&
  (h.rel || decide (h.relScope = 0)) && (h.acq || decide (h.acqScope = 0)) &&
  (h.waitAcq || decide (h.waitScope = 0)) && (h.waitEn || !h.waitAcq)

/-- Whether an atomic operation fetches (R212). -/
def fetches (aop : Nat) : Bool := decide (aop = 1 ∨ aop = 2 ∨ aop = 3 ∨ aop = 9)

/-- The ordering flags that a command may carry: RELEASE, ACQUIRE, VOLATILE (R142). -/
def flagsLegal (h : DescHdr) (d : Bytes) : Bool :=
  let aop := bits (fieldAt d 36 1) 3 0
  let relOk := decide (h.opcode = 0x01 ∨ h.opcode = 0x20 ∨ h.opcode = 0x10 ∨ h.opcode = 0x60)
  let acqOk := decide (h.opcode = 0x03 ∨ h.opcode = 0x30) || (decide (h.opcode = 0x10) && fetches aop)
  (!h.rel || relOk) && (!h.acq || acqOk) && (h.vol == decide (h.opcode = 0x03))

/-- The opcodes of R206 and R182. -/
def knownOpcode (o : Nat) : Bool :=
  decide (o ∈ [0x01, 0x02, 0x03, 0x10, 0x20, 0x21, 0x22, 0x30, 0x31, 0x40, 0x41, 0x60, 0x61, 0x62, 0x63, 0x64, 0x65, 0x66,
    0x67, 0x70, 0x71, 0x72, 0x73, 0x74, 0x75, 0x76, 0x77, 0xE0, 0xE1, 0xE2, 0xE4, 0xE5, 0xE6, 0xE7, 0xE8])

/-! ## Operand forms -/

/-- A local operand (R203). -/
structure LocalOp where
  addr   : Nat
  handle : Word
  clean  : Bool
  deriving DecidableEq, Repr

/-- The local operand at a byte of a descriptor. -/
def localOp (d : Bytes) (at_ : Nat) : LocalOp :=
  { addr := fieldAt d at_ 6, handle := BitVec.ofNat 32 (fieldAt d (at_ + 8) 4), clean := allZero (slice d (at_ + 6) 2) }

/-- Whether a local operand is all zero. -/
def LocalOp.zero (o : LocalOp) : Bool := decide (o.addr = 0) && decide (o.handle = 0) && o.clean

/-- A local operand in the form its context's mode asks for: HANDLE is zero in MIRROR. -/
def LocalOp.legal (o : LocalOp) (convert : Bool) : Bool := o.clean && (convert || decide (o.handle = 0))

/-- A remote operand (R204). -/
structure RemoteOp where
  rank   : Nat
  region : Word
  offset : Nat
  deriving DecidableEq, Repr

/-- The remote operand at a byte of a descriptor. -/
def remoteOp (d : Bytes) (at_ : Nat) : RemoteOp :=
  { rank := fieldAt d at_ 2, region := BitVec.ofNat 32 (fieldAt d (at_ + 2) 4), offset := fieldAt d (at_ + 6) 6 }

/-! ## Region handles and windows (R100) -/

def isWindow (r : Word) : Bool := r.getLsbD 31
def regionIndex (r : Word) : Nat := bits r.toNat 19 0
def regionGen (r : Word) : Nat := bits r.toNat 30 20
def windowNo (r : Word) : Nat := bits r.toNat 11 0
def windowClean (r : Word) : Bool := decide (bits r.toNat 30 12 = 0)

/-! ## Table entries -/

/-- A region or window entry (R101); `clean` says its reserved fields are zero. -/
structure RegionEntry where
  map      : Nat
  length   : Nat
  owner    : CtxId
  gen      : Nat
  pageSize : Nat
  byList   : Bool
  publicRd : Bool
  valid    : Bool
  clean    : Bool
  deriving DecidableEq, Repr

/-- The entry that 32 bytes spell. -/
def regionEntry (bs : Bytes) : RegionEntry :=
  let v := leNat bs
  { map := bits v 191 128, length := bits v 111 64, owner := BitVec.ofNat 20 (bits v 35 16), gen := bits v 15 5,
    pageSize := bits v 4 3, byList := bit v 2, publicRd := bit v 1, valid := bit v 0,
    clean := decide (bits v 255 192 = 0) && decide (bits v 127 112 = 0) && decide (bits v 63 36 = 0) }

/-- Page bytes of a page list's PAGE_SIZE (R101). -/
def pageBytes (code : Nat) : Nat := if code = 0 then 2 ^ 16 else if code = 1 then 2 ^ 21 else 2 ^ 30

/-- The queue table entry that 64 bytes spell (R169), and whether it is well formed for a queue of that number. -/
def queueEntry (bs : Bytes) : QueueEntry :=
  let v := leNat bs
  { vector := bits v 223 213, notify := bit v 212, ctx := BitVec.ofNat 20 (bits v 211 192), cls := BitVec.ofNat 3 (bits v 182 180),
    headWb := bits v 179 128, cplLog2 := bits v 120 116, cplBase := bits v 115 64, initEn := bit v 58, hostSpace := bit v 57,
    ringLog2 := bits v 56 52, ringBase := bits v 51 0 }

/-- The rules of R169 for an entry: reserved bits, alignments, ring sizes, and what a host queue or the spine role asks. -/
def queueEntryOk (bs : Bytes) (q : Nat) (spine : Bool) : Bool :=
  let v := leNat bs
  let e := queueEntry bs
  let host := decide (512 ≤ q)
  decide (bits v 511 224 = 0) && decide (bits v 191 183 = 0) && decide (bits v 127 121 = 0) && decide (bits v 63 59 = 0) &&
  decide (4 ≤ e.cplLog2) && decide (e.cplLog2 ≤ 16) && decide (4 ≤ e.ringLog2) && decide (e.ringLog2 ≤ 16) &&
  decide (e.headWb % 8 = 0) && decide (e.cplBase % 4096 = 0) && decide (e.ringBase % 4096 = 0) &&
  (!(host || spine) || e.hostSpace) && (host || !e.initEn) && (host || !spine) && (host || decide (e.ctx ≠ 0))

/-- The context descriptor that 64 bytes spell (R190), for a context that takes definition slot `slot`. -/
def contextOf (bs : Bytes) (slot : Nat) : CtxId × Context :=
  let v := leNat bs
  (BitVec.ofNat 20 (bits v 19 0),
   { blocks := BitVec.ofNat 32 (bits v 223 192), mirrorRoot := bits v 179 128, rankTbl := bits v 115 64,
     rankCount := bits v 59 43, counters := bits v 42 34, channels := bits v 33 27, weight := bits v 26 23, enc := bit v 22,
     hostTables := bit v 21, convert := bit v 20, slot := slot, teardown := false, quota := 0 })

/-- The rules of R190 for a context descriptor. -/
def contextOk (bs : Bytes) (v : Variant) (spine : Bool) : Bool :=
  let n := leNat bs
  let c := (contextOf bs 0).2
  decide (bits n 511 224 = 0) && decide (bits n 191 180 = 0) && decide (bits n 127 116 = 0) && decide (bits n 63 60 = 0) &&
  decide ((contextOf bs 0).1 ≠ 0) && decide (c.blocks ≠ 0) && (decide (v ≠ .dx96) || decide (bits n 223 208 = 0)) &&
  (if c.convert then decide (c.mirrorRoot = 0) else decide (c.mirrorRoot % 4096 = 0)) && decide (c.rankTbl % 256 = 0) &&
  decide (1 ≤ c.rankCount) && decide (c.rankCount ≤ 65536) && decide (c.counters ≤ 256) && decide (c.channels ≤ 64) &&
  decide (1 ≤ c.weight) && (!spine || c.hostTables)

/-- Whether the module serves in the spine role (R1). -/
def spineRole (s : State) : Bool := decide (s.role = 1)

/-- A context as defined at the module; the management context is not in the table. -/
def ctxOf (s : State) (c : CtxId) : Option Context := Tab.get? s.ctxs c

/-- Whether a context is in teardown. -/
def inTeardown (s : State) (c : CtxId) : Bool := match ctxOf s c with
  | none => false
  | some x => x.teardown

/-- Whether a context is defined at a block (R190). -/
def definedAt (s : State) (c : CtxId) (b : Nat) : Bool :=
  match ctxOf s c with
  | none => false
  | some x => x.blocks.getLsbD b

/-- What a context has at a block. -/
def atBlock (s : State) (c : CtxId) (b : Nat) : Option CtxAtBlock := Tab.get? s.ctxBlocks (b, c)

/-- Counters that a context may name (R178): the management context has none (R182). -/
def countersOf (s : State) (c : CtxId) : Nat := match ctxOf s c with
  | none => 0
  | some x => x.counters

/-- Step 1 of R176 that every descriptor shares: reserved header bits, scopes, flags and counters within the grant. -/
def headerOk (s : State) (c : CtxId) (d : Bytes) : Bool :=
  let h := descHdr d
  h.clean && scopesOk h && flagsLegal h d && (!h.waitEn || decide (h.waitCtr < countersOf s c)) &&
    (!h.sigEn || decide (h.sigCtr < countersOf s c))

end Sys2Proof.Machine
end

