-- ==== Sys2Proof/Machine/Xlate.lean ====
section
/-!
DEFINITION. Translation: table reads, the mirror walk (R109), page lists (R110), the region checks of R102, local
operands (R106, R118), the rank table (R99), and the caches of R111 that the lookups go through.
-/
namespace Sys2Proof.Machine

open Sys2Proof

/-! ## Table reads -/

/-- Whether a port is set as an attach port (R398). -/
def attachMode (s : State) (p : Nat) : Bool :=
  decide (2 * blockCount s.variant > p) && regBit s (ptBase p) 1 && !spineRole s

/-- Whether a port is UP. -/
def portUp (s : State) (p : Nat) : Bool := decide ((portOf s p).state = .up)

/-- The UP attach ports of a block (R20). -/
def attachPorts (s : State) (b : Nat) : List Nat := [2 * b, 2 * b + 1].filter (fun p => attachMode s p && portUp s p)

/-- A read of the memory of the accelerator of a block: with no attach port UP it takes the ABORT column (R431, R433). -/
def attachRead (s : State) (b a n : Nat) : Except MemFaultKind Bytes :=
  if (attachPorts s b).isEmpty then .error .abort
  else match memFaultAt s (accAddr b a) n with
    | some k => .error k
    | none => .ok (memRead s (accAddr b a) n)

/-- A table read by a block in one of the two table spaces. -/
def tableRead (s : State) (b : Nat) (host : Bool) (a n : Nat) : Except MemFaultKind Bytes :=
  if host then hostRead s a n else attachRead s b a n

/-! ## Walks -/

/-- What an access needs of a page. -/
structure Access where
  rd : Bool
  wr : Bool
  deriving DecidableEq, Repr

def accRead : Access := { rd := true, wr := false }
def accWrite : Access := { rd := false, wr := true }
def accBoth : Access := { rd := true, wr := true }

/-- The fault kinds of R119. -/
inductive FaultKind where
  | notPresent | access | badEntry | tableRead | region | remote
  deriving DecidableEq, Repr

def FaultKind.code : FaultKind → Nat
  | .notPresent => 0
  | .access => 1
  | .badEntry => 2
  | .tableRead => 3
  | .region => 4
  | .remote => 5

/-- Index bits and page size of a mirror level (R107). -/
def levelIndex (level va : Nat) : Nat := if level = 0 then bits va 20 16 else bits va (9 * level + 20) (9 * level + 12)
def levelPage (level : Nat) : Nat := if level = 2 then 2 ^ 30 else if level = 1 then 2 ^ 21 else 2 ^ 16

/-! ## What the caches hold (R111, R112)

A lookup that finds a cached entry which still equals its table in memory uses it. Where the driver has changed the table
and the entry has not been invalidated, the block may use either (R120): a free value decides. -/

/-- What looking tables up comes to: the answer, the entries that the caches take, the pages used, the pages that the
translation cache missed, and the reads of memory that failed, each by its model address and its length. -/
structure Look (α : Type) where
  out    : α
  fill   : List (CacheTag × Bytes)
  pages  : List CacheTag
  missed : List CacheTag
  failed : List (Nat × Nat) := []

/-- A lookup that ends at a read of memory that failed. -/
def lookLost {ε α : Type} (e : ε) (l : List (Nat × Nat)) : Look (Except ε α) :=
  { out := .error e, fill := [], pages := [], missed := [], failed := l }

/-- The read of memory that a failed table read was: its model address and its length. -/
def tableFailed (b : Nat) (host : Bool) (a n : Nat) : List (Nat × Nat) := [(if host then hostAddr a else accAddr b a, n)]

/-- An answer that took no table. -/
def lookPure {α : Type} (a : α) : Look α := { out := a, fill := [], pages := [], missed := [] }

/-- A lookup followed by another where it succeeded. -/
def lookThen {ε α β : Type} (l : Look (Except ε α)) (f : α → Look (Except ε β)) : Look (Except ε β) := match l.out with
  | .error e => { out := .error e, fill := l.fill, pages := l.pages, missed := l.missed, failed := l.failed }
  | .ok a =>
    let m := f a
    { out := m.out, fill := l.fill ++ m.fill, pages := l.pages ++ m.pages, missed := l.missed ++ m.missed, failed := l.failed ++ m.failed }

/-- A lookup with its failures renamed. -/
def lookFail {ε δ α : Type} (l : Look (Except ε α)) (f : ε → δ) : Look (Except δ α) :=
  { out := (match l.out with
      | .error e => .error (f e)
      | .ok a => .ok a), fill := l.fill, pages := l.pages, missed := l.missed, failed := l.failed }

/-- The number of a kind of cached entry, as an argument of the free value of R120. -/
def kindNo : CacheKind → Nat
  | .leaf => 0
  | .node => 1
  | .page => 2
  | .entry => 3
  | .rank => 4

/-- The cached entry of a block that a test of its tag finds. -/
def cachedAt (s : State) (b : Nat) (mine : CacheTag → Bool) : Option CachedEntry :=
  s.tables.find? (fun e => decide (e.block = b) && mine e.tag)

/-- Whether a lookup uses a cached entry that no longer equals its table (R120). -/
def usesStale (s : State) (b : Nat) (t : CacheTag) : Bool := Config.useCached s.lookups b (kindNo t.kind) t.key

/-- A table entry read through the caches, and whether it came from memory. -/
def cachedRead (s : State) (b : Nat) (host : Bool) (a n : Nat) (t : CacheTag) : Except MemFaultKind Bytes × Bool :=
  let m := tableRead s b host a n
  match cachedAt s b (fun x => decide (x = t)) with
  | none => (m, true)
  | some e =>
    let same := match m with
      | .ok bs => decide (bs = e.bytes)
      | .error _ => false
    if same then (m, false) else if usesStale s b t then (.ok e.bytes, false) else (m, true)

/-- The virtual addresses that an entry of a mirror level covers (R107). -/
def levelCover (level : Nat) : Nat :=
  if level = 3 then 2 ^ 39 else if level = 2 then 2 ^ 30 else if level = 1 then 2 ^ 21 else 2 ^ 16

/-- The tags of a non-leaf mirror entry, a leaf, a page-list entry, a region or window entry, and a rank table entry. -/
def nodeTag (ctx : CtxId) (level va : Nat) : CacheTag :=
  { kind := .node, ctx := ctx, via := none, key := va / levelCover level * levelCover level, size := levelCover level }
def leafTag (ctx : CtxId) (via : Option Word) (va size : Nat) : CacheTag :=
  { kind := .leaf, ctx := ctx, via := via, key := va / size * size, size := size }
def pageTag (ctx : CtxId) (region : Word) (offset size : Nat) : CacheTag :=
  { kind := .page, ctx := ctx, via := some region, key := offset / size * size, size := size }
def entryTag (region : Word) : CacheTag := { kind := .entry, ctx := 0, via := some region, key := 0, size := 0 }
def rankTag (ctx : CtxId) (rank : Nat) : CacheTag := { kind := .rank, ctx := ctx, via := none, key := rank, size := 1 }

/-- Whether a page that a tag names lies over an address of a context's mirror, for one kind of operand. -/
def coversLeaf (ctx : CtxId) (via : Option Word) (va : Nat) (t : CacheTag) : Bool :=
  decide (t.kind = .leaf) && decide (t.ctx = ctx) && decide (t.via = via) && decide (t.key ≤ va) && decide (va < t.key + t.size)

/-- The mirror walk of R109 from a table on, through the levels that remain: the page size and the leaf that it ends at. -/
def walkFrom (s : State) (b : Nat) (ctx : CtxId) (host : Bool) (va : Nat) : List Nat → Nat → Look (Except FaultKind (Nat × Nat))
  | [], _ => lookPure (.error .badEntry)
  | level :: rest, table =>
    let r := cachedRead s b host (table + levelIndex level va * 8) 8 (nodeTag ctx level va)
    match r.1 with
    | .error _ => lookLost .tableRead (tableFailed b host (table + levelIndex level va * 8) 8)
    | .ok bs =>
      let e := leNat bs
      if !bit e 0 then lookPure (.error .notPresent)
      else if bits e 55 52 ≠ 0 ∨ bits e 7 4 ≠ 0 then lookPure (.error .badEntry)
      else if !bit e 1 then
        if level = 0 then lookPure (.error .badEntry)
        else if bit e 2 ∨ bit e 3 then lookPure (.error .badEntry)
        else
          let m := walkFrom s b ctx host va rest (bits e 51 8 * 256)
          { out := m.out, fill := if r.2 then (nodeTag ctx level va, bs) :: m.fill else m.fill, pages := m.pages, missed := m.missed,
            failed := m.failed }
      else if level = 3 then lookPure (.error .badEntry)
      else if bits e 51 8 * 256 % levelPage level ≠ 0 then lookPure (.error .badEntry)
      else lookPure (.ok (levelPage level, e))

/-- The address that a leaf of a page size gives, where it grants the access (R109). -/
def leafAccess (size e va : Nat) (acc : Access) : Except FaultKind Nat :=
  if acc.rd ∧ !bit e 2 then .error .access
  else if acc.wr ∧ !bit e 3 then .error .access
  else .ok (bits e 51 8 * 256 + va % size)

/-- Whether a lookup of a leaf may be answered by a cached leaf: it equals what the walk finds, or the free value of R120
lets the block go on with it. -/
def keepsLeaf (s : State) (b : Nat) (e : CachedEntry) (w : Except FaultKind (Nat × Nat)) : Bool :=
  (match w with
   | .ok (size, v) => decide (size = e.tag.size) && decide (toLe 8 v = e.bytes)
   | .error _ => false) || usesStale s b e.tag

/-- A leaf that the translation cache did not answer: the walk's result, which the caches take where it is no fault. -/
def walkMiss (ctx : CtxId) (via : Option Word) (va : Nat) (acc : Access) (w : Look (Except FaultKind (Nat × Nat))) :
    Look (Except FaultKind Nat) := match w.out with
  | .error k => { out := .error k, fill := w.fill, pages := [], missed := [leafTag ctx via va 65536], failed := w.failed }
  | .ok (size, v) =>
    let t := leafTag ctx via va size
    let r := leafAccess size v va acc
    { out := r, fill := match r with
        | .ok _ => w.fill ++ [(t, toLe 8 v)]
        | .error _ => w.fill
      , pages := [t], missed := [t] }

/-- The translation of an address of a context's mirror (R109, R111), for local operands or through a region handle. -/
def mirrorLook (s : State) (b : Nat) (ctx : CtxId) (c : Context) (via : Option Word) (va : Nat) (acc : Access) :
    Look (Except FaultKind Nat) :=
  if va / 2 ^ 48 ≠ 0 then lookPure (.error .notPresent)
  else
    let w := walkFrom s b ctx c.hostTables va [3, 2, 1, 0] c.mirrorRoot
    match cachedAt s b (coversLeaf ctx via va) with
    | none => walkMiss ctx via va acc w
    | some e =>
      if keepsLeaf s b e w.out then
        { out := leafAccess e.tag.size (leNat e.bytes) va acc, fill := [], pages := [e.tag], missed := [] }
      else walkMiss ctx via va acc w

/-- The mirror walk of R109. -/
def walk (s : State) (b : Nat) (ctx : CtxId) (c : Context) (via : Option Word) (va : Nat) (acc : Access) : Except FaultKind Nat :=
  (mirrorLook s b ctx c via va acc).out

/-- The page-list lookup of R110 for a byte of a region or window. An entry with VALID 0 maps no page whatever its reserved bits hold: the
spec does not order the two tests (DESIGN CHOICE, log 181). -/
def listLook (s : State) (b : Nat) (host : Bool) (region : Word) (e : RegionEntry) (offset : Nat) (acc : Access) :
    Look (Except FaultKind Nat) :=
  let size := pageBytes e.pageSize
  let t := pageTag e.owner region offset size
  let r := cachedRead s b host (e.map + offset / size * 8) 8 t
  let missed := if r.2 then [t] else []
  let fault := fun k => { out := .error k, fill := [], pages := [], missed := missed : Look (Except FaultKind Nat) }
  match r.1 with
  | .error _ => { fault .tableRead with failed := tableFailed b host (e.map + offset / size * 8) 8 }
  | .ok bs =>
    let p := leNat bs
    let page := bits p 51 16 * 65536
    if !bit p 0 then fault .notPresent
    else if bits p 63 52 ≠ 0 ∨ bits p 15 2 ≠ 0 ∨ page % size ≠ 0 then fault .badEntry
    else if acc.wr ∧ !bit p 1 then fault .access
    else { out := .ok (page + offset % size), fill := if r.2 then [(t, bs)] else [], pages := [t], missed := missed }

/-! ## Regions (R102) -/

/-- Why a region check refuses an access: at steps 1, 2 and 4; an entry that could not be read (R431); at step 3, a malformed entry; at
step 5; at step 6. -/
inductive RegionFail where
  | noRegion
  | unread
  | malformed
  | owner
  | page (k : FaultKind)
  deriving DecidableEq, Repr

/-- The table of a block that a region handle or a window selects its entry from: space and address of the entry;
none where step 1 of R102 fails. -/
def entryPlace (s : State) (b : Nat) (region : Word) : Option (Bool × Nat) :=
  let e := epBase b
  if isWindow region then
    if regBit s (e + 0x90C) 1 && windowClean region then
      some (regBit s (e + 0x90C) 0, pairBase s (e + 0x90C) (e + 0x910) 8 + windowNo region * 32)
    else none
  else if regBit s (e + 0x904) 6 && decide (regionIndex region < 2 ^ regField s (e + 0x904) 5 1) then
    some (regBit s (e + 0x904) 0, pairBase s (e + 0x904) (e + 0x908) 8 + regionIndex region * 32)
  else none

/-- Step 3 of R102: the entry is well formed. A LENGTH of 0, which R101 does not allow and step 3 does not name, breaks it here too
(DESIGN CHOICE, log 180). -/
def entryOk (s : State) (b : Nat) (window : Bool) (e : RegionEntry) : Bool :=
  e.clean && decide (e.pageSize ≠ 3) && decide (1 ≤ e.length) &&
  (if e.byList then decide (e.map % 256 = 0)
   else !window && decide (e.map % 65536 = 0) && decide (e.pageSize = 0) && definedAt s e.owner b &&
     (match ctxOf s e.owner with
      | none => false
      | some c => !c.convert))

/-- An entry with the owner that its block holds, where that is not the one in memory: the write-back of a transfer failed (R104,
R154). -/
def heldOwner (s : State) (b : Nat) (region : Word) (e : RegionEntry) : RegionEntry := match Tab.get? s.owners (b, region) with
  | none => e
  | some c => { e with owner := c }

/-- Steps 1 to 3 of R102 at a block: the entry of a handle or a window. -/
def entryLook (s : State) (b : Nat) (region : Word) : Look (Except RegionFail RegionEntry) :=
  match entryPlace s b region with
  | none => lookPure (.error .noRegion)
  | some (host, a) =>
    let r := cachedRead s b host a 32 (entryTag region)
    match r.1 with
    | .error _ => lookLost .unread (tableFailed b host a 32)
    | .ok bs =>
      let e := heldOwner s b region (regionEntry bs)
      let gen := if isWindow region then 0 else regionGen region
      if !e.valid ∨ e.gen ≠ gen then lookPure (.error .noRegion)
      else if !entryOk s b (isWindow region) e then lookPure (.error .malformed)
      else { out := .ok e, fill := if r.2 then [(entryTag region, bs)] else [], pages := [], missed := [] }

/-- The owner that a block holds for an entry that is valid no longer: it goes with the entry (R104). -/
def forgetOwner (s : State) (b : Nat) (region : Word) : State := match (entryLook s b region).out with
  | .error .noRegion => { s with owners := Tab.del s.owners (b, region) }
  | _ => s

/-- Step 6 of R102: the page that a byte of a region lies in. -/
def regionPage (s : State) (b : Nat) (region : Word) (e : RegionEntry) (offset : Nat) (acc : Access) : Look (Except FaultKind Nat) :=
  if e.byList then listLook s b (match entryPlace s b region with
      | none => false
      | some p => p.1) region e offset acc
  else match ctxOf s e.owner with
    | none => lookPure (.error .badEntry)
    | some c => mirrorLook s b e.owner c (some region) (e.map + offset) acc

/-- Steps 1 to 6 of R102 at a block for `n` bytes at an offset; `plainRead` says the packet is a READ or VREAD. The
address is one of attach space, or of host memory in the spine role (R621). -/
def regionLook (s : State) (b : Nat) (ctx : CtxId) (region : Word) (offset n : Nat) (acc : Access) (plainRead : Bool) :
    Look (Except RegionFail Nat) :=
  lookThen (entryLook s b region) (fun e =>
    if offset + n > e.length then lookPure (.error .noRegion)
    else if e.owner ≠ ctx ∧ !(plainRead && e.publicRd) then lookPure (.error .owner)
    else lookFail (regionPage s b region e offset acc) .page)

/-- What the checks of R102 answer. -/
def regionCheck (s : State) (b : Nat) (ctx : CtxId) (region : Word) (offset n : Nat) (acc : Access) (plainRead : Bool) :
    Except RegionFail Nat := (regionLook s b ctx region offset n acc plainRead).out

/-- The model address of an address that a block's translation yields (R621). -/
def yielded (s : State) (b a : Nat) : Nat := if spineRole s then hostAddr a else accAddr b a

/-! ## Local operands (R106, R118) -/

/-- Why a local access fails: the status, the fault word's KIND and ADDRESS, and the context and handle whose region entry is
malformed where one is. -/
structure LocalFail where
  status : Byte
  kind   : FaultKind
  addr   : Nat
  entry  : Option (CtxId × Word) := none
  deriving DecidableEq, Repr

/-- The fault word of R118. -/
def faultWord (operand : Nat) (kind : FaultKind) (addr : Nat) : DWord :=
  BitVec.ofNat 64 (operand % 2 * 2 ^ 63 + kind.code * 2 ^ 60 + addr % 2 ^ 48)

/-- How a failed check of a local handle ends a command, at the region offset of the granule (R106, R118, R431). -/
def convertFail (ctx : CtxId) (region : Word) (a : Nat) : RegionFail → LocalFail
  | .owner => { status := stOwnerMismatch, kind := .region, addr := a / 65536 * 65536 }
  | .page k => { status := stFaultUnmapped, kind := k, addr := a / 65536 * 65536 }
  | .noRegion => { status := stFaultUnmapped, kind := .region, addr := a / 65536 * 65536 }
  | .unread => { status := stFaultUnmapped, kind := .tableRead, addr := a / 65536 * 65536 }
  | .malformed => { status := stFaultUnmapped, kind := .region, addr := a / 65536 * 65536, entry := some (ctx, region) }

/-- The translation of one byte run that stays inside a 64 KiB granule. -/
def granuleLook (s : State) (b : Nat) (ctx : CtxId) (c : Context) (o : LocalOp) (at_ n : Nat) (acc : Access) :
    Look (Except LocalFail Nat) :=
  let a := o.addr + at_
  if c.convert then lookFail (regionLook s b ctx o.handle a n acc (!acc.wr)) (convertFail ctx o.handle a)
  else lookFail (mirrorLook s b ctx c none a acc) (fun k => { status := stFaultUnmapped, kind := k, addr := a / 65536 * 65536 })

/-- The runs of a local range, each with the address it translates to; `fuel` bounds the number of granules. -/
def localRuns (s : State) (b : Nat) (ctx : CtxId) (c : Context) (o : LocalOp) (acc : Access) :
    Nat → Nat → Nat → Look (Except LocalFail (List (Nat × Nat)))
  | 0, _, _ => lookPure (.ok [])
  | fuel + 1, at_, n =>
    if n = 0 then lookPure (.ok [])
    else
      let k := min n (65536 - (o.addr + at_) % 65536)
      lookThen (granuleLook s b ctx c o at_ k acc) (fun x =>
        lookThen (localRuns s b ctx c o acc fuel (at_ + k) (n - k)) (fun l => lookPure (.ok ((x, k) :: l))))

/-- Two lookups whose answers nobody asks for. -/
def lookBoth {α β : Type} (l : Look α) (m : Look β) : Look Unit :=
  { out := (), fill := l.fill ++ m.fill, pages := l.pages ++ m.pages, missed := l.missed ++ m.missed, failed := l.failed ++ m.failed }

/-- A local range walked ahead of need, past pages that fault (R115); `fuel` bounds the granules. -/
def aheadRuns (s : State) (b : Nat) (ctx : CtxId) (c : Context) (o : LocalOp) (acc : Access) : Nat → Nat → Nat → Look Unit
  | 0, _, _ => lookPure ()
  | fuel + 1, at_, n =>
    if n = 0 then lookPure ()
    else
      let k := min n (65536 - (o.addr + at_) % 65536)
      lookBoth (granuleLook s b ctx c o at_ k acc) (aheadRuns s b ctx c o acc fuel (at_ + k) (n - k))

/-- The translation of `n` bytes of a local operand from byte `at_` on. -/
def localLook (s : State) (b : Nat) (ctx : CtxId) (o : LocalOp) (at_ n : Nat) (acc : Access) :
    Look (Except LocalFail (List (Nat × Nat))) :=
  match ctxOf s ctx with
  | none => lookPure (.error { status := stContextGone, kind := .notPresent, addr := 0 })
  | some c => localRuns s b ctx c o acc (n / 65536 + 2) at_ n

/-- What the translation of a local range answers. -/
def localXlate (s : State) (b : Nat) (ctx : CtxId) (o : LocalOp) (at_ n : Nat) (acc : Access) :
    Except LocalFail (List (Nat × Nat)) := (localLook s b ctx o at_ n acc).out

/-- How a failed access to local data ends a command, at an operand's address (R118, R431). -/
def localDataFail (va : Nat) : MemFaultKind → LocalFail
  | .unmapped => { status := stFaultUnmapped, kind := .access, addr := va / 65536 * 65536 }
  | .poison => { status := stCheckFailed, kind := .access, addr := 0 }
  | .abort => { status := stTimeout, kind := .access, addr := 0 }
  | .silent => { status := stTimeout, kind := .access, addr := 0 }

/-- A read of host memory as the data of a command that context 0 issued. -/
def hostData (s : State) (a n : Nat) : Except LocalFail Bytes := match hostRead s a n with
  | .error k => .error (localDataFail (a + memFaultLow s (hostAddr a) n - hostAddr a) k)
  | .ok bs => .ok bs

/-- A read of the memory that a block's translations reach. -/
def yieldedRead (s : State) (b a n : Nat) : Except MemFaultKind Bytes :=
  if spineRole s then hostRead s a n else attachRead s b a n

/-- The bytes of translated runs; `va` is the operand's address of the first. -/
def readRuns (s : State) (b : Nat) : Nat → List (Nat × Nat) → Except LocalFail Bytes
  | _, [] => .ok []
  | va, (a, n) :: l =>
    match yieldedRead s b a n with
    | .error k => .error (localDataFail va k)
    | .ok bs =>
      match readRuns s b (va + n) l with
      | .error e => .error e
      | .ok r => .ok (bs ++ r)

/-- The first of some runs, in host memory or in a block's accelerator, whose read fails: its model address and its length. -/
def failedRun (s : State) (b : Nat) (host : Bool) (l : List (Nat × Nat)) : List (Nat × Nat) :=
  ((l.map (fun r => (if host then hostAddr r.1 else accAddr b r.1, r.2))).find? (fun r => (memFaultAt s r.1 r.2).isSome)).toList

/-- `n` bytes of a local operand from byte `at_` on, read through the caches. -/
def readLook (s : State) (b : Nat) (ctx : CtxId) (o : LocalOp) (at_ n : Nat) : Look (Except LocalFail Bytes) :=
  lookThen (localLook s b ctx o at_ n accRead) (fun l => { lookPure (readRuns s b (o.addr + at_) l) with failed := failedRun s b (spineRole s) l })

/-- The bytes that such a read answers. -/
def localRead (s : State) (b : Nat) (ctx : CtxId) (o : LocalOp) (at_ n : Nat) : Except LocalFail Bytes :=
  (readLook s b ctx o at_ n).out

/-- The bytes of an operand from its start on: host memory from context 0, else a local operand. -/
def operandLook (s : State) (c : Cmd) (o : LocalOp) (n : Nat) : Look (Except LocalFail Bytes) :=
  if c.ctx = 0 then { lookPure (hostData s o.addr n) with failed := failedRun s c.block true [(o.addr, n)] } else readLook s c.block c.ctx o 0 n

/-! ## Counting faults (R119, R129, R130) -/

def countXlateFault (s : State) (b : Nat) : State := countEvent s (epBase b + 0x91C) (epBase b + 0x914) 0
def countRegionRefuse (s : State) (b : Nat) : State := countEvent s (epBase b + 0x920) (epBase b + 0x914) 1
def countBadEntry (s : State) (b : Nat) : State := countEvent s (epBase b + 0x924) (epBase b + 0x914) 2
def countXlateMiss (s : State) (b : Nat) : State := bump s (epBase b + 0x918)

/-- A malformed region or window entry counted and recorded, with the context and the fabric ID of the access and the code of its answer
(R102, step 3, R585). -/
def logEntry (s : State) (b : Nat) (ctx : CtxId) (region : Word) (src : Fid) (code : Byte) : State :=
  let w := isWindow region
  logEvent (countBadEntry s b) .table (ordEp (epDie s b))
    (toLe 2 b ++ [BitVec.ofNat 8 (b01 w), code] ++ toLe 3 ctx.toNat ++ [0] ++
      toLe 4 (if w then windowNo region else regionIndex region) ++ toLe 2 src.toNat) 102

/-- What a local fault counts: one local fault, and the malformed entry where there was one; a region entry is recorded as one that a
packet meets, with the block's own fabric ID and no NAK code, for none is sent (R102, R106, log 189). -/
def countLocalFail (s : State) (b : Nat) (e : LocalFail) : State :=
  if e.status = stFaultUnmapped then
    let s := countXlateFault s b
    match e.entry with
    | some (ctx, region) => logEntry s b ctx region ((blockFid s b).getD 0) 0
    | none => if e.kind = .badEntry then countBadEntry s b else s
  else s

/-! ## Ranks (R99) -/

/-- How a rank resolves: to a fabric ID, or to the status, KIND and whether a malformed entry counts. -/
inductive RankFail where
  | protocol
  | destLost
  | fault (k : FaultKind)
  deriving DecidableEq, Repr

/-- The resolution of a rank through a context's rank table. -/
def rankLook (s : State) (b : Nat) (id : CtxId) (c : Context) (rank : Nat) : Look (Except RankFail Fid) :=
  if c.rankCount ≤ rank then lookPure (.error .protocol)
  else
    let r := cachedRead s b c.hostTables (c.rankTbl + 4 * rank) 4 (rankTag id rank)
    match r.1 with
    | .error _ => lookLost (.fault .tableRead) (tableFailed b c.hostTables (c.rankTbl + 4 * rank) 4)
    | .ok bs =>
      let e := leNat bs
      if bits e 31 17 ≠ 0 then lookPure (.error (.fault .badEntry))
      else if !bit e 16 then lookPure (.error .destLost)
      else { out := .ok (BitVec.ofNat 16 (bits e 15 0)), fill := if r.2 then [(rankTag id rank, bs)] else [], pages := [], missed := [] }

/-- What the resolution of a rank answers. -/
def rankOf (s : State) (b : Nat) (id : CtxId) (c : Context) (rank : Nat) : Except RankFail Fid := (rankLook s b id c rank).out

/-! ## Translations held by transfers (R113, R123) -/

/-- Whether bytes of a held translation, from byte `at_` of the operand on, are among those of a range. -/
def heldMeets (h : HeldTile) (first n : Nat) : Bool := h.runs.any (fun r => decide (r.1 < first + n) && decide (first < r.1 + r.2.2))

/-- Whether a request of a command still has bytes to bring to a held range or will have, or their write waits for its completion. -/
def heldBusy (s : State) (id : Nat) (h : HeldTile) : Bool :=
  let brings := fun (k : ReqKind) => match k with
    | .read (some d) _ n _ => heldMeets h d n
    | .atomic _ _ (some _) => true
    | _ => false
  h.waits || s.reqs.any (fun r => decide (r.cmd = some id) && brings r.kind) ||
  s.stalled.any (fun q => decide (q.cmd = some id) && brings q.kind) ||
  s.attReqs.any (fun r => match r.use with
    | .localWrite c va => decide (c = id) && heldMeets h (va - h.base) r.len
    | .result c _ va => decide (c = id) && heldMeets h (va - h.base) r.len
    | _ => false)

/-- The pages that the started transfers of a block hold in its translation cache. -/
def heldPages (s : State) (b : Nat) : List CacheTag :=
  ((s.cmds.filter (fun c => decide (c.block = b))).flatMap (fun c => (c.held.filter (heldBusy s c.id)).flatMap (·.pages))).eraseDups

/-- The translation of a byte of an operand that held translations give, and the bytes that go with it. -/
def heldFind (hs : List HeldTile) (at_ : Nat) : Option (Nat × Nat) :=
  (hs.flatMap (·.runs)).findSome? (fun r =>
    if r.1 ≤ at_ ∧ at_ < r.1 + r.2.2 then some (r.2.1 + (at_ - r.1), r.1 + r.2.2 - at_) else none)

/-- The held translation of `n` bytes of an operand from byte `at_` on, where it covers them. -/
def heldRuns (hs : List HeldTile) : Nat → Nat → Nat → Option (List (Nat × Nat))
  | 0, _, n => if n = 0 then some [] else none
  | fuel + 1, at_, n =>
    if n = 0 then some []
    else (heldFind hs at_).bind (fun r => (heldRuns hs fuel (at_ + min n r.2) (n - min n r.2)).map ((r.1, min n r.2) :: ·))

/-- Runs with the byte of the operand at which each starts. -/
def placeRuns : Nat → List (Nat × Nat) → List (Nat × Nat × Nat)
  | _, [] => []
  | at_, (a, n) :: l => (at_, a, n) :: placeRuns (at_ + n) l

/-! ## Filling the caches (R111, R112, R130) -/

/-- Whether two kinds share one of the caches of R111, and the entries of the cache of a kind. -/
def sharesCache (x y : CacheKind) : Bool := match x, y with
  | .leaf, .leaf => true
  | .leaf, .page => true
  | .page, .leaf => true
  | .page, .page => true
  | .node, .node => true
  | .entry, .entry => true
  | .rank, .rank => true
  | _, _ => false
def cacheSize : CacheKind → Nat
  | .leaf => 32768
  | .page => 32768
  | .node => 512
  | .entry => 8192
  | .rank => 16384

/-- Whether two tags cannot stand beside each other: one kind of one context and operand, over a common range. -/
def sameSlot (x y : CacheTag) : Bool :=
  decide (x.kind = y.kind) && decide (x.ctx = y.ctx) && decide (x.via = y.via) && (decide (x.size = y.size) || decide (x.kind ≠ .node)) &&
  decide (x.key < y.key + max 1 y.size) && decide (y.key < x.key + max 1 x.size)

/-- Whether a block keeps an entry: one tagged by a context only while that is resident there (R112, log 149). -/
def keepsTag (s : State) (b : Nat) (t : CacheTag) : Bool := match t.kind with
  | .entry => true
  | _ => match atBlock s t.ctx b with
    | none => false
    | some x => x.resident

/-- An entry put into a block's caches in place of an older one of its tag. A full cache gives up an entry that no started
transfer holds: which one is a free value. -/
def putTable (s : State) (b : Nat) (l : List CachedEntry) (p : CacheTag × Bytes) : List CachedEntry :=
  if !keepsTag s b p.1 then l
  else
    let l := l.filter (fun e => !(decide (e.block = b) && sameSlot e.tag p.1))
    let mine := l.filter (fun e => decide (e.block = b) && sharesCache e.tag.kind p.1.kind)
    let e : CachedEntry := { block := b, tag := p.1, bytes := p.2 }
    if mine.length < cacheSize p.1.kind then l ++ [e]
    else
      let free := mine.filter (fun x => !(heldPages s b).contains x.tag)
      match free[Config.cacheVictim s.lookups l.length % max 1 free.length]? with
      | none => l
      | some v => l.filter (fun x => decide (x ≠ v)) ++ [e]

/-- Cached entries dropped. -/
def dropTables (s : State) (gone : CachedEntry → Bool) : State := { s with tables := s.tables.filter (fun e => !gone e) }

end Sys2Proof.Machine
end

