-- ==== Sys2Proof/Machine/Packets.lean ====
section
/-!
DEFINITION. Skadris packets: the header's bits (R70), types, opcodes and lengths (R72 to R74), the check value and
encryption (R75, R76), unit numbers (R77), generations (R85), and the building of packets and answers.
-/
namespace Sys2Proof.Machine

open Sys2Proof

/-! ## The header (R70) -/

/-- The 384 bits of a header, as a number. -/
def headerNat (h : Header) : Nat :=
  h.version.toNat + h.ptype.toNat * 2 ^ 4 + h.cls.toNat * 2 ^ 8 + h.colour.toNat * 2 ^ 11 + h.flags.toNat * 2 ^ 13 +
  h.dst.toNat * 2 ^ 20 + h.src.toNat * 2 ^ 36 + h.burgee.toNat * 2 ^ 52 + h.opcode.toNat * 2 ^ 76 +
  h.length.toNat * 2 ^ 84 + h.seq.toNat * 2 ^ 97 + h.tag.toNat * 2 ^ 129 + h.halyard.toNat * 2 ^ 145 +
  h.age.toNat * 2 ^ 157 + h.hops.toNat * 2 ^ 173 + h.hint.toNat * 2 ^ 179 + h.region.toNat * 2 ^ 187 +
  h.offset.toNat * 2 ^ 219 + h.cnonce.toNat * 2 ^ 267 + h.sgen.toNat * 2 ^ 327 + h.dgen.toNat * 2 ^ 331 +
  h.rsvd.toNat * 2 ^ 335

/-- The 48 bytes of a header. -/
def headerBytes (h : Header) : Bytes := toLe 48 (headerNat h)

/-- The header that 48 bytes spell. -/
def headerOf (bs : Bytes) : Header :=
  let n := leNat bs
  { version := BitVec.ofNat 4 (bits n 3 0), ptype := BitVec.ofNat 4 (bits n 7 4), cls := BitVec.ofNat 3 (bits n 10 8),
    colour := BitVec.ofNat 2 (bits n 12 11), flags := BitVec.ofNat 7 (bits n 19 13), dst := BitVec.ofNat 16 (bits n 35 20),
    src := BitVec.ofNat 16 (bits n 51 36), burgee := BitVec.ofNat 24 (bits n 75 52), opcode := BitVec.ofNat 8 (bits n 83 76),
    length := BitVec.ofNat 13 (bits n 96 84), seq := BitVec.ofNat 32 (bits n 128 97), tag := BitVec.ofNat 16 (bits n 144 129),
    halyard := BitVec.ofNat 12 (bits n 156 145), age := BitVec.ofNat 16 (bits n 172 157), hops := BitVec.ofNat 6 (bits n 178 173),
    hint := BitVec.ofNat 8 (bits n 186 179), region := BitVec.ofNat 32 (bits n 218 187), offset := BitVec.ofNat 48 (bits n 266 219),
    cnonce := BitVec.ofNat 60 (bits n 326 267), sgen := BitVec.ofNat 4 (bits n 330 327), dgen := BitVec.ofNat 4 (bits n 334 331),
    rsvd := BitVec.ofNat 49 (bits n 383 335) }

/-- The flags of R71, by bit. -/
def flagLast (h : Header) : Bool := h.flags.getLsbD 0
def flagEnc (h : Header) : Bool := h.flags.getLsbD 1
def flagResend (h : Header) : Bool := h.flags.getLsbD 2
def flagSpec (h : Header) : Bool := h.flags.getLsbD 3
def flagCombinable (h : Header) : Bool := h.flags.getLsbD 4
def flagHalyard (h : Header) : Bool := h.flags.getLsbD 5

/-- The seven flag bits. -/
def flagsOf (last enc resend spec combinable halyard : Bool) : BitVec 7 :=
  BitVec.ofNat 7 (b01 last + 2 * b01 enc + 4 * b01 resend + 8 * b01 spec + 16 * b01 combinable + 32 * b01 halyard)

/-- The context ID and the key epoch of a burgee. -/
def burgeeCtx (h : Header) : CtxId := BitVec.ofNat 20 (bits h.burgee.toNat 19 0)
def burgeeEpoch (h : Header) : BitVec 4 := BitVec.ofNat 4 (bits h.burgee.toNat 23 20)
def burgeeOf (c : CtxId) (e : BitVec 4) : BitVec 24 := BitVec.ofNat 24 (c.toNat + e.toNat * 2 ^ 20)

/-- The invariant header: COLOUR, AGE, HOPS and flag RESEND zero (R75). -/
def invariantHdr (h : Header) : Header :=
  { h with colour := 0, age := 0, hops := 0, flags := h.flags &&& 0x7B }

/-! ## Types and opcodes (R72, R73) -/

def tyOrdered : BitVec 4 := 0
def tyRead : BitVec 4 := 1
def tyResponse : BitVec 4 := 2
def tyAck : BitVec 4 := 3
def tyNak : BitVec 4 := 4
def tyColl : BitVec 4 := 5
def tyCollCtrl : BitVec 4 := 6
def tyMgmt : BitVec 4 := 7

/-- The operation, the operand width in bytes and the payload length of an atomic's opcode (R73). -/
def atomicOf (opcode : Byte) : Option (Nat × Nat × Nat) :=
  let o := opcode.toNat
  let op := o % 16
  if 0x20 ≤ o ∧ o ≤ 0x29 then some (op, 4, if op = 3 then 8 else 4)
  else if 0x30 ≤ o ∧ o ≤ 0x38 then some (op, 8, if op = 3 then 16 else 8)
  else if o = 0x42 then some (2, 16, 16)
  else if o = 0x43 then some (3, 16, 32)
  else none

/-- Whether a LENGTH is that of a PARTIAL of 1 to 220 elements (R274). -/
def partialLen (n : Nat) : Bool := let k := n * 2 / 37; decide (1 ≤ k) && decide (k ≤ 220) && decide (n = 18 * k + (k + 1) / 2)

/-- Whether a COLL opcode exists and agrees with LENGTH (R219, R272, R274). -/
def collLengthOk (o : Byte) (n : Nat) : Bool :=
  if o = 0x01 ∨ o = 0x03 then decide (1 ≤ n) && decide (n ≤ 4096)
  else if o = 0x02 then partialLen n
  else if o = 0x04 then decide (n = 83)
  else decide (o = 0x10) && decide (48 ≤ n) && decide (n ≤ 4096) && decide (n % 16 = 0)

/-- Whether an MGMT opcode exists and agrees with LENGTH (R86, R370, R451, R466, R489 to R493, R551). -/
def mgmtLengthOk (o : Byte) (n : Nat) : Bool :=
  if o = 0x10 ∨ o = 0x11 then decide (4 ≤ n) && decide (n % 2 = 0)
  else if o = 0x12 then decide (5 ≤ n) && decide (n % 3 = 2)
  else if o = 0x20 ∨ o = 0x21 then decide (1 ≤ n)
  else if o = 0x22 ∨ o = 0x23 then decide (n = 4)
  else if o = 0x31 then decide (24 ≤ n) && decide (n % 24 = 0)
  else if o = 0x40 then decide (n = 8)
  else decide (o = 0x30 ∨ o = 0x32 ∨ o = 0x33)

/-- Whether an opcode of a type exists and agrees with LENGTH (R73). What a COLL_CTRL payload holds is judged where it is read. -/
def lengthOk (h : Header) : Bool :=
  let n := h.length.toNat
  if h.ptype = tyOrdered then
    if h.opcode = 0x01 then decide (1 ≤ n) && decide (n ≤ 4096)
    else match atomicOf h.opcode with
      | none => false
      | some a => decide (n = a.2.2) && decide (h.offset.toNat % a.2.1 = 0)
  else if h.ptype = tyRead then decide (h.opcode = 0x01 ∨ h.opcode = 0x02) && decide (1 ≤ n) && decide (n ≤ 4096)
  else if h.ptype = tyResponse then decide (h.opcode = 0x01 ∨ h.opcode = 0x02) && decide (n ≤ 4096)
  else if h.ptype = tyAck then decide (h.opcode = 0x00) && decide (n = 0)
  else if h.ptype = tyNak then decide (n = 0)
  else if h.ptype = tyColl then collLengthOk h.opcode n
  else if h.ptype = tyCollCtrl then decide (1 ≤ h.opcode.toNat) && decide (h.opcode.toNat ≤ 0x11) && decide (n ≤ 4096)
  else decide (h.ptype = tyMgmt) && mgmtLengthOk h.opcode n && decide (n ≤ 4096)

/-- Payload bytes that follow the header: LENGTH, and none in a READ_REQ (R70). -/
def payloadLen (h : Header) : Nat := if h.ptype = tyRead then 0 else h.length.toNat

/-- Whether a context's packets are encrypted (R74); a context that is not defined encrypts nothing. -/
def ctxEnc (s : State) (c : CtxId) : Bool := match ctxOf s c with
  | none => false
  | some x => x.enc

/-- The tests of R74 that need no request to match: ENC is judged only where the context is defined. -/
def malformed (s : State) (p : Packet) : Bool :=
  let h := p.hdr
  !(decide (h.version = 1) && lengthOk h && decide (h.rsvd = 0) && !h.flags.getLsbD 6 &&
    decide (p.body.length = payloadLen h + 8 + 16 * b01 (flagEnc h)) &&
    ((ctxOf s (burgeeCtx h)).isNone || flagEnc h == ctxEnc s (burgeeCtx h)))

/-! ## Check value and encryption (R75, R76) -/

/-- The packet key of a context's epoch, while it is live (R459). -/
def packetKey (s : State) (c : CtxId) (e : BitVec 4) : Option Bytes :=
  (Tab.get? s.sec.keys c).bind (fun k => Tab.get? k.live e)

/-- The send epoch of a context; an unencrypted context builds under epoch 0 (R82, step 3). -/
def sendEpoch (s : State) (c : CtxId) : Option (BitVec 4) :=
  if ctxEnc s c then (Tab.get? s.sec.keys c).bind (·.send) else some 0

/-- Whether a packet is a COLL or COLL_CTRL packet. -/
def isCollType (h : Header) : Bool := decide (h.ptype = tyColl) || decide (h.ptype = tyCollCtrl)

/-- The IV of R76, laid out little-endian (log 14): under the CNONCE for a collective packet and what answers one. -/
def packetIvAs (coll : Bool) (h : Header) : Bytes :=
  let top := h.src.toNat * 2 ^ 80 + h.dst.toNat * 2 ^ 64 + h.ptype.toNat * 2 ^ 60
  toLe 12 (top + (if coll then h.cnonce.toNat
    else h.seq.toNat * 2 ^ 28 + h.tag.toNat * 2 ^ 12 + h.sgen.toNat * 2 ^ 8 + h.dgen.toNat * 2 ^ 4))

/-- The check value of a header and a payload (R75). -/
def packetCrc (h : Header) (payload : Bytes) : DWord := crc64 (headerBytes (invariantHdr h) ++ payload)

/-- A packet from its header and plaintext payload: the CRC, and with ENC the ciphertext and tag (R23). `coll` says which IV. -/
def sealAs (coll : Bool) (key : Bytes) (h : Header) (payload : Bytes) : Packet :=
  let plain := payload ++ toLe 8 (packetCrc h payload).toNat
  { hdr := h, body := if flagEnc h then gcmSeal key (packetIvAs coll h) (headerBytes (invariantHdr h)) plain else plain }

/-- A packet that answers nothing. -/
def sealPacket (key : Bytes) (h : Header) (payload : Bytes) : Packet := sealAs (isCollType h) key h payload

/-- What a destination finds in a packet's body (R24): the tag fails, the CRC fails, or the payload. What a reduction die adds
before it verifies is the payload all the same (R261). -/
inductive Opened where
  | tagFail (payload : Bytes)
  | crcFail (payload : Bytes)
  | ok (payload : Bytes)
  deriving DecidableEq, Repr

/-- The body of a packet under the key of its epoch. -/
def openAs (s : State) (coll : Bool) (p : Packet) : Opened :=
  let h := p.hdr
  let judge := fun (bs : Bytes) =>
    let payload := bs.take (payloadLen h)
    if bs.drop (payloadLen h) = toLe 8 (packetCrc h payload).toNat then Opened.ok payload else .crcFail payload
  if flagEnc h then
    match packetKey s (burgeeCtx h) (burgeeEpoch h) with
    | none => .tagFail []
    | some k => match gcmOpen k (packetIvAs coll h) (headerBytes (invariantHdr h)) p.body with
      | none => .tagFail ((gcmCtr (aesKeys k) (packetIvAs coll h) p.body).take (payloadLen h))
      | some bs => judge bs
  else judge p.body

/-- The body of a packet that answers nothing. -/
def openPacket (s : State) (p : Packet) : Opened := openAs s (isCollType p.hdr) p

/-! ## Units (R77) -/

/-- The sending unit numbers of a module's dies and blocks. -/
def unitAri (d : Nat) : Nat := d
def unitBlock (phys : Nat) : Nat := 0x20 + phys
def unitMem (d : Nat) : Nat := 0x50 + d
def unitMgmt (s : State) : Nat := 0x60 + s.host.owner % 2

/-- The unit number of block b: that of the physical block that serves it. -/
def unitOfBlock (s : State) (b : Nat) : Nat := unitBlock ((servedBy s b).getD b)

/-- Where a unit counts packet events: the EP, ARI or MEM block of R92 and R620. -/
def unitBase (s : State) (u : Nat) : Option Nat :=
  if u < 0x1A then some (ariBase u)
  else if 0x20 ≤ u ∧ u < 0x48 then
    ((List.range (blockCount s.variant)).find? (fun b => decide (servedBy s b = some (u - 0x20)))).map epBase
  else if 0x50 ≤ u ∧ u < 0x58 then some (memBase (u - 0x50))
  else none

/-- The packet events of R95, R96 and R620: the counter's place after CRC_FAIL_CNT, and the flag's bit. -/
inductive PktEvent where
  | crcFail | tagFail | malformed | burgeeDrop | ageDrop | dup | resend | timeout | stray | genDrop | seqWrap
  deriving DecidableEq, Repr

def PktEvent.place : PktEvent → Nat
  | .crcFail => 0
  | .tagFail => 1
  | .malformed => 2
  | .burgeeDrop => 3
  | .ageDrop => 4
  | .dup => 5
  | .resend => 6
  | .timeout => 7
  | .stray => 8
  | .genDrop => 9
  | .seqWrap => 10

def PktEvent.flag : PktEvent → Option Nat
  | .crcFail => some 0
  | .tagFail => some 1
  | .malformed => some 2
  | .burgeeDrop => some 3
  | .ageDrop => some 4
  | .dup => none
  | .resend => none
  | .timeout => some 5
  | .stray => some 6
  | .genDrop => some 8
  | .seqWrap => some 7

/-- A packet event counted at a unit; a management die holds no such registers. -/
def countPkt (s : State) (u : Nat) (e : PktEvent) : State :=
  match unitBase s u with
  | none => s
  | some base =>
    let s := bump s (base + 0x808 + 4 * e.place)
    match e.flag with
    | none => s
    | some i => setFlag s (base + 0x804) i

/-- A NO_REGION answer counted at a home (R102, R620). -/
def countRefuse (s : State) (u : Nat) : State :=
  match unitBase s u with
  | none => s
  | some base =>
    if 0x20 ≤ u ∧ u < 0x48 then countEvent s (base + 0x920) (base + 0x914) 1
    else countEvent s (base + 0x834) (base + 0x804) 9

/-! ## Generations and building (R85) -/

/-- The generation table's entry for a fabric ID. -/
def genOf (s : State) (f : Fid) : BitVec 4 := Tab.getD s.gens f 0

/-- The number of packets that a unit has built. -/
def builtBy (s : State) (u : Nat) : Nat := Tab.getD s.unitBuilt u 0

/-- One more packet built by a unit. -/
def countBuilt (s : State) (u : Nat) : State := { s with unitBuilt := Tab.put s.unitBuilt u (builtBy s u + 1) }

/-- A header with every field zero but VERSION. -/
def blankHdr : Header where
  version := 1
  ptype := 0
  cls := 0
  colour := 0
  flags := 0
  dst := 0
  src := 0
  burgee := 0
  opcode := 0
  length := 0
  seq := 0
  tag := 0
  halyard := 0
  age := 0
  hops := 0
  hint := 0
  region := 0
  offset := 0
  cnonce := 0
  sgen := 0
  dgen := 0
  rsvd := 0

/-! ### Rate limits (R371) -/

/-- The block number that serves as a unit. -/
def blockOfUnit (s : State) (u : Nat) : Option Nat :=
  if 0x20 ≤ u ∧ u < 0x48 then (List.range (blockCount s.variant)).find? (fun b => decide (servedBy s b = some (u - 0x20))) else none

/-- A block's limit for a fabric ID. -/
def limitOf (s : State) (b : Nat) (f : Fid) : Option RateLimit :=
  s.limits.find? (fun l => decide (l.block = b) && decide (l.fid = f))

/-- The limit of a unit for a fabric ID: end-point blocks alone keep limits. -/
def unitLimit (s : State) (u : Nat) (f : Fid) : Option RateLimit := (blockOfUnit s u).bind (fun b => limitOf s b f)

/-- Whether a limit delays a new packet now. -/
def delays (s : State) (l : RateLimit) : Bool := decide (s.now < l.freeAt)

/-- Cell-clock cycles for which `n` bytes take a share of the link, in 64ths: 200 GB/s is 1,000/13 bytes a cycle. -/
def limitCycles (n rate : Nat) : Nat := ceilDiv (n * 13 * 64) (1000 * max rate 1)

/-- A packet of `n` bytes taken from a unit's limit for a fabric ID. -/
def chargeLimit (s : State) (u : Nat) (f : Fid) (n : Nat) : State := match unitLimit s u f with
  | none => s
  | some l => { s with limits := s.limits.map (fun x =>
      if x.block = l.block ∧ x.fid = f then { x with freeAt := s.now + limitCycles n x.rate } else x) }

/-! ### Answers -/

/-- The key under which a unit answers a packet: that of its epoch, which a packet that passed step 3 of R82 before the epoch was retired
is still finished under (R462). -/
def answerKey (s : State) (c : CtxId) (e : BitVec 4) : Option Bytes := match packetKey s c e with
  | some k => some k
  | none => (Tab.get? s.sec.keys c).bind (fun k => Tab.get? k.finishing e)

/-- The answer header of a unit to a packet: SEQUENCE, TAG and CNONCE of the packet, its class, and the burgee it came
under (R81, R271, R362). The spec gives an answer no flag LAST, and the model sends none (log 162). -/
def answerHdr (s : State) (u : Nat) (q : Header) (ty : BitVec 4) (opcode : Byte) (len : Nat) : Header :=
  let enc := ctxEnc s (burgeeCtx q) && (answerKey s (burgeeCtx q) (burgeeEpoch q)).isSome
  let isColl := isCollType q
  { blankHdr with
    ptype := ty, cls := q.cls, flags := flagsOf false enc false false false false, dst := q.src, src := q.dst,
    burgee := q.burgee, opcode := opcode, length := BitVec.ofNat 13 len, seq := q.seq, tag := q.tag,
    hint := BitVec.ofNat 8 (builtBy s u), region := if isColl then q.region else 0,
    offset := if isColl then q.offset else 0, cnonce := q.cnonce, sgen := genOf s q.dst, dgen := genOf s q.src }

/-- An answer as a unit builds it. -/
def answerPacket (s : State) (u : Nat) (q : Header) (ty : BitVec 4) (opcode : Byte) (payload : Bytes) : Packet :=
  sealAs (isCollType q) ((answerKey s (burgeeCtx q) (burgeeEpoch q)).getD []) (answerHdr s u q ty opcode payload.length) payload

/-- Whether an answer of a unit to a fabric ID waits: the unit's limit delays it, or an earlier one waits (R371). -/
def answerWaits (s : State) (u : Nat) (f : Fid) : Bool := match unitLimit s u f with
  | none => false
  | some l => delays s l || s.answerWait.any (fun w => decide (w.unit = u) && decide (w.req.src = f))

/-- The unit that builds a packet under a key holds that key from then on: it fetches it from the security processor when it first needs
it (R438). -/
def fetchKey (s : State) (u : Nat) (h : Header) : State :=
  let x := (u, burgeeCtx h, burgeeEpoch h)
  if flagEnc h && !s.sec.unitKeys.contains x then { s with sec := { s.sec with unitKeys := s.sec.unitKeys ++ [x] } } else s

/-- The copies of keys that pass a test zeroised (R461). -/
def dropKeyCopies (s : State) (gone : Nat × CtxId × BitVec 4 → Bool) : State :=
  { s with sec := { s.sec with unitKeys := s.sec.unitKeys.filter (fun x => !gone x) } }

/-- An answer built and sent by a unit, or kept while a rate limit delays it: an answer is a new packet of its unit (R371; DEDUCED, log
183). -/
def sendAnswer (s : State) (u : Nat) (q : Header) (ty : BitVec 4) (opcode : Byte) (payload : Bytes) : State :=
  if answerWaits s u q.src then
    { s with answerWait := s.answerWait ++ [{ unit := u, req := q, ptype := ty, opcode := opcode, payload := payload }] }
  else
    let p := answerPacket s u q ty opcode payload
    emit (countBuilt (chargeLimit (fetchKey s u p.hdr) u q.src (48 + p.body.length)) u) (.packet u p)

def sendAck (s : State) (u : Nat) (q : Header) : State := sendAnswer s u q tyAck 0 []
def sendNak (s : State) (u : Nat) (q : Header) (code : Byte) : State := sendAnswer s u q tyNak code []
def sendResponse (s : State) (u : Nat) (q : Header) (opcode : Byte) (data : Bytes) : State :=
  sendAnswer s u q tyResponse opcode data

/-- NAK codes (R83). -/
def nakCrcFail : Byte := 0x01
def nakTagFail : Byte := 0x02
def nakBusy : Byte := 0x03
def nakMalformed : Byte := 0x04
def nakBadSequence : Byte := 0x05
def nakNoContext : Byte := 0x06
def nakNoRegion : Byte := 0x07
def nakOwnerMismatch : Byte := 0x08
def nakCreditOverrun : Byte := 0x09
def nakStaleGen : Byte := 0x0A

/-! ## The steps of a packet at a unit (R82) -/

/-- A malformed or out-of-window packet, in an event record against its SRC_FID (R619, log 30). -/
def logBadPacket (s : State) (h : Header) : State := logFault s 0 0 h.src.toNat 619

/-- Whether a packet's AGE exceeds the age limit (R80). -/
def tooOld (s : State) (h : Header) : Bool := decide (regField s (mgBase + 0x200) 15 0 < h.age.toNat)

/-- Whether the key epoch of a packet is dead, or its context in teardown (R82, step 3). -/
def burgeeDead (s : State) (h : Header) : Bool :=
  inTeardown s (burgeeCtx h) ||
  (if ctxEnc s (burgeeCtx h) then (packetKey s (burgeeCtx h) (burgeeEpoch h)).isNone else decide (burgeeEpoch h ≠ 0))

/-- A malformed packet refused by a unit, counted and recorded (R82, step 1, R619). -/
def refuseMalformed (s : State) (u : Nat) (h : Header) : State :=
  logBadPacket (countPkt (sendNak s u h nakMalformed) u .malformed) h

/-- How a packet fares at a unit in steps 1 to 5 of R82: it ends at a step, its burgee is dead, it fails its tag or its CRC
under a NAK code that is still to be sent, or its payload. -/
inductive Opening where
  | over (s : State)
  | dead (s : State)
  | bad (s : State) (code : Byte) (payload : Bytes)
  | ok (payload : Bytes)

/-- The age check of R80 and steps 1 to 3 of R82 for a header at a unit; `known` says that its context is defined there, and `bad` that
the packet is malformed. None where the header passes. -/
def headSteps (s : State) (u : Nat) (known bad : Bool) (h : Header) : Option Opening :=
  if tooOld s h then some (.over (countPkt s u .ageDrop))
  else if bad then some (.over (refuseMalformed s u h))
  else if !known then some (.over (sendNak s u h nakNoContext))
  else if h.dgen ≠ genOf s h.dst then some (.over (sendNak s u h nakStaleGen))
  else if h.sgen ≠ genOf s h.src then some (.over (countPkt s u .genDrop))
  else if burgeeDead s h then some (.dead (countPkt s u .burgeeDrop))
  else none

/-- The age check of R80 and steps 1 to 5 of R82 for a packet at a unit. -/
def openSteps (s : State) (u : Nat) (known : Bool) (p : Packet) : Opening :=
  match headSteps s u known (malformed s p) p.hdr with
  | some o => o
  | none => match openPacket s p with
    | .tagFail bs => .bad (countPkt s u .tagFail) nakTagFail bs
    | .crcFail bs => .bad (countPkt s u .crcFail) nakCrcFail bs
    | .ok bs => .ok bs

/-- The lengths of the packets that a request is cut into at destination offsets that are multiples of 4,096 (R69). -/
def cutLens : Nat → Nat → Nat → List Nat
  | 0, _, _ => []
  | fuel + 1, off, n =>
    if n = 0 then []
    else
      let k := min n (4096 - off % 4096)
      k :: cutLens fuel (off + k) (n - k)

/-- The packets of a request: offset and length of each (R69). -/
def cutRequest (off n : Nat) : List (Nat × Nat) :=
  (cutLens (n / 4096 + 2) off n).foldl (fun acc k => acc ++ [((acc.map (·.2)).foldl (· + ·) off, k)]) []

end Sys2Proof.Machine
end

