-- ==== Sys2Proof/Machine/HarbourData.lean ====
section
/-!
DEFINITION. The harbour's stored data: the linear layout (R314, R568), the placing of elements (R320, R321), versions and
banks (R323), segments (R325, R326), poison (R317), and the opening and discarding of a step.
-/
namespace Sys2Proof.Machine

open Sys2Proof

/-! ## The linear space -/

/-- Bytes of the dump region, and of the context save region of a variant (R314). -/
def dumpRegionBytes : Nat := 64 * 2 ^ 20
def saveRegionBytes (v : Variant) : Nat := blockCount v * 256 * 2 ^ 20

/-- Bytes of a set unit, and the linear byte at which a unit starts (R315, R568). -/
def unitBytes : Nat := 2 * 2 ^ 20
def unitStart (v : Variant) (u : Nat) : Nat := dumpRegionBytes + saveRegionBytes v + u * unitBytes

/-- Usable bytes of one GDDR7 device: 1,920 GB over 16 devices, and 960 GB over 8 (R314). -/
def deviceUsable : Nat := 120 * 10 ^ 9

/-- Set units of `n` devices in service: whole units of the usable capacity after the two reserved regions (R314, R535). -/
def unitsOfDevices (v : Variant) (n : Nat) : Nat :=
  (n * deviceUsable - (dumpRegionBytes + saveRegionBytes v)) / unitBytes

/-- Whether the harbour exists for software (R313). -/
def harbourOn (s : State) : Bool := accepted s 0

/-! ## Shards -/

/-- The shard of a set. -/
def shardOf (s : State) (k : SetKey) : Option Shard := s.hb.shards.find? (fun h => decide (h.key = k))

/-- The state with the shard of a set replaced. -/
def setShard (s : State) (h : Shard) : State :=
  { s with hb := { s.hb with shards := s.hb.shards.map (fun x => if x.key = h.key then h else x) } }

/-- The format code of an array, 0 where it is unused, and its width in bytes. -/
def arrayFmt (h : Shard) (a : Nat) : Nat := (h.fmts.getD a 0).toNat
def arrayWidth (h : Shard) (a : Nat) : Nat := elemBits (arrayFmt h a) / 8

/-- Whether an array is transient. -/
def isTransient (h : Shard) (a : Nat) : Bool := h.transient.getLsbD a

/-- Whether an array is used, and the versioned arrays of a shard. -/
def isUsed (h : Shard) (a : Nat) : Bool := decide (a < 4) && decide (arrayFmt h a ≠ 0)
def versionedArrays (h : Shard) : List Nat := [0, 1, 2, 3].filter (fun a => isUsed h a && !isTransient h a)

/-- Elements of a stripe. -/
def stripeLen (h : Shard) : Nat := 2 ^ h.stripeLog2

/-- Whether a set element lies on the shard, and its local index (R320). -/
def onShard (h : Shard) (e : Nat) : Bool := decide (e / stripeLen h % h.rootCount = h.rootIndex)
def localOf (h : Shard) (e : Nat) : Nat := e / stripeLen h / h.rootCount * stripeLen h + e % stripeLen h

/-- Elements held by a ROOT_INDEX (R320). -/
def localCount (elements stripeLog2 rootCount rootIndex : Nat) : Nat :=
  let st := 2 ^ stripeLog2
  let stripes := ceilDiv elements st
  if stripes ≤ rootIndex then 0
  else
    let n := ceilDiv (stripes - rootIndex) rootCount
    let last := rootIndex + (n - 1) * rootCount
    (n - 1) * st + min st (elements - last * st)

/-- Elements of the shard. -/
def shardLen (h : Shard) : Nat := localCount h.elements h.stripeLog2 h.rootCount h.rootIndex

/-- The bank of a version of an array (R323, R326). -/
def bankOf (h : Shard) (a version : Nat) : Nat := if isTransient h a then 0 else version % h.keep

/-- The linear byte of a byte of an array's bank. -/
def bankByte (v : Variant) (h : Shard) (a bank o : Nat) : Nat :=
  match h.units.find? (fun u => decide (u.1 = a) && decide (u.2.1 = bank)) with
  | none => 0
  | some u => unitStart v (u.2.2.getD (o / unitBytes) 0) + o % unitBytes

/-- Elements of a segment (R325). -/
def segLen : Nat := 4096

/-- Whether a segment of a version of an array has been written (R325, R326). -/
def segWritten (h : Shard) (a version seg : Nat) : Bool :=
  if isTransient h a then decide ((a, seg) ∈ h.stepWritten) else decide ((a, bankOf h a version, seg) ∈ h.everWritten)

/-- The lines of a linear range. -/
def linesOf (a n : Nat) : List Nat := (List.range ((a + n - 1) / 256 + 1 - a / 256)).map (· + a / 256)

/-- Whether a linear range meets a poisoned line (R317). -/
def poisonedAt (s : State) (a n : Nat) : Bool := (linesOf a n).any (fun l => decide (l ∈ s.hb.poisoned))

/-- The draw that stands for a bank's undefined contents, where a discarded step left them so (R334). -/
def lostBank (h : Shard) (a bank : Nat) : Option Nat :=
  if isTransient h a then none else (h.lost.find? (fun p => decide (p.1 = bank))).map (·.2)

/-- `n` local elements of a version of an array from element `l` on, inside one segment: none where a line is poisoned. -/
def readSeg (s : State) (h : Shard) (a version l n : Nat) : Option Bytes :=
  let w := arrayWidth h a
  let bank := bankOf h a version
  match lostBank h a bank with
  | some k => some ((List.range (n * w)).map (fun i => Config.freeByte k (l * w + i)))
  | none =>
    if segWritten h a version (l / segLen) then
      let p := bankByte s.variant h a bank (l * w)
      if poisonedAt s p (n * w) then none else some (memRead s (harbourAddr p) (n * w))
    else some (zeros (n * w))

/-- `n` local elements of a version of an array; `fuel` bounds the segments. -/
def readLocal (s : State) (h : Shard) (a version : Nat) : Nat → Nat → Nat → Option Bytes
  | 0, _, _ => some []
  | fuel + 1, l, n =>
    if n = 0 then some []
    else
      let k := min n (segLen - l % segLen)
      (readSeg s h a version l k).bind (fun x => (readLocal s h a version fuel (l + k) (n - k)).map (x ++ ·))

/-- A poisoned read counted (R317). -/
def countPoisonRead (s : State) : State := countEvent s (hbBase + 0x120) (hbBase + 0x110) 1

/-- The lines wholly inside a linear range are no longer poisoned (R317). -/
def clearPoison (s : State) (a n : Nat) : State :=
  { s with hb := { s.hb with poisoned := s.hb.poisoned.filter (fun l => !(decide (a ≤ l * 256) && decide (l * 256 + 256 ≤ a + n))) } }

/-! ### Writes that the floor state holds (R342) -/

/-- Bytes written to the harbour's linear space. -/
def burst (s : State) (a : Nat) (bs : Bytes) : State := clearPoison (memWrite s (harbourAddr a) bs) a bs.length

/-- A save record or a write through the host's window: in the floor state, where the engine starts no write burst, it waits behind those
before it (R342, log 212). -/
def harbourWrite (s : State) (a : Nat) (bs : Bytes) : State :=
  if s.power.floor then { s with hb := { s.hb with held := s.hb.held ++ [(a, bs)] } } else burst s a bs

/-- Bytes of the linear space as those readers see them: a write that waits counts as made. -/
def harbourRead (s : State) (a n : Nat) : Bytes :=
  s.hb.held.foldl (fun bs w => bs.zipIdx.map (fun x =>
    if w.1 ≤ a + x.2 ∧ a + x.2 < w.1 + w.2.length then byteAt w.2 (a + x.2 - w.1) else x.1)) (memRead s (harbourAddr a) n)

/-- The writes that waited, made in order. -/
def flushHeld (s : State) : State := s.hb.held.foldl (fun s w => burst s w.1 w.2) { s with hb := { s.hb with held := [] } }

/-- Elements of a segment that exist on the shard. -/
def segSize (h : Shard) (seg : Nat) : Nat := min segLen (shardLen h - seg * segLen)

/-- The fill of a segment that the open step writes for the first time: from version V, poison included, or with zero
(R325). -/
def fillSeg (s : State) (h : Shard) (a seg : Nat) : State :=
  let w := arrayWidth h a
  let n := segSize h seg * w
  let o := seg * segLen * w
  let dst := bankByte s.variant h a (bankOf h a (h.version + 1)) o
  let s := clearPoison s dst n
  if !isTransient h a && segWritten h a h.version seg then
    let src := bankByte s.variant h a (bankOf h a h.version) o
    let bad := ((linesOf src n).filter (fun l => decide (l ∈ s.hb.poisoned))).map (fun l => dst / 256 + (l - src / 256))
    let s := memWrite s (harbourAddr dst) (memRead s (harbourAddr src) n)
    { s with hb := { s.hb with poisoned := s.hb.poisoned ++ bad } }
  else memZero s (harbourAddr dst) n

/-- Bytes written by the open step at local element `l` of an array, inside one segment (R325). -/
def writeSeg (s : State) (h : Shard) (a l : Nat) (bs : Bytes) : State × Shard :=
  let w := arrayWidth h a
  let seg := l / segLen
  let first := decide ((a, seg) ∉ h.stepWritten)
  let s := if first then fillSeg s h a seg else s
  let bank := bankOf h a (h.version + 1)
  let h := if first then { h with stepWritten := h.stepWritten ++ [(a, seg)] } else h
  let h := if isTransient h a ∨ (a, bank, seg) ∈ h.everWritten then h else { h with everWritten := h.everWritten ++ [(a, bank, seg)] }
  let p := bankByte s.variant h a bank (l * w)
  (clearPoison (memWrite s (harbourAddr p) bs) p bs.length, h)

/-- Bytes written by the open step from local element `l` of an array on; `fuel` bounds the segments. -/
def writeLocal (a : Nat) : Nat → State → Shard → Nat → Bytes → State × Shard
  | 0, s, h, _, _ => (s, h)
  | fuel + 1, s, h, l, bs =>
    if bs.isEmpty then (s, h)
    else
      let k := (segLen - l % segLen) * arrayWidth h a
      let p := writeSeg s h a l (bs.take k)
      writeLocal a fuel p.1 p.2 (l + (segLen - l % segLen)) (bs.drop k)

/-- Bytes written into the open step of a set, and the shard kept. -/
def writeStep (s : State) (h : Shard) (a l : Nat) (bs : Bytes) : State :=
  let p := writeLocal a (bs.length / 4096 + 2) s h l bs
  setShard p.1 p.2

/-- The oldest retained version, V - KEEP + 1, whose bank the next step overwrites; none before version KEEP - 1 (R323). -/
def overwritten (h : Shard) : Option Nat := if h.keep ≤ h.version + 1 then some (h.version + 1 - h.keep) else none

/-- Whether a version is retained (R323). -/
def isRetained (h : Shard) (v : Nat) : Bool :=
  decide (v ≤ h.version) &&
    (if h.state = .idle then decide (h.version < v + h.keep) else decide (h.version + 1 < v + h.keep))

/-- Whether the next step may open: no UNLOAD port is bound to the version it overwrites, and V + 1 is below 2^48 (R323). -/
def mayOpen (s : State) (h : Shard) : Bool :=
  decide (h.version + 1 < 2 ^ 48) &&
  s.hb.ports.all (fun p => !(decide (p.2.bound = some h.key) && p.2.unload && decide (some p.2.version = overwritten h)))

/-- A step opened: every transient segment reads zero again (R324, R326). -/
def openStep (h : Shard) : Shard :=
  if h.state = .idle then { h with state := .opened, stepWritten := [] } else h

/-- An open step discarded: what the bank of step V + 1 holds is undefined (R334, R336). Where no step is open the bank keeps the
version that it holds (R337). -/
def discardStep (s : State) (h : Shard) : State :=
  let b := (h.version + 1) % h.keep
  if h.state = .idle then s
  else setShard { s with fresh := s.fresh + 1 }
    { h with state := .idle, stepWritten := [], lost := h.lost.filter (fun p => decide (p.1 ≠ b)) ++ [(b, s.fresh)] }

/-- The plan that a module holds for a group, and whether the module is a root of it. -/
def planOf (s : State) (g : BitVec 12) : Option Plan := (Tab.get? s.groups g).map (·.plan)
def isRoot (s : State) (p : Plan) : Bool := match ownFid s with
  | none => false
  | some f => decide (f ∈ p.roots)

/-- Whether this module is a root of a collective's plan. -/
def rootsColl (s : State) (c : Coll) : Bool := match planOf s c.key.group with
  | none => false
  | some p => isRoot s p

/-- OP of REDUCE_UPDATE (R247). -/
def coReduceUpdate : BitVec 4 := 6

/-- The running REDUCE_UPDATEs of a set at the module (R324). -/
def updatesOn (s : State) (k : SetKey) : List Coll :=
  s.colls.filter (fun c => decide (c.key.ctx = k.ctx) && decide (c.fields.hset = k.hset) && decide (c.fields.op = coReduceUpdate) &&
    c.started && rootsColl s c)

/-- The ports bound to a set, the running writers of its step, and whether the set is in use (R324). -/
def boundPorts (s : State) (k : SetKey) : List (Nat × HbPort) := s.hb.ports.filter (fun p => decide (p.2.bound = some k))
def hasWriter (s : State) (k : SetKey) : Bool := !(updatesOn s k).isEmpty || s.hb.sweeps.any (fun w => decide (w.key = k))
def inUse (s : State) (h : Shard) : Bool := hasWriter s h.key || !(boundPorts s h.key).isEmpty

end Sys2Proof.Machine
end

