-- ==== Sys2Proof/Machine/Link.lean ====
section
/-!
DEFINITION. Link frames as bytes (R416, R417), and the sending side of a link: credit (R420), kept frames (R422), attach transactions (R423, R424) and the
choice of an attach port (R425).
-/
namespace Sys2Proof.Machine

open Sys2Proof

/-! ## Frames (R416, R417) -/

/-- Frame kinds (R417). -/
def fkData : Nat := 0
def fkCredit : Nat := 1
def fkLinkInit : Nat := 2
def fkInitAck : Nat := 3
def fkSwapReq : Nat := 4
def fkSwapReady : Nat := 5
def fkLinkRetry : Nat := 6
def fkLinkNak : Nat := 7

/-- A link frame whose CRC verified. `clean` says that LENGTH is in range and that every reserved bit and the padding are zero. -/
structure LinkFrame where
  kind  : Nat
  vc    : Nat
  sent  : Word
  clean : Bool
  body  : Bytes
  deriving DecidableEq, Repr

/-- The idle word (R416). -/
def idleWord : Bytes := toLe 8 0xF

/-- The zero bytes that pad a body to a multiple of 8 (R416). -/
def framePad (n : Nat) : Nat := (8 - n % 8) % 8

/-- Header, body and padding of a frame (R416). -/
def frameHead (kind vc : Nat) (sent : Word) (body : Bytes) : Bytes :=
  toLe 8 (kind + 16 * vc + 256 * body.length + 2 ^ 32 * sent.toNat) ++ body ++ zeros (framePad body.length)

/-- A frame as it is sent: its CRC-64 stands at its end (R416). -/
def linkFrame (kind vc : Nat) (sent : Word) (body : Bytes) : Bytes :=
  frameHead kind vc sent body ++ toLe 8 (crc64 (frameHead kind vc sent body)).toNat

/-- A frame as it is received, none where its CRC fails (R416, R418). Bytes that LENGTH does not fit count as such (DESIGN CHOICE,
log 194). -/
def readFrame (bs : Bytes) : Option LinkFrame :=
  let h := fieldAt bs 0 8
  let n := bits h 20 8
  let m := 8 + n + framePad n
  if bs.length = m + 8 ∧ bs.drop m = toLe 8 (crc64 (bs.take m)).toNat then
    some { kind := bits h 3 0, vc := bits h 5 4, sent := BitVec.ofNat 32 (bits h 63 32), body := slice bs 8 n,
           clean := decide (n ≤ 4168) && decide (bits h 31 21 = 0) && decide (bits h 7 6 = 0) && allZero (slice bs (8 + n) (framePad n)) }
  else none

/-- A frame sent on a port. -/
def sendLink (s : State) (p kind vc : Nat) (sent : Word) (body : Bytes) : State := emit s (.link p (linkFrame kind vc sent body))

/-- A control frame sent on a port: VC and SENT are zero (R416). A port that is DOWN sends nothing, and one in QUARANTINE idle words alone
(R406, R408). -/
def sendControl (s : State) (p kind : Nat) (body : Bytes) : State :=
  if (portOf s p).state = .training ∨ (portOf s p).state = .up then sendLink s p kind 0 0 body else s

/-- The body of a LINK_NAK (R417). -/
def linkNakBody (code : Byte) (vc : Nat) (sent : Word) : Bytes := [code, BitVec.ofNat 8 vc, 0, 0] ++ toLe 4 sent.toNat

/-- A counter of a port's PT block. -/
def bumpPort (s : State) (p off : Nat) : State := bump s (ptBase p + off)

/-! ## DATA frames -/

/-- A virtual channel with no credit. -/
def Vc.blank : Vc := { sent := 0, limit := 0, rcvd := 0, advertised := 0, freed := 0, retrying := false }

/-- The credit state of a port's virtual channel. -/
def vcOf (r : Port) (n : Nat) : Vc := r.vcs.getD n Vc.blank

/-- The port with one virtual channel replaced. -/
def setVc (r : Port) (n : Nat) (v : Vc) : Port := { r with vcs := r.vcs.set n v }

/-- The credit units of a frame (R420). -/
def creditUnits (len : Nat) : Word := BitVec.ofNat 32 (ceilDiv len 64)

/-- Whether x is at or before y, compared modulo 2^32 (R420). -/
def atOrBefore (x y : Word) : Bool := decide ((y - x).toNat < 2 ^ 31)

/-- Whether a channel has credit for a frame of `len` body bytes (R420). -/
def hasCredit (v : Vc) (len : Nat) : Bool := atOrBefore (v.sent + creditUnits len) v.limit

/-- A DATA frame sent on a channel: its SENT value, the credit it takes, and under the attach profile the kept copy. -/
def putFrame (s : State) (p vc : Nat) (body : Bytes) : State :=
  let r := portOf s p
  let v := vcOf r vc
  let r' := setVc r vc { v with sent := v.sent + creditUnits body.length }
  let r' := if attachMode s p then { r' with kept := r'.kept ++ [{ vc := vc, sent := v.sent, body := body }] } else r'
  sendLink (setPort s p r') p fkData vc v.sent body

/-- A packet that has waited at a port: the time is added to its AGE in whole 64 ns units, rounded up (R80). -/
def waitedAt (s : State) (at_ : Nat) (pkt : Packet) : Packet :=
  { pkt with hdr := { pkt.hdr with age := BitVec.ofNat 16 (min 0xFFFF (pkt.hdr.age.toNat + ceilDiv ((s.now - at_) * 5) 832)) } }

/-- A frame put on a port, a packet's with the time that it has waited; one that is over the age limit by then is dropped (R80). -/
def putWaiting (s : State) (p : Nat) (w : WaitFrame) : State := match w.pkt with
  | none => putFrame s p w.vc w.body
  | some pkt =>
    let pkt := waitedAt s w.at_ pkt
    if tooOld s pkt.hdr then bumpPort s p 0x600 else emit (putFrame s p w.vc (headerBytes pkt.hdr ++ pkt.body)) (.wire p pkt)

/-- A frame sent on a port that is UP when its channel has credit and none waits before it, else put behind those that wait (R400,
R420). -/
def offerFrame (s : State) (p : Nat) (w : WaitFrame) : State :=
  let r := portOf s p
  if !portUp s p then s
  else if hasCredit (vcOf r w.vc) w.body.length && (r.waitTx.all (fun x => decide (x.vc ≠ w.vc))) then putWaiting s p w
  else setPort s p { r with waitTx := r.waitTx ++ [w] }

/-- A frame body sent on a channel of a port. -/
def sendFrame (s : State) (p vc : Nat) (body : Bytes) : State := offerFrame s p { vc := vc, body := body, at_ := s.now }

/-- A packet put on an external port: a DATA frame of its virtual channel 0, when credit lets it go (R419, R420). -/
def wireSend (s : State) (p : Nat) (pkt : Packet) : State :=
  offerFrame s p { vc := 0, body := headerBytes pkt.hdr ++ pkt.body, at_ := s.now, pkt := some pkt }

/-- The waiting frames of a port sent as far as credit goes, each channel in order; `stuck` are channels that wait. -/
def pumpFrames (p : Nat) : List WaitFrame → List Nat → State → State
  | [], _, s => s
  | w :: l, stuck, s =>
    if w.vc ∈ stuck ∨ !hasCredit (vcOf (portOf s p) w.vc) w.body.length then
      pumpFrames p l (w.vc :: stuck) (setPort s p { portOf s p with waitTx := (portOf s p).waitTx ++ [w] })
    else pumpFrames p l stuck (putWaiting s p w)

/-- What a port sends when credit arrives. -/
def pumpPort (s : State) (p : Nat) : State :=
  let r := portOf s p
  pumpFrames p r.waitTx [] (setPort s p { r with waitTx := [] })

/-! ## Attach transactions (R423, R424) -/

def opMwr : Byte := 0x01
def opMrd : Byte := 0x02
def opMatomic : Byte := 0x03
def opEvent : Byte := 0x04
def opDoorbell : Byte := 0x05
def opApWr : Byte := 0x06
def opApRd : Byte := 0x07
def opCpl : Byte := 0x08
def opCplD : Byte := 0x09

/-- A transaction: its 16-byte header and its data. -/
def attachBytes (op flags : Byte) (tag : BitVec 16) (len : Nat) (status atomic : Byte) (addr : Nat) (data : Bytes) : Bytes :=
  [op, flags] ++ toLe 2 tag.toNat ++ toLe 2 len ++ [status, atomic] ++ toLe 8 addr ++ data

/-- Whether a tag is in use on a port: outstanding, or timed out since the port came UP (R423, R432). -/
def tagBusy (s : State) (p : Nat) (t : BitVec 16) : Bool :=
  s.attReqs.any (fun r => decide (r.port = p) && decide (r.tag = t)) || decide (t ∈ (portOf s p).dead)

/-- The first free tag of a port from a tag on; `fuel` bounds the search. -/
def freeTag (s : State) (p : Nat) : Nat → BitVec 16 → BitVec 16
  | 0, t => t
  | fuel + 1, t => if tagBusy s p t then freeTag s p fuel (t + 1) else t

/-- The attach port of a block that the next request takes: its UP ports in turn (R425, log 16). -/
def pickPort (s : State) (b : Nat) : Option Nat :=
  let l := attachPorts s b
  l[s.nextAttTag.toNat % max l.length 1]?

/-- A request to the accelerator on a port: sent, and outstanding for 500 µs (R424, R431). -/
def attachSendOn (s : State) (p : Nat) (op : Byte) (atomic : Byte) (addr : Nat) (data : Bytes) (len : Nat) (use : AttachUse) : State :=
  let tag := freeTag s p 65536 s.nextAttTag
  let s := { s with
    nextAttTag := tag + 1,
    attReqs := s.attReqs ++ [{ port := p, tag := tag, op := op, addr := addr, data := data, len := len,
                               deadline := s.now + us 500, no := s.fresh, use := use }] }
  sendFrame s p (if op = opMrd then 1 else 0)
    (attachBytes op 0 tag (if op = opMrd then len else data.length) 0 atomic (addr % spaceSize) data)

/-- A request to the accelerator of a block; none where no attach port of the block is UP. -/
def attachSend (s : State) (b : Nat) (op : Byte) (atomic : Byte) (addr : Nat) (data : Bytes) (len : Nat) (use : AttachUse) :
    Option State :=
  (pickPort s b).map (fun p => attachSendOn s p op atomic addr data len use)

/-- An EVENT for a queue of a block, on one of its UP attach ports (R430). -/
def attachNotify (s : State) (b vector queue : Nat) : State :=
  match pickPort s b with
  | none => s
  | some p =>
    emit (sendFrame s p 0 (attachBytes opEvent 0 0 0 0 0 (vector % 2048 + queue % 1024 * 2048) [])) (.attachEvent p vector queue)

/-- A completion toward the accelerator, on a port that is UP: CPL with a status, or CPL_D with data (R427). -/
def attachAnswer (s : State) (p : Nat) (tag : BitVec 16) (status : Byte) (addr : Nat) (data : Bytes) : State :=
  let op := if data.isEmpty then opCpl else opCplD
  let body := attachBytes op (if data.isEmpty then 0 else 2) tag data.length status 0 addr data
  if portUp s p then emit (sendFrame s p 2 body) (.attachCpl p tag status data) else s

/-! ## Reads that find no answer (R431, R433) -/

/-- What a read that failed leaves, at its model address. One of host memory is counted (R567). One of the memory of a block's accelerator
which never answers stays outstanding, so that its time runs out. The reader goes on with the ABORT column at once (DESIGN CHOICE, log 17). -/
def leaveSilent (s : State) (b a n : Nat) : State :=
  if a < spaceSize then noteHostRead s a n
  else if memFaultAt s a n = some .silent then
    let at_ := max a (memFaultLow s a n / 4096 * 4096)
    (attachSend s b opMrd 0 at_ [] (min (a + n - at_) (4096 - at_ % 4096)) (.lostRead b)).getD s
  else s

/-- The first of translated runs whose read fails is left so. -/
def leaveRuns (s : State) (b : Nat) (l : List (Nat × Nat)) : State := (failedRun s b (spineRole s) l).foldl (fun s r => leaveSilent s b r.1 r.2) s

/-- What a lookup leaves: its entries cached, its misses counted, each page once, and the reads that failed. -/
def warm {α : Type} (s : State) (b : Nat) (l : Look α) : State :=
  let s := { s with tables := l.fill.foldl (putTable s b) s.tables, lookups := s.lookups + 1 }
  let s := l.missed.eraseDups.foldl (fun s _ => countXlateMiss s b) s
  l.failed.foldl (fun s r => leaveSilent s b r.1 r.2) s

end Sys2Proof.Machine
end

