-- ==== Sys2Proof/Machine/CollCodec.lean ====
section
/-!
DEFINITION. The payloads of COLL and COLL_CTRL packets. R272 and R274 lay out those of COLL; R273 says what a COLL_CTRL packet
carries, and this file says where its bytes lie (log 163). Every field is little-endian (R7), and reserved bits are zero (R8).
-/
namespace Sys2Proof.Machine

open Sys2Proof

/-- The COLL opcodes (R272). -/
def coContrib : Byte := 0x01
def coPartial : Byte := 0x02
def coResult : Byte := 0x03
def coDone : Byte := 0x04

/-- The COLL_CTRL opcodes (R273). -/
def ccPlan : Byte := 0x01
def ccJoin : Byte := 0x02
def ccActivate : Byte := 0x03
def ccClose : Byte := 0x04
def ccReady : Byte := 0x05
def ccGo : Byte := 0x06
def ccScan : Byte := 0x07
def ccAnchors : Byte := 0x08
def ccChecked : Byte := 0x09
def ccDelivered : Byte := 0x0A
def ccCommit : Byte := 0x0B
def ccRetract : Byte := 0x0C
def ccAbort : Byte := 0x0D
def ccStall : Byte := 0x0E
def ccProvCrc : Byte := 0x0F
def ccProvList : Byte := 0x10
def ccFinish : Byte := 0x11

/-- The type and the opcode of a message. -/
def collType : CollBody → BitVec 4
  | .contrib _ => tyColl
  | .partialSum _ => tyColl
  | .result _ => tyColl
  | .done _ => tyColl
  | _ => tyCollCtrl
def collOpcode : CollBody → Byte
  | .contrib _ => coContrib
  | .partialSum _ => coPartial
  | .result _ => coResult
  | .done _ => coDone
  | .planFragment _ _ _ _ => ccPlan
  | .planRefuse _ _ => ccPlan
  | .join _ => ccJoin
  | .activate => ccActivate
  | .close => ccClose
  | .ready _ _ => ccReady
  | .go _ _ => ccGo
  | .scan _ => ccScan
  | .anchors _ => ccAnchors
  | .checked _ _ _ => ccChecked
  | .delivered => ccDelivered
  | .commit _ => ccCommit
  | .retract _ => ccRetract
  | .abort _ _ _ => ccAbort
  | .stall _ => ccStall
  | .provCrc _ => ccProvCrc
  | .provList _ => ccProvList
  | .finish _ _ => ccFinish

/-- Whether a message is a RESULT, which travels with flag SPEC (R260). -/
def isResult (b : CollBody) : Bool := decide (collType b = tyColl) && decide (collOpcode b = coResult)

/-! ## Building -/

/-- Bytes of a PLAN fragment before its data, and the data that a packet holds. -/
def planHead : Nat := 8
def planData : Nat := 4096 - planHead

/-- The launch fields of a READY with the committed prefix: 176 bytes. -/
def readyBytes (f : LaunchFields) (prefixLen : Nat) : Bytes :=
  [BitVec.ofNat 8 (f.op.toNat + 16 * f.kind.toNat),
   BitVec.ofNat 8 (f.chunk.toNat + 16 * b01 f.prov + 32 * b01 f.sumsq + 64 * b01 f.sumsqFp64 + 128 * b01 f.chunkSignal),
   BitVec.ofNat 8 (b01 f.ext), 0] ++
  toLe 4 f.arith.toNat ++ toLe 4 f.count.toNat ++ toLe 2 f.root.toNat ++ zeros 2 ++ toLe 4 f.program.toNat ++ toLe 4 f.hset.toNat ++
  fit 16 f.step ++ toLe 4 prefixLen ++ zeros 4 ++ fit 128 f.params

/-- The payload of a message. -/
def collPayload : CollBody → Bytes
  | .contrib data => data
  | .partialSum data => data
  | .result data => data
  | .done data => data
  | .planFragment start data last regroup =>
    [BitVec.ofNat 8 (2 * b01 last + 4 * b01 regroup), 0, 0, 0] ++ toLe 4 start ++ data
  | .planRefuse status lost => [BitVec.ofNat 8 (1 + 8 * b01 lost), status] ++ zeros 6
  | .join refuse => [BitVec.ofNat 8 (b01 refuse)] ++ zeros 7
  | .activate => []
  | .close => []
  | .ready f n => readyBytes f n
  | .go phase n => [match phase with
      | .scan => 0
      | .data => 1] ++ zeros 3 ++ toLe 4 n
  | .scan ws => ws.flatMap (fun w => toLe 2 w.toNat)
  | .anchors ws => ws.flatMap (fun w => toLe 2 w.toNat)
  | .checked n corrupt overflow => toLe 4 n ++ [BitVec.ofNat 8 (b01 corrupt + 2 * b01 overflow)] ++ zeros 3
  | .delivered => []
  | .commit overflow => [BitVec.ofNat 8 (b01 overflow)] ++ zeros 7
  | .retract t => [BitVec.ofNat 8 t] ++ zeros 7
  | .abort status member fault => [status, 0] ++ toLe 2 member ++ zeros 4 ++ toLe 8 fault.toNat
  | .stall l => toLe 2 l.length ++ zeros 2 ++ l.flatMap (fun f => toLe 2 f.toNat)
  | .provCrc l => l.flatMap (fun v => toLe 2 v.1 ++ toLe 8 v.2.toNat)
  | .provList l => l.flatMap (fun v => toLe 8 v.toNat)
  | .finish value digest => toLe 8 value.toNat ++ fit 48 digest

/-! ## Reading -/

/-- The fields of a READY for a COLL_ID. -/
def readyOf (collId : Word) (bs : Bytes) : LaunchFields :=
  let b := fieldAt bs 1 1
  { kind := BitVec.ofNat 4 (fieldAt bs 0 1 / 16), op := BitVec.ofNat 4 (fieldAt bs 0 1 % 16), ext := bit (fieldAt bs 2 1) 0,
    chunkSignal := bit b 7, sumsqFp64 := bit b 6, sumsq := bit b 5, prov := bit b 4, chunk := BitVec.ofNat 4 (b % 16),
    arith := BitVec.ofNat 32 (fieldAt bs 4 4), collId := collId, count := BitVec.ofNat 32 (fieldAt bs 8 4),
    root := BitVec.ofNat 16 (fieldAt bs 12 2), program := BitVec.ofNat 32 (fieldAt bs 16 4), hset := BitVec.ofNat 32 (fieldAt bs 20 4),
    step := slice bs 24 16, params := slice bs 48 128 }

/-- Words of two bytes. -/
def wordsOf (bs : Bytes) : List (BitVec 16) := (List.range (bs.length / 2)).map (fun i => BitVec.ofNat 16 (fieldAt bs (2 * i) 2))

/-- What a PLAN packet's payload spells. -/
def planBodyOf (bs : Bytes) : Option CollBody :=
  let b := fieldAt bs 0 1
  if bs.length < 8 then none
  else if bit b 0 then
    (if bs.length = 8 ∧ b % 2 + 8 * b01 (bit b 3) = b ∧ reservedZero bs 2 8 then some (.planRefuse (byteAt bs 1) (bit b 3)) else none)
  else if b < 8 ∧ reservedZero bs 1 4 ∧ 8 < bs.length then some (.planFragment (fieldAt bs 4 4) (bs.drop 8) (bit b 1) (bit b 2))
  else none

/-- What the payload of a COLL packet spells, by its opcode. -/
def collDataOf (opcode : Byte) (bs : Bytes) : Option CollBody :=
  if opcode = coContrib then some (.contrib bs)
  else if opcode = coPartial then (if partialOk bs then some (.partialSum bs) else none)
  else if opcode = coResult then some (.result bs)
  else if opcode = coDone then (if bs.length = 83 ∧ (byteAt bs 82).toNat < 4 then some (.done bs) else none)
  else none

/-- A payload of a fixed length whose bytes from `from_` on are reserved. -/
def fixedOk (bs : Bytes) (n from_ : Nat) : Bool := decide (bs.length = n) && reservedZero bs from_ n

/-- What the payload of a COLL_CTRL packet spells, by its opcode. -/
def collCtrlOf (h : Header) (bs : Bytes) : Option CollBody :=
  let o := h.opcode
  let b := fieldAt bs 0 1
  if o = ccPlan then planBodyOf bs
  else if o = ccJoin then (if fixedOk bs 8 1 ∧ b < 2 then some (.join (bit b 0)) else none)
  else if o = ccActivate then (if bs = [] then some .activate else none)
  else if o = ccClose then (if bs = [] then some .close else none)
  else if o = ccReady then
    (if bs.length = 176 ∧ fieldAt bs 2 1 < 2 ∧ byteAt bs 3 = 0 ∧ reservedZero bs 14 16 ∧ reservedZero bs 44 48
      then some (.ready (readyOf h.seq bs) (fieldAt bs 40 4)) else none)
  else if o = ccGo then
    (if bs.length = 8 ∧ b < 2 ∧ reservedZero bs 1 4 then some (.go (if b = 0 then .scan else .data) (fieldAt bs 4 4)) else none)
  else if o = ccScan then (if bs.length % 2 = 0 ∧ bs ≠ [] then some (.scan (wordsOf bs)) else none)
  else if o = ccAnchors then (if bs.length % 2 = 0 ∧ bs ≠ [] then some (.anchors (wordsOf bs)) else none)
  else if o = ccChecked then
    (if fixedOk bs 8 5 ∧ fieldAt bs 4 1 < 4 then some (.checked (fieldAt bs 0 4) (bit (fieldAt bs 4 1) 0) (bit (fieldAt bs 4 1) 1)) else none)
  else if o = ccDelivered then (if bs = [] then some .delivered else none)
  else if o = ccCommit then (if fixedOk bs 8 1 ∧ b < 2 then some (.commit (bit b 0)) else none)
  else if o = ccRetract then (if fixedOk bs 8 1 ∧ b < 4 then some (.retract b) else none)
  else if o = ccAbort then
    (if bs.length = 16 ∧ byteAt bs 1 = 0 ∧ reservedZero bs 4 8
      then some (.abort (byteAt bs 0) (fieldAt bs 2 2) (BitVec.ofNat 64 (fieldAt bs 8 8))) else none)
  else if o = ccStall then
    (if 4 ≤ bs.length ∧ reservedZero bs 2 4 ∧ bs.length = 4 + 2 * fieldAt bs 0 2 then some (.stall (wordsOf (bs.drop 4))) else none)
  else if o = ccProvCrc then
    (if bs.length % 10 = 0 ∧ bs ≠ [] then some (.provCrc ((List.range (bs.length / 10)).map (fun i =>
      (fieldAt bs (10 * i) 2, BitVec.ofNat 64 (fieldAt bs (10 * i + 2) 8))))) else none)
  else if o = ccProvList then
    (if bs.length % 8 = 0 ∧ bs ≠ [] then some (.provList ((List.range (bs.length / 8)).map (fun i => BitVec.ofNat 64 (fieldAt bs (8 * i) 8))))
      else none)
  else if o = ccFinish then (if bs.length = 56 then some (.finish (BitVec.ofNat 64 (fieldAt bs 0 8)) (slice bs 8 48)) else none)
  else none

/-- Whether the reserved bits of the header fields of R271 are zero, and SEQUENCE where the packet belongs to no collective. -/
def collFieldsOk (h : Header) : Bool :=
  decide (bits h.region.toNat 31 30 = 0) && decide (bits h.offset.toNat 47 40 = 0) &&
  (!(decide (h.ptype = tyCollCtrl) && decide (h.opcode = ccPlan ∨ h.opcode = ccJoin ∨ h.opcode = ccActivate ∨ h.opcode = ccClose ∨ h.opcode = ccStall)) ||
    decide (h.seq = 0))

/-- The message that a packet's header and payload spell: none where they are laid out otherwise. -/
def collMsgOf (h : Header) (bs : Bytes) : Option CollMsg :=
  if collFieldsOk h then
    (if h.ptype = tyColl then collDataOf h.opcode bs else if h.ptype = tyCollCtrl then collCtrlOf h bs else none).map
      (fun b => { hdr := h, body := b })
  else none

end Sys2Proof.Machine
end

