-- ==== Sys2Proof/Machine/Routes.lean ====
section
/-!
DEFINITION. The route table and the port groups (R363, R364), route exclusions (R551), and which fabric IDs are unreachable
(R550).
-/
namespace Sys2Proof.Machine

open Sys2Proof

/-- Where the entry of a fabric ID in MG_ROUTE stands. -/
def routeOff (f : Fid) : Nat := mgBase + 0x40000 + 4 * f.toNat

/-- Whether a port is a member of a port group; the bits of attach ports are ignored (R364), and the lock-step port is a member of none (R489). -/
def inGroup (s : State) (g p : Nat) : Bool :=
  decide (p < 144) && regBit s (mgBase + 0x80000 + 32 * g + 4 * (p / 32)) (p % 32) && !attachMode s p && !isLsPort s p

/-- Whether a port is excluded for a fabric ID (R551). -/
def excluded (s : State) (f : Fid) (p : Nat) : Bool := decide ((f, p) ∈ s.switch.exclusions) || decide (p ∈ s.switch.excludeAll)

/-- The members of the group that the route entry of a fabric ID names; none where the entry has VALID 0. -/
def routeMembers (s : State) (f : Fid) : Option (List Nat) :=
  if regBit s (routeOff f) 31 then some ((List.range (portCount s.variant)).filter (inGroup s (regField s (routeOff f) 7 0)))
  else none

/-- The members that a packet for a fabric ID may take: UP and not excluded (R364, R551). -/
def liveMembers (s : State) (f : Fid) (l : List Nat) : List Nat := l.filter (fun p => portUp s p && !excluded s f p)

/-- The attach ports that the driver set for a block. -/
def setAttachPorts (s : State) (b : Nat) : List Nat := [2 * b, 2 * b + 1].filter (attachMode s)

/-- The block number whose EP_FID holds a fabric ID, in service or not. -/
def blockNamed (s : State) (f : Fid) : Option Nat := (List.range (blockCount s.variant)).find? (fun b => decide (blockFid s b = some f))

/-- Whether a fabric ID is unreachable at the module (R550). A block in service for which no attach port is set is no such
block (log 50); one that has failed with no spare left is (R536). -/
def unreachable (s : State) (f : Fid) : Bool :=
  match blockNamed s f with
  | some b => !blockServes s b || (!(setAttachPorts s b).isEmpty && (attachPorts s b).isEmpty)
  | none => match routeMembers s f with
    | none => false
    | some l => (liveMembers s f l).isEmpty

end Sys2Proof.Machine
end

