-- ==== Sys2Proof/Machine/Source.lean ====
section
/-!
DEFINITION. The source of requests: the streams' numbers and their epoch limits (R76, R81), the building and sending of
requests (R23, R87), MGMT packets, collective packets (R271), and the remote line cache (R147 to R150).
-/
namespace Sys2Proof.Machine

open Sys2Proof

/-! ## The remote line cache (R147 to R150) -/

/-- Bytes of a line, and lines of a die's cache. -/
def lineBytes : Nat := 256
def cacheLines : Nat := 131072

/-- A line of a die's cache that serves a read. -/
def cacheFind (s : State) (die : Nat) (ctx : CtxId) (home : Fid) (region : Word) (line : Nat) : Option CacheLine :=
  s.cache.find? (fun l => decide (l.die = die) && decide (l.ctx = ctx) && decide (l.home = home) &&
    decide (l.region = region) && decide (l.line = line))

/-- A line inserted in a die's cache. Which line a full cache gives up is left open: the model's gives up the oldest (DESIGN CHOICE, log
175; R148). -/
def cacheInsert (s : State) (l : CacheLine) : State :=
  let others := s.cache.filter (fun x => !(decide (x.die = l.die) && decide (x.ctx = l.ctx) && decide (x.home = l.home) &&
    decide (x.region = l.region) && decide (x.line = l.line)))
  let mine := others.filter (fun x => decide (x.die = l.die))
  let kept := if mine.length < cacheLines then others else others.erase (mine.headD l)
  { s with cache := kept ++ [l] }

/-- An outstanding line fill whose lines that pass a test are not to be cached (R145, R150). -/
def staleFill (s : State) (gone : CacheLine → Bool) (r : OutReq) : OutReq :=
  match r.kind, blockOfUnit s r.unit with
  | .read _ _ _ true, some b =>
    let h := r.pkt.hdr
    let lines := (List.range (h.length.toNat / lineBytes)).map (fun i => h.offset.toNat + i * lineBytes)
    { r with stale := r.stale ++ lines.filter (fun l =>
        gone { die := epDie s b, ctx := burgeeCtx h, home := h.dst, region := h.region, line := l, data := [] }) }
  | _, _ => r

/-- The lines that pass a test are invalidated, those of fills still outstanding with them, and the event counted at a block (R150). R166
does not say what counts as one invalidation: the model counts each event once, at the block whose event it is, whether or not a line
goes (DESIGN CHOICE, log 174). -/
def cacheInval (s : State) (b : Nat) (gone : CacheLine → Bool) : State :=
  bump { s with cache := s.cache.filter (fun l => !gone l), reqs := s.reqs.map (staleFill s gone) } (epBase b + 0xA0C)

/-- The lines that a range of a region touches. -/
def lineSpan (offset n : Nat) : List Nat :=
  (List.range ((offset + n - 1) / lineBytes + 1 - offset / lineBytes)).map (fun i => (offset / lineBytes + i) * lineBytes)

/-! ## Requests -/

/-- EP_RESEND_CFG's reset value, under which a die re-sends (R94, R620). -/
def resendReset : Word := 0x08190032

/-- The re-send settings of a unit. -/
def resendCfg (s : State) (u : Nat) : Word :=
  match unitBase s u with
  | none => resendReset
  | some base => if 0x20 ≤ u ∧ u < 0x48 then reg s (base + 0x800) else resendReset

def cfgFirst (w : Word) : Nat := bits w.toNat 11 0
def cfgCap (w : Word) : Nat := bits w.toNat 23 12
def cfgTries (w : Word) : Nat := bits w.toNat 27 24

/-- A stream at its source. -/
def srcStream (s : State) (k : StreamKey) : SrcStream :=
  Tab.getD s.srcStreams k { next := 0, inEpoch := 0, stopped := false, under := none }

/-- The bytes that a request writes at its home: those of a WRITE's payload, or an atomic's operand (R211). -/
def writtenBytes (q : SendReq) : Nat := match q.kind with
  | .atomic width _ _ => width
  | _ => q.payload.length

/-- The invalidation at sending: a WRITE or an atomic of a block removes every context's line of its die that it touches
(R150). -/
def invalAtSend (s : State) (q : SendReq) : State :=
  match blockOfUnit s q.unit with
  | none => s
  | some b =>
    if q.ptype = tyOrdered then
      let span := lineSpan q.offset (max (writtenBytes q) 1)
      cacheInval s b (fun l => decide (l.die = epDie s b) && decide (l.home = q.dst) && decide (l.region = q.region) &&
        decide (l.line ∈ span))
    else s

/-- The header of a request (R70, R76, R85). PLANE_HINT is the number of packets that the unit has built: R354 says so of an end-point
block, and the model takes it so for every other unit (DESIGN CHOICE, log 162). -/
def requestHdr (s : State) (q : SendReq) (seq : Nat) (epoch : BitVec 4) : Header :=
  { blankHdr with
    ptype := q.ptype, cls := q.cls, flags := flagsOf q.last (ctxEnc s q.ctx) false false q.combinable false, dst := q.dst,
    src := q.src, burgee := burgeeOf q.ctx epoch, opcode := q.opcode, length := BitVec.ofNat 13 q.len,
    seq := BitVec.ofNat 32 seq, tag := BitVec.ofNat 16 (q.unit * 512 + builtBy s q.unit % 512),
    hint := BitVec.ofNat 8 (builtBy s q.unit), region := q.region, offset := BitVec.ofNat 48 q.offset,
    sgen := genOf s q.src, dgen := genOf s q.dst }

/-- What the wire-level emission of a request is: MGMT packets may leave on a named port, and an ownership transfer has no packet
layout (R154). -/
def sendOut (s : State) (unit : Nat) (kind : ReqKind) (p : Packet) : State := match kind with
  | .mgmt (some port) => wireSend s port p
  | .ownXfer msg => emit s (.ownXfer unit { msg with hdr := p.hdr })
  | _ => emit s (.packet unit p)

/-- A request sent for the first time: outstanding under the first timer, and emitted (R87). -/
def firstSend (s : State) (u : Nat) (p : Packet) (kind : ReqKind) (cmd : Option Nat) (ap : Option (Nat × BitVec 16)) : State :=
  let cfg := resendCfg s u
  let s := fetchKey s u p.hdr
  let r : OutReq :=
    { id := s.fresh, unit := u, pkt := p, kind := kind, cmd := cmd, aperture := ap, tries := 1, timerUs := cfgFirst cfg,
      deadline := s.now + us (cfgFirst cfg), cfg := cfg, stale := [] }
  sendOut (countBuilt { s with fresh := s.fresh + 1, reqs := s.reqs ++ [r] } u) u kind p

/-! ## Rate limits at the source (R371) -/

/-- The stream of a request. -/
def reqStream (q : SendReq) : StreamKey := { src := q.src, ctx := q.ctx, dst := q.dst, read := decide (q.ptype = tyRead) }

/-- Whether a new request waits: its destination is unreachable, so that it is not sent (R553), a limit delays it, or one of its stream
waits before it. -/
def reqWaits (s : State) (q : SendReq) : Bool := unreachable s q.dst || (match unitLimit s q.unit q.dst with
  | none => false
  | some l => delays s l || s.stalled.any (fun x => decide (reqStream x = reqStream q)))

/-- A stream stopped at its epoch limit: flagged and counted once (R76). -/
def stopStream (s : State) (u : Nat) (k : StreamKey) (t : SrcStream) : State :=
  if t.stopped then s else countPkt { s with srcStreams := Tab.put s.srcStreams k { t with stopped := true } } u .seqWrap

/-- A request built and sent, or kept: for a later epoch where its stream has reached the epoch limit (R23, R76, R81), and while a rate
limit delays it (R371). R76 does not except the streams of a context with ENC 0 from the limits: they hold for those too (DESIGN CHOICE,
log 199). -/
def sendRequest (s : State) (q : SendReq) : State :=
  let k := reqStream q
  let t := srcStream s k
  match (match t.under with | some e => some e | none => sendEpoch s q.ctx) with
  | none => { s with stalled := s.stalled ++ [q] }
  | some epoch =>
    if 2 ^ 32 ≤ t.inEpoch + 1 then { stopStream s q.unit k t with stalled := s.stalled ++ [q] }
    else if reqWaits s q then { s with stalled := s.stalled ++ [q] }
    else
      let s := if t.inEpoch + 1 = 2 ^ 31 then logSecurity s q.ctx 0 0 epoch.toNat 76 else s
      let h := requestHdr s q t.next epoch
      let key := (packetKey s q.ctx epoch).getD []
      let s := invalAtSend s q
      let s := { s with srcStreams := Tab.put s.srcStreams k { t with next := (t.next + 1) % 2 ^ 32, inEpoch := t.inEpoch + 1 } }
      let p := sealPacket key h q.payload
      firstSend (chargeLimit s q.unit q.dst (48 + p.body.length)) q.unit p q.kind q.cmd q.aperture

/-- A new epoch of a context: as its send epoch every stream starts its count again, and else only the streams that are stopped
resume, under it (R76, R460). The requests that waited are built in order. -/
def resumeSends (s : State) (ctx : CtxId) (epoch : BitVec 4) (sends : Bool) : State :=
  let fresh := fun (t : SrcStream) =>
    if sends then (if t.under = some epoch then { t with under := none } else { t with inEpoch := 0, stopped := false, under := none })
    else if t.stopped then { t with inEpoch := 0, stopped := false, under := some epoch }
    else t
  let mine := s.stalled.filter (fun q => decide (q.ctx = ctx))
  let streams := s.srcStreams.map (fun p => if p.1.ctx = ctx then (p.1, fresh p.2) else p)
  mine.foldl sendRequest { s with stalled := s.stalled.filter (fun q => decide (q.ctx ≠ ctx)), srcStreams := streams }

/-- A re-send: RESEND set, AGE, HOPS and COLOUR afresh, the next timer of the schedule, and the count (R87, R483). -/
def resend (s : State) (r : OutReq) : State :=
  let timer := min (2 * r.timerUs) (cfgCap r.cfg)
  let p := { r.pkt with hdr := { r.pkt.hdr with flags := r.pkt.hdr.flags ||| 0x04, age := 0, hops := 0, colour := 0 } }
  let r' := { r with tries := r.tries + 1, timerUs := timer, deadline := s.now + us timer }
  let s := { s with reqs := s.reqs.map (fun x => if x.id = r.id then r' else x) }
  let s := detBreak (countPkt s r.unit .resend) detResend
  sendOut s r.unit r.kind p

/-! ## MGMT packets (R76, R86) -/

/-- The header of an MGMT packet: ENC 0, BURGEE 0, CLASS 7 and SEQUENCE 0. -/
def mgmtHdr (s : State) (u : Nat) (src dst : Fid) (opcode : Byte) (len : Nat) : Header :=
  { blankHdr with
    ptype := tyMgmt, cls := 7, dst := dst, src := src, opcode := opcode, length := BitVec.ofNat 13 len,
    tag := BitVec.ofNat 16 (u * 512 + builtBy s u % 512), hint := BitVec.ofNat 8 (builtBy s u), sgen := genOf s src,
    dgen := genOf s dst }

/-- An MGMT packet that is answered with ACK, sent on a port or into the fabric and re-sent under the reset values of R94. A module
without an own fabric ID sends none (R593). -/
def sendMgmt (s : State) (src dst : Fid) (opcode : Byte) (payload : Bytes) (port : Option Nat) : State :=
  if (ownFid s).isNone then s else
  let u := unitMgmt s
  let p := sealPacket [] (mgmtHdr s u src dst opcode payload.length) payload
  let r : OutReq :=
    { id := s.fresh, unit := u, pkt := p, kind := .mgmt port, cmd := none, aperture := none, tries := 1,
      timerUs := cfgFirst resendReset, deadline := s.now + us (cfgFirst resendReset), cfg := resendReset, stale := [] }
  let s := countBuilt { s with fresh := s.fresh + 1, reqs := s.reqs ++ [r] } u
  match port with
  | none => emit s (.packet u p)
  | some i => wireSend s i p

/-- An MGMT packet that is neither answered nor re-sent (R370). -/
def sendMgmtOnce (s : State) (src dst : Fid) (opcode : Byte) (payload : Bytes) : State :=
  let u := unitMgmt s
  emit (countBuilt s u) (.packet u (sealPacket [] (mgmtHdr s u src dst opcode payload.length) payload))

/-- The UP ports of the module that are not attach ports; the lock-step port carries lock-step packets only (R489). -/
def fabricPorts (s : State) : List Nat :=
  (List.range (portCount s.variant)).filter (fun p => portUp s p && !attachMode s p && !isLsPort s p)

/-- The fabric ID of a port's partner (R413). -/
def partnerFid (s : State) (p : Nat) : Fid := BitVec.ofNat 16 (regField s (ptBase p + 0x10) 15 0)

/-! ## Collective packets (R76, R271 to R273) -/

/-- The fields of a collective packet's header (R271). -/
def CollMsg.src (m : CollMsg) : Fid := m.hdr.src
def CollMsg.dst (m : CollMsg) : Fid := m.hdr.dst
def CollMsg.ctx (m : CollMsg) : CtxId := burgeeCtx m.hdr
def CollMsg.collId (m : CollMsg) : Word := m.hdr.seq
def CollMsg.group (m : CollMsg) : BitVec 12 := BitVec.ofNat 12 (bits m.hdr.region.toNat 11 0)
def CollMsg.epoch (m : CollMsg) : BitVec 16 := BitVec.ofNat 16 (bits m.hdr.region.toNat 27 12)
def CollMsg.tryNo (m : CollMsg) : Nat := bits m.hdr.region.toNat 29 28
def CollMsg.first (m : CollMsg) : Nat := bits m.hdr.offset.toNat 19 0
def CollMsg.chunk (m : CollMsg) : Nat := bits m.hdr.offset.toNat 39 20

/-- The collective of a message. -/
def collKeyOf (m : CollMsg) : CollKey := { ctx := m.ctx, group := m.group, epoch := m.epoch, collId := m.collId }

/-- The CNONCE of a unit's next COLL or COLL_CTRL packet under an epoch (R76). -/
def nextNonce (s : State) (u : Nat) (ctx : CtxId) (epoch : BitVec 4) : Nat := Tab.getD s.nonces (u, ctx, epoch) 0

/-- The epoch that a unit builds a context's collective packets under. -/
def collEpoch (s : State) (u : Nat) (ctx : CtxId) : Option (BitVec 4) := match Tab.get? s.collUnder (u, ctx) with
  | some e => some e
  | none => sendEpoch s ctx

/-- The header of a collective packet that a unit builds: what the message's own header says, and the fields that building gives
it. The spec gives flag LAST no meaning in a collective packet, and the model sends 0 (log 162). -/
def collHdr (s : State) (u : Nat) (cls : BitVec 3) (hal : Option Nat) (m : CollMsg) (epoch : BitVec 4) (n : Nat) : Header :=
  { m.hdr with
    version := 1, ptype := collType m.body, cls := cls,
    flags := flagsOf false (ctxEnc s m.ctx) false (isResult m.body) false hal.isSome, burgee := burgeeOf m.ctx epoch,
    opcode := collOpcode m.body, length := BitVec.ofNat 13 (collPayload m.body).length, tag := BitVec.ofNat 16 (u * 512),
    halyard := BitVec.ofNat 12 (hal.getD 0), hint := BitVec.ofNat 8 (builtBy s u), cnonce := BitVec.ofNat 60 (u * 2 ^ 52 + n),
    sgen := genOf s m.src, dgen := genOf s m.dst }

/-- A collective packet kept until its context has an epoch to build it under. -/
def waitColl (s : State) (u : Nat) (cls : BitVec 3) (hal : Option Nat) (m : CollMsg) : State :=
  { s with collWait := s.collWait ++ [{ unit := u, cls := cls, hal := hal, msg := m }] }

/-- Whether a unit has a count left under an epoch of a context. -/
def hasNonce (s : State) (u : Nat) (ctx : CtxId) : Bool := match collEpoch s u ctx with
  | none => false
  | some e => decide (nextNonce s u ctx e < 2 ^ 52)

/-- A collective packet built by a unit for its destination under a class, on a halyard where one is given: its CNONCE taken,
outstanding until its ACK, and emitted. A unit whose count is used up under the epoch builds nothing until a new epoch is live,
which is recorded once (R76); what a rate limit delays waits (R371). -/
def sendCollOn (s : State) (u : Nat) (cls : BitVec 3) (hal : Option Nat) (m : CollMsg) : State :=
  if (ownFid s).isNone ∧ !(0x20 ≤ u ∧ u < 0x50) then s else
  match collEpoch s u m.ctx with
  | none => waitColl s u cls hal m
  | some epoch =>
    let n := nextNonce s u m.ctx epoch
    if 2 ^ 52 ≤ n then
      let s' := if s.collWait.any (fun w => decide (w.unit = u) && decide (w.msg.ctx = m.ctx)) then s
        else logSecurity s m.ctx 0 0 epoch.toNat 76
      waitColl s' u cls hal m
    else if (unitLimit s u m.dst).any (delays s) then waitColl s u cls hal m
    else
      let h := collHdr s u cls hal m epoch n
      let p := sealPacket ((packetKey s m.ctx epoch).getD []) h (collPayload m.body)
      let key := collKeyOf m
      let s := if (key, epoch) ∈ s.collBuilt then s else { s with collBuilt := s.collBuilt ++ [(key, epoch)] }
      let r : OutReq :=
        { id := s.fresh, unit := u, pkt := p, kind := .coll { m with hdr := h }, cmd := none, aperture := none, tries := 1,
          timerUs := cfgFirst resendReset, deadline := s.now + us (cfgFirst resendReset), cfg := resendReset, stale := [] }
      let s := { s with nonces := Tab.put s.nonces (u, m.ctx, epoch) (n + 1), fresh := s.fresh + 1, reqs := s.reqs ++ [r] }
      emit (countBuilt (chargeLimit s u m.dst (48 + p.body.length)) u) (.packet u p)

/-- A collective packet that travels on no halyard. -/
def sendColl (s : State) (u : Nat) (cls : BitVec 3) (m : CollMsg) : State := sendCollOn s u cls none m

/-- A new epoch of a context: as its send epoch every unit builds collective packets under it, and else only the units whose count is
used up do. The packets that wait are built in order (R76, R460). -/
def resumeColls (s : State) (ctx : CtxId) (epoch : BitVec 4) (sends : Bool) : State :=
  let mine := s.collWait.filter (fun w => decide (w.msg.ctx = ctx))
  let under := if sends then s.collUnder.filter (fun e => decide (e.1.2 ≠ ctx))
    else if (sendEpoch s ctx).isNone then s.collUnder
    else mine.foldl (fun t w => Tab.put t (w.unit, ctx) epoch) s.collUnder
  mine.foldl (fun s w => sendCollOn s w.unit w.cls w.hal w.msg)
    { s with collWait := s.collWait.filter (fun w => decide (w.msg.ctx ≠ ctx)), collUnder := under }

/-- What rate limits delay goes on as far as they let it, in order (R371). -/
def releaseLimited (s : State) : State :=
  let s := s.answerWait.foldl (fun s w => sendAnswer s w.unit w.req w.ptype w.opcode w.payload) { s with answerWait := [] }
  let s := s.stalled.foldl sendRequest { s with stalled := [] }
  let ready := fun (w : CollWait) => hasNonce s w.unit w.msg.ctx
  (s.collWait.filter ready).foldl (fun s w => sendCollOn s w.unit w.cls w.hal w.msg)
    { s with collWait := s.collWait.filter (fun w => !ready w) }

/-- What waits for an epoch of a context goes on (R76, R460). -/
def resumeEpoch (s : State) (ctx : CtxId) (epoch : BitVec 4) (sends : Bool) : State :=
  resumeColls (resumeSends s ctx epoch sends) ctx epoch sends

end Sys2Proof.Machine
end

