-- ==== Sys2Proof/Machine/Queues.lean ====
section
/-!
DEFINITION. Queues: doorbells (R172), descriptor fetch (R173), hoists (R174), counters (R178 to R180), reservations and
pennants (R185 to R187), the completion of commands (R189), the disabling of queues (R184), and residency candidates.
-/
namespace Sys2Proof.Machine

open Sys2Proof

/-! ## Rings -/

/-- An enabled queue. -/
def queueOf (s : State) (b q : Nat) : Option Queue := Tab.get? s.queues (b, q)

/-- The state with a queue's record replaced. -/
def setQueue (s : State) (b q : Nat) (x : Queue) : State := { s with queues := Tab.put s.queues (b, q) x }

/-- The sizes of the two rings. -/
def ringLen (x : Queue) : Nat := 2 ^ x.entry.ringLog2
def cplLen (x : Queue) : Nat := 2 ^ x.entry.cplLog2

/-- (x - y) mod n. -/
def modSub (x y n : Nat) : Nat := (x + n - y % n) % n

/-- Completion entries that are neither reserved nor written and unconsumed (R185). -/
def freeEntries (x : Queue) : Nat := cplLen x - (x.reserved + modSub x.written x.consumed (2 * cplLen x))

/-- A queue as enabling leaves it (R170). -/
def enabledQueue (e : QueueEntry) : Queue :=
  { entry := e, head := 0, tail := 0, written := 0, consumed := 0, hoistEnds := [], hoistNo := 0, fetchCount := 0, fetched := [],
    reserved := 0, pennants := [], takingDoorbells := true, disabler := none, unwritten := 0 }

/-! ## Counters (R178 to R180) -/

/-- A counter of a context at a block. -/
def counterOf (s : State) (b : Nat) (c : CtxId) (i : Nat) : DWord := match atBlock s c b with
  | none => 0
  | some x => x.counters.getD i 0

/-! ### Save records (R192, R464) -/

/-- Bytes of a save record, and of what it seals: the IV stands before and the tag behind. -/
def recordBytes : Nat := 4096
def sealedBytes : Nat := recordBytes - 12 - 16

/-- Whether the save records lie in the harbour. -/
def recordsInHarbour (s : State) : Bool := accepted s 0

/-- Where the record of a definition slot at a block lies in its memory. -/
def recordAt (s : State) (b slot : Nat) : Nat :=
  let o := b * 256 * 2 ^ 20 + slot * recordBytes
  if recordsInHarbour s then dumpRegionBytes + o else pairBase s (mgBase + 0x210) (mgBase + 0x214) 12 + o

/-- The additional authenticated data of a record: block number, definition slot, generation. -/
def recordAad (b slot gen : Nat) : Bytes := [BitVec.ofNat 8 b] ++ toLe 2 slot ++ toLe 2 gen

/-- What a record holds: counters, check channels, and the scheduler's state, which is when the context was admitted and its place in the
order of admissions (R192, R194, log 93). -/
def recordPlain (x : CtxAtBlock) : Bytes :=
  fit sealedBytes ((x.counters ++ x.channels).flatMap (fun v => toLe 8 v.toNat) ++ toLe 8 x.admittedAt ++ toLe 8 x.admitNo)

/-- A record written to its memory. -/
def writeRecord (s : State) (b slot : Nat) (bs : Bytes) : State :=
  if recordsInHarbour s then harbourWrite s (recordAt s b slot) bs else hostWrite s (recordAt s b slot) bs

/-- What a parked context has at a block sealed in its record, under the next count and generation. -/
def saveRecord (s : State) (b : Nat) (c : CtxId) (x : CtxAtBlock) : State × CtxAtBlock :=
  match s.sec.saveKey, ctxOf s c with
  | some key, some y =>
    let x := { x with recGen := (x.recGen + 1) % 65536 }
    let iv := toLe 12 s.sec.sealCount
    let rec_ := iv ++ gcmSeal key iv (recordAad b y.slot x.recGen) (recordPlain x)
    (writeRecord { s with sec := { s.sec with sealCount := s.sec.sealCount + 1 } } b y.slot rec_, x)
  | _, _ => (s, x)

/-- A record as its memory gives it: an error where a line of it is poisoned (R317). -/
def readRecord (s : State) (b slot : Nat) : Except MemFaultKind Bytes :=
  let a := recordAt s b slot
  if !recordsInHarbour s then hostRead s a recordBytes
  else if poisonedAt s a recordBytes ∧ s.hb.held.all (fun w => decide (w.1 ≠ a)) then .error .poison
  else .ok (harbourRead s a recordBytes)

/-- What a record's failed read in host memory leaves (R567). -/
def noteRecordRead (s : State) (b slot : Nat) : State :=
  if recordsInHarbour s then s else noteHostRead s (hostAddr (recordAt s b slot)) recordBytes

/-- Whether a context's record at a block opens under its tag and generation. -/
def recordOpens (s : State) (b : Nat) (c : CtxId) (x : CtxAtBlock) : Bool :=
  match s.sec.saveKey, ctxOf s c with
  | some key, some y =>
    match readRecord s b y.slot with
    | .error _ => false
    | .ok bs => (gcmOpen key (bs.take 12) (recordAad b y.slot x.recGen) (bs.drop 12)).isSome
  | _, _ => true

/-- The state with what a context has at a block replaced; that of a parked context goes to its record. -/
def setAtBlock (s : State) (b : Nat) (c : CtxId) (x : CtxAtBlock) : State :=
  let p := if x.resident then (s, x) else saveRecord s b c x
  { p.1 with ctxBlocks := Tab.put p.1.ctxBlocks (b, c) p.2 }

/-- A counter set. -/
def setCounter (s : State) (b : Nat) (c : CtxId) (i : Nat) (v : DWord) : State := match atBlock s c b with
  | none => s
  | some x => setAtBlock s b c { x with counters := x.counters.set i v }

/-- An addition to a counter, modulo 2^64, resident or saved (R180). -/
def addCounter (s : State) (b : Nat) (c : CtxId) (i v : Nat) : State := setCounter s b c i (counterOf s b c i + BitVec.ofNat 64 v)

/-! ## Residency (R193, R194) -/

/-- Whether a context is resident at a block; the management context always is. -/
def isResident (s : State) (b : Nat) (c : CtxId) : Bool :=
  decide (c = 0) || (match atBlock s c b with
    | none => false
    | some x => x.resident)

/-- Whether a context may start commands and tiles at a block: it is resident, and is not being parked (R195). -/
def mayRun (s : State) (b : Nat) (c : CtxId) : Bool :=
  isResident s b c && !(match atBlock s c b with
    | none => false
    | some x => x.parking)

/-- A parked context made a candidate for residency (R194). -/
def makeCandidate (s : State) (b : Nat) (c : CtxId) : State :=
  let l := Tab.getD s.admitNext b []
  if isResident s b c ∨ c ∈ l ∨ !definedAt s c b then s else { s with admitNext := Tab.put s.admitNext b (l ++ [c]) }

/-! ## Doorbells (R171, R172) -/

def dbIndex (d : DWord) : Nat := bits d.toNat 16 0
def dbQueue (d : DWord) : Nat := bits d.toNat 26 17
def dbKind (d : DWord) : Nat := bits d.toNat 27 27
def dbClean (d : DWord) : Bool := decide (bits d.toNat 63 28 = 0)

/-- A bad doorbell: discarded, counted and logged (R172). -/
def badDoorbell (s : State) (b queue : Nat) (d : DWord) : State :=
  let s := countEvent s (epBase b + 0xB10) (epBase b + 0xB0C) 0
  logEvent s .command (ordEp (epDie s b)) (toLe 2 b ++ toLe 2 queue ++ zeros 4 ++ toLe 8 d.toNat) 172

/-- The check of R172 on a submission tail: the queue with the new tail, or none where it is bad. `bell` numbers the doorbell. -/
def takeTail (x : Queue) (i bell : Nat) : Option Queue :=
  let n := 2 * ringLen x
  if n ≤ i then none
  else if i = x.tail then some x
  else if ringLen x - modSub x.tail x.head n < modSub i x.tail n then none
  else some { x with tail := i, hoistEnds := x.hoistEnds ++ [i], bells := x.bells ++ [bell] }

/-- The check of R172 on a consumer head: the queue with the new head, or none where it is bad. -/
def takeHead (x : Queue) (i : Nat) : Option Queue :=
  let n := 2 * cplLen x
  if n ≤ i then none
  else if modSub x.written x.consumed n < modSub i x.consumed n then none
  else some { x with consumed := i }

/-- Whether a doorbell repeats the index that the queue has accepted last: it has no effect (R172, R582). -/
def repeatsIndex (x : Queue) (kind i : Nat) : Bool := decide (i = if kind = 0 then x.tail else x.consumed)

/-- A doorbell of a kind at a block, and whether it was good: an accepted one makes the context a candidate (R172, R194), and one that
repeats the accepted index does nothing (R582). -/
def doorbell (s : State) (b q kind : Nat) (d : DWord) : State × Bool :=
  match queueOf s b q with
  | none => (badDoorbell s b (dbQueue d) d, false)
  | some x =>
    if !x.takingDoorbells ∨ !dbClean d ∨ dbKind d ≠ kind ∨ inTeardown s x.entry.ctx then (badDoorbell s b (dbQueue d) d, false)
    else match (if kind = 0 then takeTail x (dbIndex d) s.fresh else takeHead x (dbIndex d)) with
      | none => (badDoorbell s b (dbQueue d) d, false)
      | some y =>
        if repeatsIndex x kind (dbIndex d) then (s, true)
        else (makeCandidate (setQueue { s with fresh := s.fresh + 1 } b q y) b x.entry.ctx, true)

/-! ## Commands in flight -/

/-- A command by its number. -/
def cmdOf (s : State) (id : Nat) : Option Cmd := s.cmds.find? (fun c => decide (c.id = id))

/-- The state with a command's record replaced. -/
def setCmd (s : State) (c : Cmd) : State := { s with cmds := s.cmds.map (fun x => if x.id = c.id then c else x) }

/-- The commands of a queue in the order of their acceptance. -/
def cmdsOf (s : State) (b q : Nat) : List Cmd := s.cmds.filter (fun c => decide (c.block = b) && decide (c.queue = q))

/-- Whether an attach request serves a command. -/
def servesCmd (id : Nat) (r : AttachReq) : Bool := match r.use with
  | .localWrite c _ => decide (c = id)
  | .result c _ _ => decide (c = id)
  | _ => false

/-- Whether a command has requests or local writes without an answer, or packets yet to be built. -/
def outstanding (s : State) (id : Nat) : Bool :=
  s.reqs.any (fun r => decide (r.cmd = some id)) || s.stalled.any (fun q => decide (q.cmd = some id)) ||
  s.attReqs.any (servesCmd id)

/-- Whether a command has sent every packet that it will send (R176). A COPY_LOCAL sends none (R225), and meets this once it has
started. -/
def allSent (s : State) (c : Cmd) : Bool :=
  decide (c.phase = .started) && (c.sentAll || decide ((descHdr c.desc).opcode = 0x22)) &&
  !s.stalled.any (fun q => decide (q.cmd = some c.id))

/-- Whether a home lies in a scope of a block (R132). -/
def inScope (s : State) (b scope : Nat) (home : Fid) : Bool :=
  if scope = 0 then decide (blockFid s b = some home)
  else if scope = 1 then (blockOfFid s home).isSome || decide (ownFid s = some home)
  else true

/-- Whether an answer of a kind is written to the block's own memory. -/
def writesLocal : ReqKind → Bool
  | .read (some _) _ _ _ => true
  | .atomic _ _ (some _) => true
  | _ => false

/-- Whether a command has a target in a scope that has not met R140. A local write's home is the block itself, which every scope
contains: what a pull or a READ has yet to bring there counts too (R132, R143). -/
def pendingIn (s : State) (c : Cmd) (scope : Nat) : Bool :=
  let more := decide (c.phase = .started) && !c.sentAll
  s.attReqs.any (servesCmd c.id) ||
  s.reqs.any (fun r => decide (r.cmd = some c.id) && (writesLocal r.kind || inScope s c.block scope r.pkt.hdr.dst)) ||
  s.stalled.any (fun q => decide (q.cmd = some c.id) && (writesLocal q.kind || inScope s c.block scope q.dst)) ||
  (more && (decide ((descHdr c.desc).opcode = 0x21 ∨ (descHdr c.desc).opcode = 0x22) || inScope s c.block scope c.dst))

/-! ## Acquire (R144) -/

/-- The lines that an acquire of a context at a block invalidates: none under ATTACH. -/
def acquire (s : State) (b : Nat) (ctx : CtxId) (scope : Nat) : State :=
  cacheInval s b (fun l => decide (l.die = epDie s b) && decide (l.ctx = ctx) && decide (scope ≠ 0) && inScope s b scope l.home)

/-! ## Completion (R174, R180, R189) -/

/-- A pennant put behind those of its queue that wait. -/
def queuePennant (s : State) (b q : Nat) (p : Pennant) : State := match queueOf s b q with
  | none => s
  | some x => setQueue s b q { x with pennants := x.pennants ++ [p] }

/-- The reservation of a started command given back (R185). -/
def releaseEntry (s : State) (b q : Nat) : State := match queueOf s b q with
  | none => s
  | some x => setQueue s b q { x with reserved := x.reserved - 1 }

/-- The pennant of a command that did not run. -/
def abandonedPennant (status : Byte) (slot fetchNo tag : Nat) (onlyIfFree : Bool) : Pennant :=
  { result := 0, userTag := BitVec.ofNat 32 tag, abandoned := true, status := status, slot := slot, fetchNo := fetchNo, aux := [],
    held := false, onlyIfFree := onlyIfFree }

/-- Whether a descriptor is a COLL_LAUNCH with EXT 1, and whether it is a COLL_EXT (R246, R251). -/
def takesExt (d : Bytes) : Bool := decide ((descHdr d).opcode = 0x60) && bit (fieldAt d 24 2) 15
def isExt (d : Bytes) : Bool := decide ((descHdr d).opcode = 0x62)

/-- The fetched descriptors that take a pennant of their own: all but a COLL_EXT that follows a launch with EXT 1 (R251). `after` says
that the one before was such a launch. -/
def withPennantAfter (after : Bool) : List Fetched → List Fetched
  | [] => []
  | f :: l => if after && isExt f.bytes then withPennantAfter false l else f :: withPennantAfter (takesExt f.bytes) l
def withPennant (l : List Fetched) : List Fetched := withPennantAfter false l

/-- The ring index whose COLL_EXT belongs to the last of some descriptors, where that one is a launch with EXT 1 (R251). -/
def extAfter (x : Queue) (l : List Fetched) : Option Nat := match l.getLast? with
  | none => x.extAt
  | some f => if takesExt f.bytes then some ((f.index + 1) % (2 * ringLen x)) else none

/-- The commands of a queue's hoist that have not started, abandoned with a status in ring order (R174): the accepted one
first, then those fetched and not accepted. A COLL_EXT that follows its launch has no pennant of its own (R251). -/
def abandonHoist (s : State) (b q hoist : Nat) (status : Byte) : State := match queueOf s b q with
  | none => s
  | some x =>
    let held := (cmdsOf s b q).filter (fun c => decide (c.phase = .accepted) && decide (c.hoist = hoist))
    let mine := x.fetched.filter (fun f => decide (f.hoist = hoist))
    let size := ringLen x
    let ps := held.map (fun c => abandonedPennant status (c.index % size) c.fetchNo (descHdr c.desc).userTag false) ++
      (withPennant mine).map (fun f => abandonedPennant status (f.index % size) f.fetchNo (descHdr f.bytes).userTag false)
    let s := { s with cmds := s.cmds.filter (fun c => !(decide (c.block = b) && decide (c.queue = q) &&
      decide (c.phase = .accepted) && decide (c.hoist = hoist))) }
    setQueue s b q { x with fetched := x.fetched.filter (fun f => decide (f.hoist ≠ hoist)), pennants := x.pennants ++ ps,
                            extAt := extAfter x mine }

/-- Whether a status lets the rest of the hoist run (R174). -/
def goesOn (status : Byte) : Bool := decide (status = stOk) || decide (status = stOverflow)

/-- The completion of a command (R174, R180, R189): its counter addition, its pennant, and what it abandons. -/
def completeCmd (s : State) (c : Cmd) (status : Byte) (result : DWord) (aux : Bytes) (abandoned : Bool) : State :=
  let h := descHdr c.desc
  let started := decide (c.phase = .started)
  let s := { s with cmds := s.cmds.filter (fun x => decide (x.id ≠ c.id)) }
  let s := if started && h.acq then acquire s c.block c.ctx h.acqScope else s
  let s := if h.sigEn && goesOn status && !abandoned then addCounter s c.block c.ctx h.sigCtr h.sigAdd else s
  let slot := match queueOf s c.block c.queue with
    | none => 0
    | some x => c.index % ringLen x
  let s := if h.pennant ∨ status ≠ stOk ∨ abandoned
    then queuePennant s c.block c.queue
      { result := result, userTag := BitVec.ofNat 32 h.userTag, abandoned := abandoned, status := status, slot := slot,
        fetchNo := c.fetchNo, aux := aux, held := started, onlyIfFree := false }
    else if started then releaseEntry s c.block c.queue else s
  if goesOn status then s else abandonHoist s c.block c.queue c.hoist status

/-- The status of a command after a part that did not succeed: the first such part's (R87). The spec does not say in which order parts are
first: the model takes the first to fail in time (DESIGN CHOICE, log 178). -/
def failPart (c : Cmd) (status : Byte) (result : DWord) : Cmd :=
  if c.status = stOk ∨ c.status = stOverflow then { c with status := status, result := result } else c

/-- The operand that a command's remote operand is: source 0 or destination 1 (R117). -/
def remoteIsDst (opcode : Nat) : Nat := if opcode = 0x02 ∨ opcode = 0x03 ∨ opcode = 0x21 then 0 else 1

/-- The RESULT of a command whose home refused it with NO_REGION: the fault word with the smallest refused OFFSET (R117). -/
def finalResult (c : Cmd) : DWord := match c.refused with
  | none => c.result
  | some o => if c.status = stFaultUnmapped then faultWord (remoteIsDst (descHdr c.desc).opcode) .remote o else c.result

/-- A command completed where nothing of it is outstanding and no tile of it is left to start (R140, R116, R117). -/
def finishCmd (s : State) (id : Nat) : State := match cmdOf s id with
  | none => s
  | some c =>
    if c.phase = .started ∧ c.sentAll ∧ !outstanding s id ∧ (c.tilesLeft = 0 ∨ !goesOn c.status)
    then completeCmd s c c.status (finalResult c) c.aux false else s

/-! ## Pennants (R186, R187) -/

/-- The 32 bytes of a pennant. -/
def pennantBytes (x : Queue) (q : Nat) (p : Pennant) : Bytes :=
  let phase := 1 - x.written / cplLen x % 2
  toLe 8 p.result.toNat ++ toLe 4 p.userTag.toNat ++
  toLe 4 (b01 p.abandoned * 2 ^ 20 + q % 1024 * 2 ^ 10 + phase * 2 ^ 9 + p.status.toNat) ++ toLe 2 p.slot ++ fit 14 p.aux

/-- The queue's notification (R187). -/
def notify (s : State) (b q : Nat) (x : Queue) : State :=
  if !x.entry.notify then s
  else if 512 ≤ q then sendMsix s x.entry.vector
  else attachNotify s b x.entry.vector q

/-- The writes of a pennant on the attach link: bytes 0 to 11 and 16 to 31, then bytes 12 to 15, all on one port (R187,
R425). `no` numbers the pennant. -/
def attachPennant (s : State) (p b q no a : Nat) (bs : Bytes) : State :=
  let s := attachSendOn s p opMwr 0 (accAddr b a) (bs.take 12) 12 (.pennant b q no)
  let s := attachSendOn s p opMwr 0 (accAddr b (a + 16)) (bs.drop 16) 16 (.pennant b q no)
  attachSendOn s p opMwr 0 (accAddr b (a + 12)) (slice bs 12 4) 4 (.pennant b q no)

/-- The other writes of a pennant of which one has failed: their answers change nothing more of the queue (R623). -/
def spendPennant (s : State) (b q no : Nat) : State :=
  { s with attReqs := s.attReqs.map (fun r => if r.use = .pennant b q no then { r with use := .spent b q } else r) }

/-! ## Disabling a queue (R184) -/

/-- Steps 1 and 2 of R184: no more doorbells, and the commands that have not started are abandoned with STATE_REJECTED. How many. -/
def shutQueue (s : State) (b q : Nat) (by_ : Option Nat) : State × Nat := match queueOf s b q with
  | none => (s, 0)
  | some x =>
    let held := (cmdsOf s b q).filter (fun c => decide (c.phase = .accepted))
    let size := ringLen x
    let ps := held.map (fun c => abandonedPennant stStateRejected (c.index % size) c.fetchNo (descHdr c.desc).userTag true) ++
      (withPennant x.fetched).map (fun f => abandonedPennant stStateRejected (f.index % size) f.fetchNo (descHdr f.bytes).userTag true)
    let s := { s with cmds := s.cmds.filter (fun c => !(decide (c.block = b) && decide (c.queue = q) && decide (c.phase = .accepted))) }
    (setQueue s b q
      { x with takingDoorbells := false, disabler := by_, fetched := [], hoistEnds := [], bells := [], tail := x.head,
               pennants := x.pennants ++ ps }, ps.length)

/-- The COMMAND record of a queue's disable: block, queue, opcode 0xE2, STATE_REJECTED, a USER_TAG and how many commands step 2 of R184
completed (R184, R585). -/
def logDisable (s : State) (b q tag n rule : Nat) : State :=
  logEvent s .command (ordEp (epDie s b)) (toLe 2 b ++ toLe 2 q ++ [0xE2, stStateRejected, 0, 0] ++ toLe 4 tag ++ toLe 2 n) rule

/-- A queue disabled by the steps of R184, with the record of step 2 where it abandons a command. -/
def disableQueue (s : State) (b q : Nat) (by_ : Option Nat) (tag : Nat) : State :=
  let p := shutQueue s b q by_
  if p.2 = 0 then p.1 else logDisable p.1 b q tag p.2 184

/-- Whether an attach request writes a pennant of a queue, and whether it writes a pennant or HEAD_WB. -/
def writesPennant (b q : Nat) (r : AttachReq) : Bool := match r.use with
  | .pennant b' q' _ => decide (b' = b) && decide (q' = q)
  | .spent b' q' => decide (b' = b) && decide (q' = q)
  | _ => false
def writesQueue (b q : Nat) (r : AttachReq) : Bool := writesPennant b q r || decide (r.use = .headWb b q)

/-- Step 4 of R184: a queue that is being disabled leaves once its last command and pennant are gone and what it wrote is answered,
and the QUEUE_DISABLE that asked for it completes. One that a queue asks for itself completes before the queue leaves. -/
def closeQueue (s : State) (b q : Nat) : State := match queueOf s b q with
  | none => s
  | some x =>
    let others := (cmdsOf s b q).filter (fun c => decide (some c.id ≠ x.disabler))
    if x.takingDoorbells ∨ !others.isEmpty ∨ !x.pennants.isEmpty ∨ s.attReqs.any (writesQueue b q) then s
    else match x.disabler.bind (cmdOf s) with
      | none => { s with queues := Tab.del s.queues (b, q) }
      | some c =>
        if c.block = b ∧ c.queue = q then
          completeCmd (setQueue s b q { x with disabler := none }) c stOk (BitVec.ofNat 64 x.unwritten) [] false
        else completeCmd { s with queues := Tab.del s.queues (b, q) } c stOk (BitVec.ofNat 64 x.unwritten) [] false

/-- A failed write or fetch of an attach queue: the queue is disabled where it is not already, and one COMMAND record in the variant of
R184 says so (R431, R585, R623). No QUEUE_DISABLE asked for it: the record's USER_TAG is 0 (DESIGN CHOICE, log 198). -/
def failQueue (s : State) (b q rule : Nat) : State := match queueOf s b q with
  | none => s
  | some x =>
    let p := if x.takingDoorbells then shutQueue s b q none else (s, 0)
    closeQueue (logDisable p.1 b q 0 p.2 rule) b q

/-- The PENNANT record of a pennant written to an attach queue: its 32 bytes with PHASE zero (R491). -/
def pennantRecord (s : State) (b q fetchNo : Nat) (c : CtxId) (bs : Bytes) : State :=
  let flat := bs.set 13 (byteAt bs 13 &&& 0xFD)
  lsProduce s
    { what := { kind := 2, key := BitVec.ofNat 64 (b % 32 * 2 ^ 59 + q % 1024 * 2 ^ 49 + fetchNo % 2 ^ 32), value := crc64 flat },
      since := s.now, ctx := c, owner := none, slots := 0, data := flat }

/-- The pennants of a queue that found no free entry dropped, and those of abandoned commands counted (R184). A disabled queue takes no
consumer doorbell, so an abandoned command of R174 waits no longer there either (log 191). -/
def dropPennants (x : Queue) : Queue :=
  let drop := x.pennants.filter (fun p => !p.held)
  { x with pennants := x.pennants.filter (·.held), unwritten := x.unwritten + (drop.filter (·.abandoned)).length }

/-- Waiting pennants of which the first with a reserved entry gives it up; none where none has one. -/
def giveEntry : List Pennant → Option (List Pennant)
  | [] => none
  | p :: l => if p.held then some ({ p with held := false } :: l) else (giveEntry l).map (p :: ·)

/-- The entry that the first pennant of a queue takes: whether it is a reserved one, and the pennants that wait behind it; none where it
waits. Pennants are written in the order of completion (R186): one without an entry that finds none free takes the entry of a later pennant
that waits behind it, which then waits for a free one (DESIGN CHOICE, log 197). A disabled queue drops instead (R184). -/
def entryFor (x : Queue) (p : Pennant) (rest : List Pennant) : Option (Bool × List Pennant) :=
  if p.held then some (true, rest)
  else if 0 < freeEntries x then some (false, rest)
  else if x.takingDoorbells then (giveEntry rest).map (fun l => (true, l))
  else none

/-- The next pennant of a queue written, or dropped where R184 drops it; none where it waits for an entry (R185 to R187,
R623). -/
def writePennant (s : State) (b q : Nat) : State := match queueOf s b q with
  | none => s
  | some x => match x.pennants with
    | [] => s
    | p :: rest => match entryFor x p rest with
      | some (reserved, rest) =>
        let a := x.entry.cplBase + x.written % cplLen x * 32
        let bs := pennantBytes x q p
        let y := { x with pennants := rest, written := (x.written + 1) % (2 * cplLen x),
                          reserved := if reserved then x.reserved - 1 else x.reserved }
        let s := setQueue s b q y
        if x.entry.hostSpace then closeQueue (notify (hostWrite s a bs) b q y) b q
        else match pickPort s b with
          | none => closeQueue (failQueue s b q 623) b q
          | some port =>
            let s := pennantRecord s b q p.fetchNo x.entry.ctx bs
            closeQueue (attachPennant { s with fresh := s.fresh + 1 } port b q s.fresh a bs) b q
      | none => if x.takingDoorbells then s else closeQueue (setQueue s b q (dropPennants x)) b q

/-! ## Descriptor fetch (R173) -/

/-- The descriptors of a run of ring indices, or how a read fails; `n` descriptors from index `i` on. -/
def readDescs (s : State) (b : Nat) (x : Queue) : Nat → Nat → Except MemFaultKind (List (Nat × Bytes))
  | 0, _ => .ok []
  | n + 1, i =>
    match tableRead s b x.entry.hostSpace (x.entry.ringBase + i % ringLen x * 64) 64 with
    | .error k => .error k
    | .ok bs =>
      match readDescs s b x n ((i + 1) % (2 * ringLen x)) with
      | .error k => .error k
      | .ok l => .ok ((i, bs) :: l)

/-- The first descriptor of a run whose read fails is left so (R433, R567). -/
def leaveDescs (s : State) (b : Nat) (x : Queue) (n i : Nat) : State :=
  (failedRun s b x.entry.hostSpace ((List.range n).map (fun j => (x.entry.ringBase + (i + j) % ringLen x * 64, 64)))).foldl
    (fun s r => leaveSilent s b r.1 r.2) s

/-- HEAD_WB written (R173, R623). -/
def writeHead (s : State) (b q : Nat) (x : Queue) : State :=
  let bs := toLe 8 x.head
  if x.entry.hostSpace then hostWrite s x.entry.headWb bs
  else match attachSend s b opMwr 0 (accAddr b x.entry.headWb) bs 8 (.headWb b q) with
    | none => failQueue s b q 623
    | some s => s

/-- A hoist fetched: its descriptors join those that wait for acceptance, and H is written back; a failed read disables
the queue (R173, R431). -/
def fetchHoist (s : State) (b q : Nat) : State := match queueOf s b q with
  | none => s
  | some x => match x.hoistEnds with
    | [] => s
    | e :: rest =>
      match readDescs s b x (modSub e x.head (2 * ringLen x)) x.head with
      | .error _ => failQueue (leaveDescs s b x (modSub e x.head (2 * ringLen x)) x.head) b q 431
      | .ok l =>
        let fs := (l.zipIdx).map (fun p =>
          ({ index := p.1.1, hoist := x.hoistNo, fetchNo := x.fetchCount + p.2, bytes := p.1.2,
             bell := x.bells.headD 0 } : Fetched))
        let y := { x with head := e, hoistEnds := rest, bells := x.bells.drop 1, hoistNo := x.hoistNo + 1, fetchCount := x.fetchCount + l.length,
                          fetched := x.fetched ++ fs }
        writeHead (setQueue s b q y) b q y

/-! ## Starting (R143, R176, R179, R185) -/

/-- A command without effect completed at acceptance (R176, R177): STATE_REJECTED is counted and logged. -/
def rejectCmd (s : State) (c : Cmd) (status : Byte) (result : DWord) : State :=
  let h := descHdr c.desc
  let s := if status = stStateRejected
    then logCommand (countEvent s (epBase c.block + 0xB14) (epBase c.block + 0xB0C) 1) c.block c.queue
      (BitVec.ofNat 8 h.opcode) status h.userTag
      (match queueOf s c.block c.queue with
       | none => 0
       | some x => c.index % ringLen x) 177
    else s
  completeCmd s c status result [] (decide (status = stContextGone))

/-- Whether an accepted command's wait holds it (R179): the counter is read only while the context is resident. -/
def waitMet (s : State) (c : Cmd) : Bool :=
  let h := descHdr c.desc
  !h.waitEn || c.waitDone ||
    (isResident s c.block c.ctx && decide (h.waitValue ≤ (counterOf s c.block c.ctx h.waitCtr).toNat))

/-- Whether every earlier command of the queue has met R140 for the targets of the command's RELEASE (R143); an ownership
transfer of a tenant acts as under RELEASE(DOMAIN) (R154). -/
def releaseMet (s : State) (c : Cmd) : Bool :=
  let h := descHdr c.desc
  let scope := if h.opcode = 0x40 ∧ c.ctx ≠ 0 then some 2 else if h.rel then some h.relScope else none
  match scope with
  | none => true
  | some sc => (cmdsOf s c.block c.queue).all (fun x => decide (c.id ≤ x.id) || !pendingIn s x sc)

/-- Whether a CHECK of the context on the same channel that the block accepted earlier has not completed: within a queue in ring order,
across queues in the order of their doorbells, with what a doorbell covers and the block has not fetched yet (R90). -/
def checkBusy (s : State) (c : Cmd) : Bool :=
  let same := fun (d : Bytes) => decide ((descHdr d).opcode = 0x31) && decide (byteAt d 25 = byteAt c.desc 25)
  decide ((descHdr c.desc).opcode = 0x31) &&
  (s.cmds.any (fun x => decide (x.block = c.block) && decide (x.ctx = c.ctx) && same x.desc &&
      (decide (x.bell < c.bell) || (decide (x.bell = c.bell) && decide (x.id < c.id)))) ||
   s.queues.any (fun e => decide (e.1.1 = c.block) && decide (e.1.2 ≠ c.queue) && decide (e.2.entry.ctx = c.ctx) &&
      (e.2.fetched.any (fun f => same f.bytes && decide (f.bell < c.bell)) || e.2.bells.any (fun n => decide (n < c.bell)))))

/-- Whether an earlier command of the queue with ACQUIRE has not completed: the later ones start after its invalidation (R144). -/
def acquireOpen (s : State) (c : Cmd) : Bool :=
  (cmdsOf s c.block c.queue).any (fun x => decide (x.id < c.id) && (descHdr x.desc).acq)

/-- Whether a block serves under a fabric ID that it took over and keeps quiet (R85). -/
def isQuiet (s : State) (b : Nat) : Bool := Tab.has s.quietUntil b

/-- Step 2 of R154: no write or atomic of the context to the region's home is unanswered at any block of the module. -/
def xferDrained (s : State) (c : Cmd) : Bool :=
  decide ((descHdr c.desc).opcode ≠ 0x40) || decide (c.ctx = 0) ||
  !(s.reqs.any (fun r => decide (r.pkt.hdr.ptype = tyOrdered) && decide (burgeeCtx r.pkt.hdr = c.ctx) && decide (r.pkt.hdr.dst = c.dst)) ||
    s.stalled.any (fun q => decide (q.ptype = tyOrdered) && decide (q.ctx = c.ctx) && decide (q.dst = c.dst)))

/-- Whether a queue has an entry that a command may reserve: the free entries go first to the pennants that wait for one. R185 does not
say which of the two a freed entry serves (DESIGN CHOICE, log 197). -/
def entryLeft (x : Queue) : Bool := decide ((x.pennants.filter (fun p => !p.held)).length < freeEntries x)

/-- Whether an accepted command may start now. -/
def mayStart (s : State) (c : Cmd) : Bool :=
  decide (c.phase = .accepted) && inService s && blockRuns s c.block && !isQuiet s c.block && xferDrained s c && mayRun s c.block c.ctx && waitMet s c && releaseMet s c && !checkBusy s c &&
  !acquireOpen s c &&
  (match queueOf s c.block c.queue with
   | none => false
   | some x => entryLeft x)

/-- A command marked started: its entry reserved, and its wait's acquire made (R144, R185). -/
def markStarted (s : State) (c : Cmd) : State × Cmd :=
  let h := descHdr c.desc
  let s := if h.waitEn && h.waitAcq then acquire s c.block c.ctx h.waitScope else s
  let s := match queueOf s c.block c.queue with
    | none => s
    | some x => setQueue s c.block c.queue { x with reserved := x.reserved + 1 }
  let c := { c with phase := .started, waitDone := true }
  (setCmd s c, c)

/-! ## Local writes of a command (R140, R431) -/

/-- Pieces of a run that do not cross a 4,096-byte boundary (R424). -/
def attachPieces (a : Nat) (bs : Bytes) : List (Nat × Bytes) :=
  (cutRequest a bs.length).map (fun p => (p.1, slice bs (p.1 - a) p.2))

/-- Bytes written to an address that a block's translation yielded: at once to host memory, or as requests to the
accelerator made for a use; none where no attach port is UP. `va` is the operand's address. -/
def writeRun (s : State) (b : Nat) (use : Nat → AttachUse) (va a : Nat) (bs : Bytes) : Option State :=
  if spineRole s then some (hostWrite s a bs)
  else (attachPieces a bs).foldl (fun acc p =>
    acc.bind (fun s => attachSend s b opMwr 0 (accAddr b p.1) p.2 p.2.length (use (va + (p.1 - a))))) (some s)

/-- Bytes written to translated runs in order. -/
def writeRuns (b : Nat) (use : Nat → AttachUse) : Nat → List (Nat × Nat) → Bytes → State → Option State
  | _, [], _, s => some s
  | va, (a, n) :: l, bs, s => (writeRun s b use va a (bs.take n)).bind (writeRuns b use (va + n) l (bs.drop n))

/-- A command that holds the translations of a range of its local operand while a transfer into it is under way, and no
longer those of transfers that have retired (R113, R123). `waits` says that bytes of the range wait for the next tile. -/
def holdRuns (s : State) (c : Cmd) (o : LocalOp) (runs : List (Nat × Nat × Nat)) (pages : List CacheTag) (waits : Bool) : State × Cmd :=
  let h : HeldTile := { no := s.fresh, waits := waits, base := o.addr, runs := runs, pages := pages.eraseDups }
  let c := { c with held := h :: c.held.filter (heldBusy s c.id) }
  (setCmd s c, c)

/-- The translation of `n` bytes of a local destination from byte `at_` on: the one that its transfer holds. -/
def heldXlate (s : State) (c : Cmd) (o : LocalOp) (at_ n : Nat) : Except LocalFail (List (Nat × Nat)) :=
  match heldRuns c.held (n / 65536 + 2 + c.held.length) at_ n with
  | some l => .ok l
  | none => localXlate s c.block c.ctx o at_ n accWrite

/-- A local write of a command for a use, through the translations that the command holds: its state, or how it fails (R118). -/
def localWriteAs (s : State) (c : Cmd) (use : Nat → AttachUse) (o : LocalOp) (at_ : Nat) (bs : Bytes) : Except LocalFail State :=
  match heldXlate s c o at_ bs.length with
  | .error e => .error e
  | .ok l => match writeRuns c.block use (o.addr + at_) l bs s with
    | none => .error (localDataFail 0 .abort)
    | some s => .ok s

/-- A local write that a command waits for. -/
def localWrite (s : State) (c : Cmd) (o : LocalOp) (at_ : Nat) (bs : Bytes) : Except LocalFail State :=
  localWriteAs s c (fun va => .localWrite c.id va) o at_ bs

/-- A command failed by a local fault: counted, with the fault word in RESULT (R118, R119). -/
def failLocal (s : State) (c : Cmd) (operand : Nat) (e : LocalFail) : State × Cmd :=
  let w := if e.status = stFaultUnmapped then faultWord operand e.kind e.addr else 0
  let c := failPart c e.status w
  (setCmd (countLocalFail s c.block e) c, c)

end Sys2Proof.Machine
end

