-- ==== Sys2Proof/Machine/Commands.lean ====
section
/-!
DEFINITION. The acceptance of commands (R176) and the memory, atomic, copy, fence, check, ownership and translation
commands (R208 to R230): what makes each legal, and what starting it does.
-/
namespace Sys2Proof.Machine

open Sys2Proof

/-! ## What an acceptance decides (R176, R99, R232) -/

/-- What acceptance says of a descriptor: it goes on, with the resolved destination, or it completes at once with a
status and a RESULT. -/
inductive Verdict where
  | go (dst : Fid)
  | reject (status : Byte) (result : DWord)
  deriving DecidableEq, Repr

def protocolV : Verdict := .reject stProtocol 0
def stateV : Verdict := .reject stStateRejected 0

/-- Whether a context may issue encrypted traffic: no ENC, or a send epoch and its key live here (R232). -/
def hasKey (s : State) (c : CtxId) : Bool :=
  !ctxEnc s c || (match sendEpoch s c with
    | none => false
    | some e => (packetKey s c e).isSome)

/-- Whether an ENC context holds a live epoch. -/
def keyOk (s : State) (c : CtxId) : Bool := !ctxEnc s c || (match Tab.get? s.sec.keys c with
  | none => false
  | some k => !k.live.isEmpty)

/-- The fabric ID of a rank that a tenant command names at a block, after EP_FID and the rank table (R97, R99): or how the
command completes, its fault naming operand `operand`: an unreachable one with DEST_LOST (R553). The state counts a
malformed entry. -/
def resolveRank (s : State) (b : Nat) (c : CtxId) (operand rank : Nat) : State × Verdict :=
  match blockFid s b with
  | none => (s, .reject stDestLost 0)
  | some _ => match ctxOf s c with
    | none => (s, .reject stContextGone 0)
    | some x =>
      let l := rankLook s b c x rank
      match l.out with
      | .error .protocol => (s, protocolV)
      | .error .destLost => (s, .reject stDestLost 0)
      | .error (.fault .badEntry) =>
        (countBadEntry (countXlateFault s b) b, .reject stFaultUnmapped (faultWord operand .badEntry rank))
      | .error (.fault k) => (countXlateFault s b, .reject stFaultUnmapped (faultWord operand k rank))
      | .ok f =>
        (warm s b l, if unreachable s f then .reject stDestLost 0 else if keyOk s c then .go f else .reject stKeyInvalid 0)

/-- Whether a context uses CONVERT. -/
def isConvert (s : State) (c : CtxId) : Bool := match ctxOf s c with
  | none => false
  | some x => x.convert

/-- Ranks of a context's rank table. -/
def rankCountOf (s : State) (c : CtxId) : Nat := match ctxOf s c with
  | none => 0
  | some x => x.rankCount

/-- A remote operand of a tenant's command that is legal: its rank in the table, and `n` bytes within 2^48 (R99, R205). -/
def remoteOk (s : State) (c : CtxId) (o : RemoteOp) (n : Nat) : Bool :=
  decide (o.rank < rankCountOf s c) && decide (o.offset + n ≤ 2 ^ 48)

/-! ## The acceptance of a descriptor (R176) -/

/-- Whether the queue's next descriptor can be accepted: every earlier command has sent all it will send. -/
def acceptable (s : State) (b q : Nat) : Bool :=
  inService s && (cmdsOf s b q).all (allSent s) &&
  (match queueOf s b q with
   | none => false
   | some x => x.takingDoorbells && !x.fetched.isEmpty)

/-- The command record of a descriptor that is being accepted. -/
def newCmd (s : State) (b q : Nat) (x : Queue) (f : Fetched) : Cmd :=
  { id := s.fresh, block := b, queue := q, ctx := x.entry.ctx, index := f.index, hoist := f.hoist, fetchNo := f.fetchNo,
    desc := f.bytes, bell := f.bell, rankNo := s.fresh, ext := none, phase := .accepted, sentAll := false, waitDone := false, status := stOk, result := 0,
    aux := [], refused := none, nextTile := 0, tilesLeft := 0, dst := 0, held := [] }

/-- A command of a torn-down context that had not started: CONTEXT_GONE with ABANDONED set (R232). -/
def goneCmd (s : State) (c : Cmd) : State := completeCmd s c stContextGone 0 [] true

/-- A step-1 failure that every descriptor shares, and the check of its own opcode (R176): `check` judges the operands,
the state and the destination. -/
def verdictOf (s : State) (c : Cmd) (check : State → Cmd → State × Verdict) : State × Verdict :=
  if !headerOk s c.ctx c.desc ∨ !knownOpcode (descHdr c.desc).opcode then (s, protocolV) else check s c

/-- A command that has been accepted started where nothing holds it. -/
def startIf (s : State) (c : Cmd) (start : State → Cmd → State) : State :=
  if mayStart s c then
    let p := markStarted s c
    finishCmd (start p.1 p.2) c.id
  else s

/-- The acceptance of the next descriptor of a queue where its opcode and operation are the row's, its check, and its
start where nothing holds it (R176, R179). -/
def acceptRun (s : State) (b q : Nat) (mine : Bytes → Bool) (check : State → Cmd → State × Verdict)
    (start : State → Cmd → State) : State :=
  match queueOf s b q with
  | none => s
  | some x => match x.fetched with
    | [] => s
    | f :: rest =>
      if !acceptable s b q ∨ !mine f.bytes then s
      else
        let c := newCmd s b q x f
        let s := setQueue { s with fresh := s.fresh + 1, cmds := s.cmds ++ [c] } b q { x with fetched := rest, extAt := none }
        if inTeardown s c.ctx then goneCmd s c
        else match verdictOf s c check with
          | (s, .reject st r) => rejectCmd s c st r
          | (s, .go d) =>
            let c := { c with dst := d, waitDone := waitMet s c }
            startIf (setCmd s c) c start

/-- Whether a descriptor carries an opcode. -/
def isOp (o : Nat) (d : Bytes) : Bool := decide ((descHdr d).opcode = o)

/-- The class of the packets of a queue (R622). -/
def classOf (s : State) (b q : Nat) : BitVec 3 := match queueOf s b q with
  | none => 0
  | some x => x.entry.cls

/-- A request of a command: the packet of a region at an offset. -/
def cmdRequest (s : State) (c : Cmd) (ptype : BitVec 4) (opcode : Byte) (region : Word) (off len : Nat) (payload : Bytes)
    (last comb : Bool) (kind : ReqKind) : SendReq :=
  { unit := unitOfBlock s c.block, src := (blockFid s c.block).getD 0, dst := c.dst, ctx := c.ctx, cls := classOf s c.block c.queue,
    ptype := ptype, opcode := opcode, last := last, combinable := comb, region := region, offset := off, len := len,
    payload := payload, kind := kind, cmd := some c.id, aperture := none }

/-! ## WRITE (R208, R209) -/

def wLen (d : Bytes) : Nat := bits (fieldAt d 36 2) 12 0
def wFlag (d : Bytes) : Bool := bit (fieldAt d 36 2) 15
def wClean (d : Bytes) : Bool := decide (bits (fieldAt d 36 2) 14 13 = 0) && reservedZero d 38 40 && reservedZero d 56 64

/-- The operands of WRITE. -/
def writeOk (s : State) (c : CtxId) (d : Bytes) : Bool :=
  let n := wLen d
  wClean d && decide (c ≠ 0) && remoteOk s c (remoteOp d 24) n && decide (1 ≤ n) &&
  (if wFlag d then decide (n ≤ 16) && allZero (slice d (40 + n) (16 - n))
   else decide (n ≤ 4096) && (localOp d 40).legal (isConvert s c) && reservedZero d 52 56)

/-- The acceptance check of WRITE. -/
def checkWrite (s : State) (c : Cmd) : State × Verdict :=
  if writeOk s c.ctx c.desc then resolveRank s c.block c.ctx 1 (remoteOp c.desc 24).rank else (s, protocolV)

/-- The packets of a request sent: bytes `bs` at an offset of a region, LAST in the last where the request ends there. -/
def sendWrites (s : State) (c : Cmd) (region : Word) (off : Nat) (bs : Bytes) (ends : Bool) : State :=
  (cutRequest off bs.length).foldl (fun s p =>
    sendRequest s (cmdRequest s c tyOrdered 0x01 region p.1 p.2 (slice bs (p.1 - off) p.2)
      (ends && decide (p.1 + p.2 = off + bs.length)) false .write)) s

/-- The start of WRITE: its source bytes are read once, and its packets sent (R209). -/
def startWrite (s : State) (c : Cmd) : State :=
  let d := c.desc
  let r := remoteOp d 24
  let c' := { c with sentAll := true }
  if wFlag d then sendWrites (setCmd s c') c' r.region r.offset (slice d 40 (wLen d)) true
  else
    let l := readLook s c.block c.ctx (localOp d 40) 0 (wLen d)
    let s := warm s c.block l
    match l.out with
    | .error e =>
      let p := failLocal s c 0 e
      setCmd p.1 { p.2 with sentAll := true }
    | .ok bs => sendWrites (setCmd s c') c' r.region r.offset bs true

/-! ## READ and VREAD (R208, R209, R148, R149) -/

/-- The operands of READ and VREAD. -/
def readOk (s : State) (c : CtxId) (d : Bytes) : Bool :=
  let n := wLen d
  wClean d && decide (c ≠ 0) && remoteOk s c (remoteOp d 24) n && decide (1 ≤ n) && reservedZero d 52 56 &&
  (if wFlag d then decide (n ≤ 8) && reservedZero d 40 52
   else decide (n ≤ 4096) && (localOp d 40).legal (isConvert s c))

/-- The acceptance check of READ and VREAD. -/
def checkReadCmd (s : State) (c : Cmd) : State × Verdict :=
  if readOk s c.ctx c.desc then resolveRank s c.block c.ctx 0 (remoteOp c.desc 24).rank else (s, protocolV)

/-- The local operand that a command's read bytes go to. -/
def readDest (d : Bytes) : LocalOp := if (descHdr d).opcode = 0x21 then localOp d 36 else localOp d 40

/-- Bytes put into RESULT from byte `at_` upward (R209). -/
def patchResult (r : DWord) (at_ : Nat) (bs : Bytes) : DWord :=
  BitVec.ofNat 64 (leNat ((toLe 8 r.toNat).take at_ ++ bs ++ (toLe 8 r.toNat).drop (at_ + bs.length)))

/-- Read bytes of a region at `off` delivered to a command's range of `len` bytes from `base`: into RESULT, or to local
memory from byte `dest` on. A failed local write fails the command. -/
def deliver (s : State) (id : Nat) (dest : Option Nat) (base len off : Nat) (data : Bytes) : State := match cmdOf s id with
  | none => s
  | some c =>
    let lo := max off base
    let hi := min (off + data.length) (base + len)
    if hi ≤ lo then s
    else
      let bs := slice data (lo - off) (hi - lo)
      match dest with
      | none => setCmd s { c with result := patchResult c.result (lo - base) bs }
      | some at_ => match localWrite s c (readDest c.desc) (at_ + (lo - base)) bs with
        | .error e => (failLocal s c 1 e).1
        | .ok s => s

/-- READ packets for the range of `n` bytes at `off`, for a command's range of `len` bytes from `base`; LAST in the last where the request
ends there. -/
def sendReads (s : State) (c : Cmd) (opcode : Byte) (region : Word) (off n : Nat) (dest : Option Nat) (base len : Nat)
    (fill ends : Bool) : State :=
  (cutRequest off n).foldl (fun s p =>
    sendRequest s (cmdRequest s c tyRead opcode region p.1 p.2 [] (ends && decide (p.1 + p.2 = off + n)) false
      (.read dest base len fill))) s

/-- Whether the plain reads of a block to a home go through the remote line cache (R148). -/
def cached (s : State) (b : Nat) (home : Fid) : Bool := regBit s (epBase b + 0xA00) 0 && decide (blockFid s b ≠ some home)

/-- The lines of a range that the line cache of a block's die answers, and the lines that are fetched: from the first missing line on all,
so that a request is one run of packets of which only the first and the last are short (R69, R148; DESIGN CHOICE, log 190). `running` says
that packets of the request have gone out before. -/
def splitLines (s : State) (b : Nat) (ctx : CtxId) (home : Fid) (region : Word) (off n : Nat) (running : Bool) :
    List CacheLine × List Nat :=
  let look := fun l => cacheFind s (epDie s b) ctx home region l
  let lines := lineSpan off n
  let before := if running then [] else lines.takeWhile (fun l => (look l).isSome)
  (before.filterMap look, lines.drop before.length)

/-- The hits and the fills of a range counted at a block (R166). -/
def countLines (s : State) (b hits fills : Nat) : State :=
  let s := (List.range hits).foldl (fun s _ => bump s (epBase b + 0xA04)) s
  (List.range fills).foldl (fun s _ => bump s (epBase b + 0xA08)) s

/-- A range read for a command: hits are delivered, and READ packets go out for the lines to fetch or, uncached, for the exact range
(R148, R149). -/
def readRange (s : State) (c : Cmd) (vol : Bool) (region : Word) (off n : Nat) (dest : Option Nat) (ends running : Bool) : State :=
  if vol then sendReads s c 0x02 region off n dest off n false ends
  else if !cached s c.block c.dst then sendReads s c 0x01 region off n dest off n false ends
  else
    let p := splitLines s c.block c.ctx c.dst region off n running
    let s := countLines s c.block p.1.length p.2.length
    let s := p.1.foldl (fun s l => deliver s c.id dest off n l.line l.data) s
    match p.2 with
    | [] => s
    | l :: _ => sendReads s c 0x01 region l (p.2.length * lineBytes) dest off n true ends

/-- The start of READ and VREAD: a destination that does not translate stops it before any byte moves (R116). -/
def startRead (s : State) (c : Cmd) : State :=
  let d := c.desc
  let r := remoteOp d 24
  let c := { c with sentAll := true }
  let s := setCmd s c
  let vol := (descHdr d).vol
  if wFlag d then readRange s c vol r.region r.offset (wLen d) none true false
  else
    let l := localLook s c.block c.ctx (localOp d 40) 0 (wLen d) accWrite
    let s := warm s c.block l
    match l.out with
    | .error e => (failLocal s c 1 e).1
    | .ok runs =>
      let p := holdRuns s c (localOp d 40) (placeRuns 0 runs) l.pages false
      readRange p.1 p.2 vol r.region r.offset (wLen d) (some 0) true false

/-! ## ATOMIC (R210 to R212) -/

def aOp (d : Bytes) : Nat := bits (fieldAt d 36 1) 3 0
def aWidth (d : Bytes) : Nat := bits (fieldAt d 36 1) 5 4
def aComb (d : Bytes) : Bool := bit (fieldAt d 36 1) 6

/-- Operand bytes of a WIDTH. -/
def aBytes (d : Bytes) : Nat := 4 * 2 ^ aWidth d

/-- The combinations of R211. -/
def atomicLegal (op width : Nat) : Bool :=
  (decide (width = 0) && decide (op ≤ 9)) || (decide (width = 1) && decide (op ≤ 8)) ||
  (decide (width = 2) && decide (op = 2 ∨ op = 3))

/-- The operands of ATOMIC. -/
def atomicOk (s : State) (c : CtxId) (d : Bytes) : Bool :=
  let op := aOp d
  let w := aWidth d
  let r := remoteOp d 24
  decide (c ≠ 0) && !bit (fieldAt d 36 1) 7 && reservedZero d 37 40 && reservedZero d 56 64 && atomicLegal op w &&
  remoteOk s c r (aBytes d) && decide (r.offset % aBytes d = 0) && (!aComb d || (decide (op = 0) && decide (w ≤ 1) && accepted s 6)) &&
  (if w = 2 then (localOp d 40).legal (isConvert s c) && decide ((localOp d 40).addr % 16 = 0) &&
      decide ((localOp d 40).addr % 65536 + 48 ≤ 65536) && reservedZero d 52 56
   else (decide (w = 1) || (reservedZero d 44 48 && reservedZero d 52 56)) && (decide (op = 3) || reservedZero d 48 56))

/-- The acceptance check of ATOMIC. -/
def checkAtomic (s : State) (c : Cmd) : State × Verdict :=
  if atomicOk s c.ctx c.desc then resolveRank s c.block c.ctx 1 (remoteOp c.desc 24).rank else (s, protocolV)

/-- The start of ATOMIC: its packet carries A, and for CAS A followed by B (R211). -/
def startAtomic (s : State) (c : Cmd) : State :=
  let d := c.desc
  let r := remoteOp d 24
  let w := aBytes d
  let opcode := BitVec.ofNat 8 (0x20 + 16 * aWidth d + aOp d)
  let c := { c with sentAll := true }
  let s := setCmd s c
  let go := fun (s : State) (payload : Bytes) (buf : Option Nat) =>
    sendRequest s (cmdRequest s c tyOrdered opcode r.region r.offset payload.length payload true (aComb d)
      (.atomic w (fetches (aOp d)) buf))
  if aWidth d = 2 then
    let l := localLook s c.block c.ctx (localOp d 40) 0 48 accBoth
    let s := warm s c.block l
    match l.out with
    | .error e => (failLocal s c 0 e).1
    | .ok runs => match readRuns s c.block (localOp d 40).addr runs with
      | .error e => (failLocal (leaveRuns s c.block runs) c 0 e).1
      | .ok bs => go (holdRuns s c (localOp d 40) (placeRuns 0 runs) l.pages false).1 (bs.take (if aOp d = 3 then 32 else 16)) (some 32)
  else go s (slice d 40 w ++ (if aOp d = 3 then slice d 48 w else [])) none

/-! ## Copies (R222 to R225) -/

/-- The fields of a copy. -/
def cpRow (d : Bytes) : Nat := bits (fieldAt d 48 5) 39 0 + 1
def cpTile (d : Bytes) : Nat := bits (fieldAt d 53 3) 23 20
def cpRows (d : Bytes) : Nat := bits (fieldAt d 53 3) 19 0
def cpSrcStride (d : Bytes) : Nat := fieldAt d 56 4
def cpDstStride (d : Bytes) : Nat := fieldAt d 60 4
def cpBudget (d : Bytes) : Nat := 2 ^ (cpTile d + 10)

/-- Tiles of a copy (R224). -/
def tileCount (d : Bytes) : Nat :=
  if cpBudget d ≤ cpRow d then cpRows d * ceilDiv (cpRow d) (cpBudget d)
  else ceilDiv (cpRows d) (cpBudget d / cpRow d)

/-- The pieces of tile `t`: row, first byte within the row, and length (R224). -/
def tileParts (d : Bytes) (t : Nat) : List (Nat × Nat × Nat) :=
  if cpBudget d ≤ cpRow d then
    let per := ceilDiv (cpRow d) (cpBudget d)
    let at_ := t % per * cpBudget d
    [(t / per, at_, min (cpBudget d) (cpRow d - at_))]
  else
    let per := cpBudget d / cpRow d
    (List.range (min per (cpRows d - t * per))).map (fun i => (t * per + i, 0, cpRow d))

/-- Distinct 64 KiB granules that the pieces of a tile touch on an operand that starts at `base` (R114): rows lie in rising
order, so a granule counts where it is beyond the last one counted. -/
def granules (base stride : Nat) (parts : List (Nat × Nat × Nat)) : Nat :=
  (parts.foldl (fun (acc : Nat × Nat) p =>
    let lo := (base + p.1 * stride + p.2.1) / 65536 + 1
    let hi := (base + p.1 * stride + p.2.1 + p.2.2 - 1) / 65536 + 1
    (acc.1 + (hi - max (lo - 1) acc.2), max hi acc.2)) (0, 0)).1

/-- Bytes from the first to the last byte that a copy touches on an operand. -/
def cpSpan (d : Bytes) (stride : Nat) : Nat := (cpRows d - 1) * stride + cpRow d

/-- The cases of R223, and the granules of every tile (R114), for operands that start at two addresses. -/
def copyLegal (d : Bytes) (srcBase dstBase : Nat) : Bool :=
  decide (1 ≤ cpRows d) && decide (cpTile d ≠ 15) && decide (cpRows d * cpRow d ≤ 2 ^ 40) &&
  (decide (cpRows d ≤ 1) || decide (cpRow d ≤ cpDstStride d)) &&
  (decide (cpRows d ≠ 1) || (decide (cpSrcStride d = 0) && decide (cpDstStride d = 0))) &&
  (List.range (tileCount d)).all (fun t =>
    decide (granules srcBase (cpSrcStride d) (tileParts d t) ≤ 4096) &&
    decide (granules dstBase (cpDstStride d) (tileParts d t) ≤ 4096))

/-- The acceptance checks of the three copies. -/
def checkPush (s : State) (c : Cmd) : State × Verdict :=
  let d := c.desc
  let r := remoteOp d 36
  if c.ctx ≠ 0 ∧ (localOp d 24).legal (isConvert s c.ctx) ∧ copyLegal d (localOp d 24).addr r.offset ∧
      remoteOk s c.ctx r (cpSpan d (cpDstStride d)) then resolveRank s c.block c.ctx 1 r.rank
  else (s, protocolV)

def checkPull (s : State) (c : Cmd) : State × Verdict :=
  let d := c.desc
  let r := remoteOp d 24
  if c.ctx ≠ 0 ∧ (localOp d 36).legal (isConvert s c.ctx) ∧ copyLegal d r.offset (localOp d 36).addr ∧
      remoteOk s c.ctx r (cpSpan d (cpSrcStride d)) then resolveRank s c.block c.ctx 0 r.rank
  else (s, protocolV)

def checkLocal (s : State) (c : Cmd) : State × Verdict :=
  let d := c.desc
  if c.ctx ≠ 0 ∧ (localOp d 24).legal (isConvert s c.ctx) ∧ (localOp d 36).legal (isConvert s c.ctx) ∧
      copyLegal d (localOp d 24).addr (localOp d 36).addr then (s, .go 0)
  else (s, protocolV)

/-- The translation of every piece of a tile on a local operand (R113); the lowest fault in row order is reported. -/
def xlateParts (s : State) (c : Cmd) (o : LocalOp) (stride : Nat) (acc : Access) :
    List (Nat × Nat × Nat) → Look (Except LocalFail (List (Nat × List (Nat × Nat))))
  | [] => lookPure (.ok [])
  | p :: ps => lookThen (localLook s c.block c.ctx o (p.1 * stride + p.2.1) p.2.2 acc) (fun l =>
      lookThen (xlateParts s c o stride acc ps) (fun ls => lookPure (.ok ((p.1 * stride + p.2.1, l) :: ls))))

/-- The bytes of every piece of a tile of an operand. -/
def readParts (s : State) (b : Nat) (o : LocalOp) : List (Nat × List (Nat × Nat)) → Except LocalFail (List Bytes)
  | [] => .ok []
  | l :: ls => match readRuns s b (o.addr + l.1) l.2 with
    | .error e => .error e
    | .ok bs => (readParts s b o ls).map (bs :: ·)

/-- The translations of the pieces of a tile as runs of its operand. -/
def tileRuns (l : List (Nat × List (Nat × Nat))) : List (Nat × Nat × Nat) := l.flatMap (fun p => placeRuns p.1 p.2)

/-- Whether a local address lies in the source range of a copy between local buffers (R223). -/
def inSource (d : Bytes) (a : Nat) : Bool :=
  let src := (localOp d 24).addr
  let rows := if cpSrcStride d = 0 then 1 else cpRows d
  let r := if cpSrcStride d = 0 then 0 else min ((a - src) / cpSrcStride d) (rows - 1)
  decide (src ≤ a) && decide (a - src - r * cpSrcStride d < cpRow d)

/-- The bytes that a local copy leaves in a piece of its destination: where the ranges overlap, an undefined mix, which is
a free value (R223). -/
def overlapBytes (d : Bytes) (k dst : Nat) (bs : Bytes) : Bytes :=
  if (localOp d 24).handle ≠ (localOp d 36).handle then bs
  else bs.zipIdx.map (fun p => if inSource d (dst + p.2) then Config.freeByte k (dst + p.2) else p.1)

/-- The pieces of a local copy's tile written. -/
def writeParts (s : State) (c : Cmd) : List ((Nat × Nat × Nat) × Bytes) → State
  | [] => s
  | (p, bs) :: l =>
    let at_ := p.1 * cpDstStride c.desc + p.2.1
    match localWrite s c (localOp c.desc 36) at_ (overlapBytes c.desc s.fresh ((localOp c.desc 36).addr + at_) bs) with
    | .error e => (failLocal s c 1 e).1
    | .ok s => writeParts s c l

/-- A tile that faults: the command starts no later tile (R116). -/
def failTile (s : State) (c : Cmd) (operand : Nat) (e : LocalFail) : State :=
  let p := failLocal s c operand e
  setCmd p.1 { p.2 with sentAll := true }

/-- What a piece of a row sends of the row, where the row starts at remote offset `base`: packets end at multiples of 4,096, so bytes that
fill no packet wait for the next piece, and go out with it (R69, R225). From which byte, and up to which. -/
def pieceSpan (d : Bytes) (base : Nat) (p : Nat × Nat × Nat) : Nat × Nat :=
  let cut := fun x => if x = 0 then 0 else (base + x) / 4096 * 4096 - base
  (cut p.2.1, if p.2.1 + p.2.2 = cpRow d then cpRow d else cut (p.2.1 + p.2.2))

/-- Whether a piece ends its row. -/
def endsRow (d : Bytes) (p : Nat × Nat × Nat) : Bool := decide (p.2.1 + p.2.2 = cpRow d)

/-- One piece of a COPY_PUSH sent, behind the bytes that waited for it. -/
def pushPiece (s : State) (c : Cmd) (p : Nat × Nat × Nat) (bs : Bytes) : State :=
  let r := remoteOp c.desc 36
  let base := r.offset + p.1 * cpDstStride c.desc
  let span := pieceSpan c.desc base p
  let all := c.tail ++ bs
  let c := { c with tail := all.drop (span.2 - span.1) }
  sendWrites (setCmd s c) c r.region (base + span.1) (all.take (span.2 - span.1)) (endsRow c.desc p)

/-- The bytes of a row that wait for a tile which faults: they go out in a packet of their own, for their tile had started (R116). -/
def flushPush (s : State) (c : Cmd) (t : Nat) : State := match tileParts c.desc t with
  | [] => s
  | p :: _ =>
    let r := remoteOp c.desc 36
    let c' := { c with tail := [] }
    sendWrites (setCmd s c') c' r.region (r.offset + p.1 * cpDstStride c.desc + p.2.1 - c.tail.length) c.tail false

/-- One tile of a COPY_PUSH: its source is translated and read, and its rows are sent (R113, R225). -/
def pushTile (s : State) (c : Cmd) (t : Nat) : State :=
  let d := c.desc
  let parts := tileParts d t
  let l := xlateParts s c (localOp d 24) (cpSrcStride d) accRead parts
  let s := warm s c.block l
  let s := match l.out with
    | .ok src => leaveRuns s c.block (src.flatMap (·.2))
    | .error _ => s
  match l.out.bind (readParts s c.block (localOp d 24)) with
  | .error e => failTile (flushPush s c t) { c with tail := [] } 0 e
  | .ok bss => (parts.zip bss).foldl (fun s p => pushPiece s c p.1 p.2) s

/-- A range of a row of a COPY_PULL read: from one byte of the row up to another. Once a packet of the row has gone out, the rest of the
row is fetched too, so that the row's last packet has LAST (R69, R225). -/
def pullSpan (s : State) (c : Cmd) (row lo hi : Nat) (ends : Bool) : State :=
  let r := remoteOp c.desc 24
  let off := r.offset + row * cpSrcStride c.desc + lo
  match cmdOf s c.id with
  | none => s
  | some x =>
    if hi ≤ lo then s
    else
      let sends := !cached s c.block c.dst || !(splitLines s c.block c.ctx c.dst r.region off (hi - lo) x.rowMiss).2.isEmpty
      readRange (setCmd s { x with rowMiss := sends && !ends }) c false r.region off (hi - lo) (some (row * cpDstStride c.desc + lo)) ends
        x.rowMiss

/-- The span of a row that a piece of a COPY_PULL reads. -/
def pullPart (d : Bytes) (p : Nat × Nat × Nat) : Nat × Nat := pieceSpan d ((remoteOp d 24).offset + p.1 * cpSrcStride d) p

/-- The bytes of a row that wait for a tile which faults are read alone, for their tile had started (R116). -/
def flushPull (s : State) (c : Cmd) (t : Nat) : State := match tileParts c.desc t with
  | [] => s
  | p :: _ => pullSpan s c p.1 (pullPart c.desc p).1 p.2.1 false

/-- One tile of a COPY_PULL: its destination is translated, and its rows are read (R113, R225). Bytes that wait for the next tile keep
their translations held. -/
def pullTile (s : State) (c : Cmd) (t : Nat) : State :=
  let d := c.desc
  let parts := tileParts d t
  let l := xlateParts s c (localOp d 36) (cpDstStride d) accWrite parts
  let s := warm s c.block l
  let settled := fun (s : State) (no : Nat) => match cmdOf s c.id with
    | none => s
    | some c => setCmd s { c with held := c.held.map (fun h => if h.no = no then h else { h with waits := false }) }
  match l.out with
  | .error e =>
    let s := settled (flushPull s c t) s.fresh
    (match cmdOf s c.id with
     | none => s
     | some c => failTile s c 1 e)
  | .ok runs =>
    let no := s.fresh
    let q := holdRuns s c (localOp d 36) (tileRuns runs) l.pages (parts.any (fun p => decide ((pullPart d p).2 < p.2.1 + p.2.2)))
    settled (parts.foldl (fun s p => pullSpan s q.2 p.1 (pullPart d p).1 (pullPart d p).2 (endsRow d p)) q.1) no

/-- The translations that a tile of a COPY_LOCAL needs: its source's, then its destination's, with the operand of a fault. -/
def localParts (s : State) (c : Cmd) (t : Nat) :
    Look (Except (Nat × LocalFail) (List (Nat × List (Nat × Nat)) × List (Nat × List (Nat × Nat)))) :=
  let d := c.desc
  lookThen (lookFail (xlateParts s c (localOp d 24) (cpSrcStride d) accRead (tileParts d t)) (fun e => (0, e))) (fun src =>
    lookThen (lookFail (xlateParts s c (localOp d 36) (cpDstStride d) accWrite (tileParts d t)) (fun e => (1, e))) (fun dst =>
      lookPure (.ok (src, dst))))

/-- One tile of a COPY_LOCAL: both operands are translated, the source read and the destination written (R113, R225). -/
def localTile (s : State) (c : Cmd) (t : Nat) : State :=
  let d := c.desc
  let parts := tileParts d t
  let l := localParts s c t
  let s := warm s c.block l
  match l.out with
  | .error e => failTile s c e.1 e.2
  | .ok (src, dst) => match readParts s c.block (localOp d 24) src with
    | .error e => failTile (leaveRuns s c.block (src.flatMap (·.2))) c 0 e
    | .ok bss =>
      let q := holdRuns s c (localOp d 36) (tileRuns dst) l.pages false
      { writeParts q.1 q.2 (parts.zip bss) with fresh := s.fresh + 1 }

/-! ## Prefetch and admission of tiles (R113, R115) -/

/-- The pages of the local operands that a tile of a copy translates. -/
def tilePages (s : State) (c : Cmd) (t : Nat) : Look Unit :=
  let d := c.desc
  let look := fun {α : Type} (l : Look α) => { out := (), fill := l.fill, pages := l.pages, missed := l.missed, failed := l.failed : Look Unit }
  if isOp 0x20 d then look (xlateParts s c (localOp d 24) (cpSrcStride d) accRead (tileParts d t))
  else if isOp 0x21 d then look (xlateParts s c (localOp d 36) (cpDstStride d) accWrite (tileParts d t))
  else look (localParts s c t)

/-- The pages of a local operand under a tile's pieces, walked past those that fault (R115). -/
def aheadParts (s : State) (c : Cmd) (o : LocalOp) (stride : Nat) (acc : Access) (parts : List (Nat × Nat × Nat)) : Look Unit :=
  match ctxOf s c.ctx with
  | none => lookPure ()
  | some x => parts.foldl (fun l p =>
      lookBoth l (aheadRuns s c.block c.ctx x o acc (p.2.2 / 65536 + 2) (p.1 * stride + p.2.1) p.2.2)) (lookPure ())

/-- The pages of the local operands of a tile, walked ahead of need (R115). -/
def aheadTile (s : State) (c : Cmd) (t : Nat) : Look Unit :=
  let d := c.desc
  if isOp 0x20 d then aheadParts s c (localOp d 24) (cpSrcStride d) accRead (tileParts d t)
  else if isOp 0x21 d then aheadParts s c (localOp d 36) (cpDstStride d) accWrite (tileParts d t)
  else lookBoth (aheadParts s c (localOp d 24) (cpSrcStride d) accRead (tileParts d t))
    (aheadParts s c (localOp d 36) (cpDstStride d) accWrite (tileParts d t))

/-- The pages of the sixteen tiles after a tile walked ahead of need: the caches warm, and nothing else happens (R115). -/
def prefetch (s : State) (c : Cmd) (t : Nat) : State :=
  (List.range (min 16 (tileCount c.desc - (t + 1)))).foldl (fun s i => warm s c.block (aheadTile s c (t + 1 + i))) s

/-- Whether a block admits the next tile of a copy: with its pages, those that started tiles hold fit the translation cache
(R113). -/
def admitsTile (s : State) (c : Cmd) : Bool :=
  decide (((heldPages s c.block ++ (tilePages s c c.nextTile).pages).eraseDups).length ≤ cacheSize .leaf)

/-- The next tile of a started copy (R113), and the prefetch while it runs (R115); the last tile ends what the command sends
(R176). -/
def nextTileOf (s : State) (c : Cmd) : State :=
  let t := c.nextTile
  let c := { c with nextTile := t + 1, tilesLeft := c.tilesLeft - 1, sentAll := decide (c.tilesLeft ≤ 1) }
  let s := setCmd s c
  let s := if isOp 0x20 c.desc then pushTile s c t else if isOp 0x21 c.desc then pullTile s c t else localTile s c t
  match cmdOf s c.id with
  | none => s
  | some x => if x.sentAll then s else prefetch s x t

/-- Whether a started copy has tiles left to start. -/
def betweenTiles (c : Cmd) : Bool :=
  decide (c.phase = .started) && decide (0 < c.tilesLeft) && !c.sentAll && (isOp 0x20 c.desc || isOp 0x21 c.desc || isOp 0x22 c.desc)

/-- The start of a copy: its first tile, where the block admits it (R113). -/
def startCopy (s : State) (c : Cmd) : State :=
  let c := { c with nextTile := 0, tilesLeft := tileCount c.desc }
  if admitsTile s c then nextTileOf s c else setCmd s c

/-! ## FENCE and CHECK (R226, R227) -/

def checkFence (s : State) (c : Cmd) : State × Verdict :=
  if reservedZero c.desc 24 64 then (s, .go 0) else (s, protocolV)

/-- Whether every earlier command of the queue has met R140 (R141). -/
def fenceMet (s : State) (c : Cmd) : Bool := (cmdsOf s c.block c.queue).all (fun x => decide (c.id ≤ x.id))

/-- The start of FENCE: it completes now, or once the earlier commands have (R141). -/
def startFence (s : State) (c : Cmd) : State := if fenceMet s c then setCmd s { c with sentAll := true } else s

/-- The fields of CHECK. -/
def ckOp (d : Bytes) : Nat := bits (fieldAt d 24 1) 1 0
def ckChannel (d : Bytes) : Nat := bits (fieldAt d 25 1) 5 0
def ckLen (d : Bytes) : Nat := bits (fieldAt d 40 5) 39 0 + 1

/-- Channels granted to a context (R91). -/
def channelsOf (s : State) (c : CtxId) : Nat := match ctxOf s c with
  | none => 0
  | some x => x.channels

/-- The acceptance check of CHECK. -/
def checkCheck (s : State) (c : Cmd) : State × Verdict :=
  let d := c.desc
  let base := decide (c.ctx ≠ 0) && decide (bits (fieldAt d 24 1) 7 2 = 0) && decide (bits (fieldAt d 25 1) 7 6 = 0) &&
    reservedZero d 26 28 && reservedZero d 45 48 && reservedZero d 56 64 && decide (ckChannel d < channelsOf s c.ctx)
  let own := if ckOp d = 0 then (localOp d 28).legal (isConvert s c.ctx) && reservedZero d 48 56
    else if ckOp d = 1 then reservedZero d 28 45 && reservedZero d 48 56
    else if ckOp d = 2 then reservedZero d 28 45
    else false
  if base && own then (s, .go 0) else (s, protocolV)

/-- The value of a channel, and the state with it set (R89). -/
def channelOf (s : State) (c : Cmd) : DWord := match atBlock s c.ctx c.block with
  | none => 0
  | some x => x.channels.getD (ckChannel c.desc) 0
def setChannel (s : State) (c : Cmd) (v : DWord) : State := match atBlock s c.ctx c.block with
  | none => s
  | some x => setAtBlock s c.block c.ctx { x with channels := x.channels.set (ckChannel c.desc) v }

/-- An ACCUMULATE, tile by tile with a budget of 16 MiB: a fault leaves the CRC of the bytes so far (R227). -/
def accumulate (s : State) (c : Cmd) : Nat → Nat → Nat → State
  | 0, _, _ => s
  | fuel + 1, at_, n =>
    if n = 0 then s
    else
      let k := min n (2 ^ 24)
      let l := readLook s c.block c.ctx (localOp c.desc 28) at_ k
      let s := warm s c.block l
      match l.out with
      | .error e => (failLocal s c 0 e).1
      | .ok bs => accumulate (setChannel s c (crcMore (channelOf s c) bs)) c fuel (at_ + k) (n - k)

/-- The start of CHECK with OP ACCUMULATE, READ and LOAD (R90). -/
def startAccumulate (s : State) (c : Cmd) : State :=
  let c := { c with sentAll := true }
  accumulate (setCmd s c) c (ckLen c.desc / 2 ^ 24 + 1) 0 (ckLen c.desc)
def startCheckRead (s : State) (c : Cmd) : State := setCmd s { c with sentAll := true, result := channelOf s c }
def startCheckLoad (s : State) (c : Cmd) : State :=
  setChannel (setCmd s { c with sentAll := true }) c (BitVec.ofNat 64 (fieldAt c.desc 48 8))

/-- The start of a CHECK by its OP. -/
def startCheck (s : State) (c : Cmd) : State :=
  if ckOp c.desc = 0 then startAccumulate s c else if ckOp c.desc = 1 then startCheckRead s c else startCheckLoad s c

/-! ## OWN_XFER (R153, R154, R228) -/

/-- NEW_OWNER. -/
def xfOwner (d : Bytes) : CtxId := BitVec.ofNat 20 (bits (fieldAt d 36 3) 19 0)

/-- The acceptance check of OWN_XFER: from context 0 its RANK is a fabric ID, and it goes out under the module's own. -/
def checkXfer (s : State) (c : Cmd) : State × Verdict :=
  let d := c.desc
  let r := remoteOp d 24
  if reservedZero d 39 64 ∧ bits (fieldAt d 36 3) 23 20 = 0 ∧ r.offset = 0 ∧ xfOwner d ≠ 0 then
    if c.ctx = 0 then
      (match ownFid s with
       | none => (s, .reject stDestLost 0)
       | some _ => if unreachable s (BitVec.ofNat 16 r.rank) then (s, .reject stDestLost 0) else (s, .go (BitVec.ofNat 16 r.rank)))
    else if rankCountOf s c.ctx ≤ r.rank then (s, protocolV)
    else resolveRank s c.block c.ctx 1 r.rank
  else (s, protocolV)

/-- The start of OWN_XFER: the region's lines of the die go, and the transfer is sent (R154, log 40: the spec gives its
message no packet opcode). One whose destination or key has gone since its acceptance sends nothing (R461, R553). -/
def startXfer (s : State) (c : Cmd) : State :=
  let d := c.desc
  let r := remoteOp d 24
  let c := { c with sentAll := true }
  let s := setCmd s c
  if unreachable s c.dst then setCmd s (failPart c stDestLost 0)
  else if !keyOk s c.ctx then setCmd s (failPart c stKeyInvalid 0)
  else
  let s := if c.ctx = 0 then s
    else cacheInval s c.block (fun l => decide (l.die = epDie s c.block) && decide (l.home = c.dst) && decide (l.region = r.region))
  let u := unitOfBlock s c.block
  let src := if c.ctx = 0 then (ownFid s).getD 0 else (blockFid s c.block).getD 0
  let h : Header := { blankHdr with
    cls := classOf s c.block c.queue, dst := c.dst, src := src, flags := flagsOf true (ctxEnc s c.ctx) false false false false,
    burgee := burgeeOf c.ctx ((sendEpoch s c.ctx).getD 0), tag := BitVec.ofNat 16 (u * 512 + builtBy s u % 512),
    hint := BitVec.ofNat 8 (builtBy s u), region := r.region, sgen := genOf s src, dgen := genOf s c.dst }
  firstSend s u { hdr := h, body := [] } (.ownXfer { hdr := h, forced := decide (c.ctx = 0), newOwner := xfOwner d }) (some c.id) none

/-! ## XLATE_INVAL (R120 to R124, R229, R230) -/

def xiScope (d : Bytes) : Nat := bits (fieldAt d 24 1) 3 0
def xiBase (d : Bytes) : Nat := fieldAt d 32 6
def xiCount (d : Bytes) : Nat := fieldAt d 40 6
def xiHandle (d : Bytes) : Word := BitVec.ofNat 32 (fieldAt d 48 4)

/-- The context whose translations an invalidate names: 0 names the issuing one. -/
def xiTarget (c : CtxId) (d : Bytes) : CtxId :=
  let t : CtxId := BitVec.ofNat 20 (bits (fieldAt d 28 3) 19 0)
  if t = 0 then c else t

/-- The acceptance check of XLATE_INVAL: what the descriptor alone breaks comes before the state of the context that it names, whose mirror
and rank table bound the range (R176, R230). -/
def checkInval (s : State) (c : Cmd) : State × Verdict :=
  let d := c.desc
  let sc := xiScope d
  let t := xiTarget c.ctx d
  let raw := bits (fieldAt d 28 3) 19 0
  let clean := decide (bits (fieldAt d 24 1) 7 4 = 0) && reservedZero d 25 28 && decide (bits (fieldAt d 28 3) 23 20 = 0) &&
    reservedZero d 31 32 && reservedZero d 38 40 && reservedZero d 46 48 && reservedZero d 52 64 && decide (sc ≤ 4)
  let who := if c.ctx = 0 then decide (raw ≠ 0) || decide (sc = 1 ∨ sc = 2) else decide (t = c.ctx)
  let ranged := decide (sc = 0 ∨ sc = 3) || (decide (xiBase d = 0) && decide (xiCount d = 0))
  let handled := if sc = 1 then !isWindow (xiHandle d) else if sc = 2 then isWindow (xiHandle d) else decide (xiHandle d = 0)
  let ranges := if sc = 0 then decide (xiBase d % 65536 = 0) && decide (xiCount d % 65536 = 0) && decide (0 < xiCount d) &&
      decide (xiBase d + xiCount d ≤ 2 ^ 48)
    else if sc = 3 then decide (xiBase d < 65536) && decide (1 ≤ xiCount d) && decide (xiCount d ≤ 65536) &&
      decide (xiBase d + xiCount d ≤ 65536)
    else true
  if !(clean && who && ranged && handled && ranges) then (s, protocolV)
  else if c.ctx = 0 ∧ raw ≠ 0 ∧ (ctxOf s t).isNone then (s, stateV)
  else if (if sc = 0 then !isConvert s t else if sc = 3 then decide (xiBase d + xiCount d ≤ rankCountOf s t) else true) then (s, .go 0)
  else (s, protocolV)

/-- The rank that a command with a remote operand names. -/
def rankOfCmd (d : Bytes) : Option Nat :=
  if isOp 0x20 d then some (remoteOp d 36).rank
  else if (descHdr d).opcode ∈ [0x01, 0x02, 0x03, 0x10, 0x21, 0x40] then some (remoteOp d 24).rank
  else none

/-- Whether two ranges of addresses meet. -/
def rangesMeet (a n base count : Nat) : Bool := decide (a < base + count) && decide (base < a + n)

/-- Whether an invalidate names what a tag stands for (R121). The entries of regions and windows are tagged by their handle
alone (R112). -/
def namesTag (iv : Cmd) (t : CacheTag) : Bool :=
  let d := iv.desc
  let sc := xiScope d
  let mine := decide (t.ctx = xiTarget iv.ctx d)
  if sc = 0 then mine && (decide (t.kind = .node) || (decide (t.kind = .leaf) && rangesMeet t.key t.size (xiBase d) (xiCount d)))
  else if sc = 3 then mine && decide (t.kind = .rank) && rangesMeet t.key t.size (xiBase d) (xiCount d)
  else if sc = 4 then mine && decide (t.kind ≠ .entry)
  else decide (t.via = some (xiHandle d))

/-- The blocks that an invalidate acts on (R122). -/
def invalActs (s : State) (iv : Cmd) (b : Nat) : Bool :=
  if xiScope iv.desc = 1 ∨ xiScope iv.desc = 2 then decide (b = iv.block) else isResident s b (xiTarget iv.ctx iv.desc)

/-- Whether a transfer that started before an invalidate did uses a translation or a rank that it names, and has not retired
(R123). `nextTile` of a started invalidate is where the free counter stood at its start. -/
def usesOld (s : State) (iv x : Cmd) : Bool :=
  let d := iv.desc
  let sc := xiScope d
  x.held.any (fun h => decide (h.no ≤ iv.nextTile) && h.pages.any (namesTag iv) && heldBusy s x.id h) && invalActs s iv x.block ||
  (decide (sc = 3 ∨ sc = 4) && decide (x.ctx = xiTarget iv.ctx d) && decide (x.rankNo < iv.nextTile) && decide (x.phase = .started) &&
    (outstanding s x.id || !x.sentAll) &&
    (match rankOfCmd x.desc with
     | none => false
     | some r => decide (sc = 4) || rangesMeet r 1 (xiBase d) (xiCount d)))

/-- Whether an aperture access resolved a rank that an invalidate names before the invalidate started, and is not answered yet (R123,
R427). -/
def apertureUses (iv : Cmd) (a : Aperture) : Bool :=
  let d := iv.desc
  decide (xiScope d = 3 ∨ xiScope d = 4) && a.sent && decide (a.ctx = xiTarget iv.ctx d) && decide (a.rankNo < iv.nextTile) &&
  (decide (xiScope d = 4) || rangesMeet (bits a.addr.toNat 63 48) 1 (xiBase d) (xiCount d))

/-- Whether an attach request serves a packet that came through a translation that an invalidate names, before the invalidate started
(R123). -/
def homeUses (s : State) (iv : Cmd) (r : AttachReq) : Bool :=
  let at_ := match r.use with
    | .homeWrite _ b _ => some b
    | .homeAtomic _ b _ => some b
    | .homeRead b _ => some b
    | _ => none
  match at_ with
  | none => false
  | some b => decide (r.no ≤ iv.nextTile) && invalActs s iv b && r.pages.any (namesTag iv)

/-- Whether an invalidate may write its pennant: no older user of what it names is left, and no older invalidate that the
block accepted for the context is (R123, R124). -/
def invalMet (s : State) (c : Cmd) : Bool :=
  !s.cmds.any (usesOld s c) && !s.apertures.any (apertureUses c) && !s.attReqs.any (homeUses s c) &&
  !s.cmds.any (fun x => decide (x.id < c.id) && decide (x.block = c.block) && isOp 0x41 x.desc &&
    decide (xiTarget x.ctx x.desc = xiTarget c.ctx c.desc))

/-- The held commands whose rank an invalidate names, at every block, resident or parked there: they resolve it anew when they start
(R120, R123). -/
def markStale (s : State) (iv : Cmd) : State :=
  let sc := xiScope iv.desc
  let hit := fun (x : Cmd) => decide (sc = 3 ∨ sc = 4) && decide (x.phase = .accepted) && decide (x.ctx = xiTarget iv.ctx iv.desc) &&
    decide (x.ctx ≠ 0) &&
    (match rankOfCmd x.desc with
     | none => false
     | some r => decide (sc = 4) || rangesMeet r 1 (xiBase iv.desc) (xiCount iv.desc))
  { s with cmds := s.cmds.map (fun x => if hit x then { x with stale := true } else x) }

/-- The owners that the block holds for entries that an invalidate of their handle names: the next check reads the table (R104, R120). -/
def dropOwners (s : State) (iv : Cmd) : State :=
  if xiScope iv.desc = 1 ∨ xiScope iv.desc = 2 then { s with owners := Tab.del s.owners (iv.block, xiHandle iv.desc) } else s

/-- The start of XLATE_INVAL: what it names leaves the caches. It sends no packet, and completes now or once the older users
have retired (R123). The command itself counts as sent; `tilesLeft` 1 says that it waits. -/
def startInval (s : State) (c : Cmd) : State :=
  let c := { c with sentAll := true, nextTile := s.fresh }
  let s := dropTables { s with fresh := s.fresh + 1 } (fun e => invalActs s c e.block && namesTag c e.tag)
  setCmd (dropOwners (markStale s c) c) { c with tilesLeft := if invalMet s c then 0 else 1 }

/-! ## The rows -/

/-- WRITE (R209). -/
def execWrite (block queue : Nat) (s : State) : Result := .next (acceptRun s block queue (isOp 0x01) checkWrite startWrite)
/-- READ (R209). -/
def execRead (block queue : Nat) (s : State) : Result := .next (acceptRun s block queue (isOp 0x02) checkReadCmd startRead)
/-- VREAD (R209). -/
def execVread (block queue : Nat) (s : State) : Result := .next (acceptRun s block queue (isOp 0x03) checkReadCmd startRead)
/-- ATOMIC (R211). -/
def execAtomic (block queue : Nat) (s : State) : Result := .next (acceptRun s block queue (isOp 0x10) checkAtomic startAtomic)
/-- COPY_PUSH (R225). -/
def execCopyPush (block queue : Nat) (s : State) : Result := .next (acceptRun s block queue (isOp 0x20) checkPush startCopy)
/-- COPY_PULL (R225). -/
def execCopyPull (block queue : Nat) (s : State) : Result := .next (acceptRun s block queue (isOp 0x21) checkPull startCopy)
/-- COPY_LOCAL (R225). -/
def execCopyLocal (block queue : Nat) (s : State) : Result := .next (acceptRun s block queue (isOp 0x22) checkLocal startCopy)
/-- FENCE (R226). -/
def execFence (block queue : Nat) (s : State) : Result := .next (acceptRun s block queue (isOp 0x30) checkFence startFence)
/-- CHECK with OP ACCUMULATE (R90); a reserved OP completes here with PROTOCOL. -/
def execCheckAccumulate (block queue : Nat) (s : State) : Result :=
  .next (acceptRun s block queue (fun d => isOp 0x31 d && decide (ckOp d = 0 ∨ ckOp d = 3)) checkCheck startAccumulate)
/-- CHECK with OP READ (R90). -/
def execCheckRead (block queue : Nat) (s : State) : Result :=
  .next (acceptRun s block queue (fun d => isOp 0x31 d && decide (ckOp d = 1)) checkCheck startCheckRead)
/-- CHECK with OP LOAD (R90). -/
def execCheckLoad (block queue : Nat) (s : State) : Result :=
  .next (acceptRun s block queue (fun d => isOp 0x31 d && decide (ckOp d = 2)) checkCheck startCheckLoad)
/-- OWN_XFER (R154). -/
def execOwnXfer (block queue : Nat) (s : State) : Result := .next (acceptRun s block queue (isOp 0x40) checkXfer startXfer)
/-- XLATE_INVAL (R123). -/
def execXlateInval (block queue : Nat) (s : State) : Result := .next (acceptRun s block queue (isOp 0x41) checkInval startInval)

end Sys2Proof.Machine
end

