-- ==== Sys2Proof/Machine/Contexts.lean ====
section
/-!
DEFINITION. The queue, context and counter commands (R182 to R184, R190 to R192), the enabling of host queues at entry to
SERVICE (R170), and the context scheduler (R193 to R195).
-/
namespace Sys2Proof.Machine

open Sys2Proof

/-- An executed command that ends with a status: STATE_REJECTED is counted and logged (R177). -/
def endCmd (s : State) (c : Cmd) (status : Byte) (result : DWord) : State :=
  if status = stStateRejected then rejectCmd s c status result else completeCmd s c status result [] false

/-- The end of a command whose queue table entry or context descriptor could not be read: a local fault, counted (R119, R184, R191). -/
def endTableFault (s : State) (c : Cmd) : State :=
  endCmd (countXlateFault s c.block) c stFaultUnmapped (faultWord 0 .tableRead 0)

/-! ## CTX_DEFINE (R190 to R192) -/

/-- The smallest definition slot that no context holds (R192). -/
def freeSlot (s : State) : Nat :=
  ((List.range (s.ctxs.length + 1)).find? (fun i => s.ctxs.all (fun c => decide (c.2.slot ≠ i)))).getD s.ctxs.length

/-- What a context has at a block when it is defined: counters at 0 and channels at 0 (R178, R91). -/
def freshAtBlock (x : Context) : CtxAtBlock :=
  { counters := List.replicate x.counters 0, channels := List.replicate x.channels 0, resident := false, admittedAt := 0,
    admitNo := 0, recGen := 0 }

/-- A key store entry with no key (R438). -/
def KeyEntry.blank : KeyEntry := { live := [], send := none, harbour := none, claim := none, retired := [] }

/-- A context defined at the blocks of its mask. -/
def defineCtx (s : State) (id : CtxId) (x : Context) : State :=
  let blocks := (List.range 32).filter (fun b => x.blocks.getLsbD b)
  let s := { s with ctxs := Tab.put s.ctxs id x }
  let s := { s with sec := { s.sec with keys := if Tab.has s.sec.keys id then s.sec.keys else Tab.put s.sec.keys id KeyEntry.blank } }
  blocks.foldl (fun s b => setAtBlock s b id (freshAtBlock x)) s

/-- The acceptance check of CTX_DEFINE. -/
def checkDefine (s : State) (c : Cmd) : State × Verdict :=
  if c.ctx = 0 ∧ fieldAt c.desc 24 8 % 64 = 0 ∧ reservedZero c.desc 32 64 then (s, .go 0) else (s, protocolV)

/-- The start of CTX_DEFINE: the descriptor is read from host memory, checked and copied (R191). -/
def startDefine (s : State) (c : Cmd) : State :=
  match hostRead s (fieldAt c.desc 24 8) 64 with
  | .error _ => endTableFault (noteHostRead s (hostAddr (fieldAt c.desc 24 8)) 64) c
  | .ok bs =>
    if !contextOk bs s.variant (spineRole s) then endCmd s c stProtocol 0
    else
      let p := contextOf bs (freeSlot s)
      if Tab.has s.ctxs p.1 ∨ 65536 ≤ s.ctxs.length then endCmd s c stStateRejected 0
      else endCmd (defineCtx s p.1 p.2) c stOk 0

/-! ## QUEUE_ENABLE and QUEUE_DISABLE (R170, R183, R184) -/

def qeQueue (d : Bytes) : Nat := bits (fieldAt d 24 2) 9 0
def qeBlock (d : Bytes) : Nat := bits (fieldAt d 24 2) 14 10

/-- Where a queue's entry lies in the block's queue table in host memory (R169). -/
def entryAt (s : State) (b q : Nat) : Nat := pairBase s (epBase b + 0xB00) (epBase b + 0xB04) 12 + q * 64

/-- The read of a queue's entry. -/
def readEntry (s : State) (b q : Nat) : Except MemFaultKind Bytes := hostRead s (entryAt s b q) 64

/-- Whether a block is in service with its queue table enabled. -/
def tableOn (s : State) (b : Nat) : Bool := decide (b < blockCount s.variant) && blockServes s b && regBit s (epBase b + 0xB00) 0

/-- The acceptance check that QUEUE_ENABLE and QUEUE_DISABLE share. -/
def queueOperandOk (c : Cmd) : Bool :=
  decide (c.ctx = 0) && !bit (fieldAt c.desc 24 2) 15 && decide (qeQueue c.desc < 520) && reservedZero c.desc 26 64

def checkEnable (s : State) (c : Cmd) : State × Verdict :=
  if !queueOperandOk c then (s, protocolV)
  else if (queueOf s (qeBlock c.desc) (qeQueue c.desc)).isSome ∨ !tableOn s (qeBlock c.desc) then (s, stateV)
  else (s, .go 0)

def checkDisable (s : State) (c : Cmd) : State × Verdict :=
  if !queueOperandOk c then (s, protocolV)
  else match queueOf s (qeBlock c.desc) (qeQueue c.desc) with
    | none => (s, stateV)
    | some x => if x.takingDoorbells then (s, .go 0) else (s, stateV)

/-- The start of QUEUE_ENABLE: the entry is read and checked (R170, R184). -/
def startEnable (s : State) (c : Cmd) : State :=
  let b := qeBlock c.desc
  let q := qeQueue c.desc
  if (queueOf s b q).isSome ∨ !tableOn s b then endCmd s c stStateRejected 0
  else match readEntry s b q with
    | .error _ => endTableFault (noteHostRead s (hostAddr (entryAt s b q)) 64) c
    | .ok bs =>
      let e := queueEntry bs
      if !queueEntryOk bs q (spineRole s) then endCmd (countBadEntry s b) c stProtocol 0
      else if e.ctx ≠ 0 ∧ !definedAt s e.ctx b then endCmd s c stStateRejected 0
      else endCmd (setQueue s b q (enabledQueue e)) c stOk 0

/-- The start of QUEUE_DISABLE: it completes after the queue's last pennant (R184). -/
def startDisable (s : State) (c : Cmd) : State :=
  let b := qeBlock c.desc
  let q := qeQueue c.desc
  match queueOf s b q with
  | none => endCmd s c stStateRejected 0
  | some x =>
    if !x.takingDoorbells then endCmd s c stStateRejected 0
    else
      let s := setCmd s { c with sentAll := true, tilesLeft := 1 }
      closeQueue (disableQueue s b q (some c.id) (descHdr c.desc).userTag) b q

/-- A host queue enabled at entry to SERVICE where its entry asks for it, or left disabled with a record (R170). -/
def enableHostQueue (s : State) (b q : Nat) : State :=
  match readEntry s b q with
  | .error _ => logCommand (noteHostRead s (hostAddr (entryAt s b q)) 64) b q 0 0 0 0 170
  | .ok bs =>
    let e := queueEntry bs
    if !e.initEn then s
    else if !queueEntryOk bs q (spineRole s) then logCommand (countBadEntry s b) b q 0 0 0 0 170
    else if e.ctx = 0 then setQueue s b q (enabledQueue e)
    else logCommand s b q 0 0 0 0 170

/-- The host queues of every block in service whose queue table is enabled (R170). -/
def enableHostQueues (s : State) : State :=
  ((List.range (blockCount s.variant)).filter (tableOn s)).foldl
    (fun s b => (List.range 8).foldl (fun s i => enableHostQueue s b (512 + i)) s) s

/-! ## Counters and NOP (R182, R183) -/

def ctrNo (d : Bytes) : Nat := bits (fieldAt d 24 2) 11 0
def ctrValue (d : Bytes) : DWord := BitVec.ofNat 64 (fieldAt d 32 8)

/-- The operands of CTR_WRITE, CTR_ADD and CTR_READ: context 0 has no counter. -/
def ctrOk (s : State) (c : Cmd) : Bool :=
  decide (bits (fieldAt c.desc 24 2) 15 12 = 0) && reservedZero c.desc 26 32 && decide (ctrNo c.desc < countersOf s c.ctx) &&
  (if isOp 0xE6 c.desc then reservedZero c.desc 32 64 else reservedZero c.desc 40 64)

def checkCtr (s : State) (c : Cmd) : State × Verdict := if ctrOk s c then (s, .go 0) else (s, protocolV)
def checkNop (s : State) (c : Cmd) : State × Verdict := if reservedZero c.desc 24 64 then (s, .go 0) else (s, protocolV)

def startCtrWrite (s : State) (c : Cmd) : State := endCmd (setCounter s c.block c.ctx (ctrNo c.desc) (ctrValue c.desc)) c stOk 0
def startCtrAdd (s : State) (c : Cmd) : State :=
  endCmd (setCounter s c.block c.ctx (ctrNo c.desc) (counterOf s c.block c.ctx (ctrNo c.desc) + ctrValue c.desc)) c stOk 0
def startCtrRead (s : State) (c : Cmd) : State := endCmd s c stOk (counterOf s c.block c.ctx (ctrNo c.desc))
def startNop (s : State) (c : Cmd) : State := endCmd s c stOk 0

/-! ## The scheduler (R193 to R195) -/

/-- The contexts resident at a block, with what they have there. -/
def residents (s : State) (b : Nat) : List (CtxId × CtxAtBlock) :=
  (s.ctxBlocks.filter (fun e => decide (e.1.1 = b) && e.2.resident)).map (fun e => (e.1.2, e.2))

/-- Whether a context's grants fit beside those of the resident contexts of a block (R193). -/
def fits (s : State) (b : Nat) (c : CtxId) : Bool :=
  let l := residents s b
  let sum := fun (f : Context → Nat) => (l.map (fun e => match ctxOf s e.1 with
    | none => 0
    | some x => f x)).foldl (· + ·) 0
  match ctxOf s c with
  | none => false
  | some x => decide (l.length < 32) && decide (sum (·.channels) + x.channels ≤ 64) && decide (sum (·.counters) + x.counters ≤ 4096)

/-- Whether a queue of a block has something to start: a command that nothing but residency holds, or a descriptor that
can be accepted. -/
def queueRunnable (s : State) (b q : Nat) (x : Queue) : Bool :=
  let l := cmdsOf s b q
  l.any (fun c => decide (c.phase = .accepted) && waitMet s c && releaseMet s c) ||
  (l.all (allSent s) && (!x.fetched.isEmpty || decide (x.head ≠ x.tail)))

/-- Whether a resident context has a started or a runnable command at a block (R194). -/
def isBusy (s : State) (b : Nat) (c : CtxId) : Bool :=
  s.cmds.any (fun x => decide (x.block = b) && decide (x.ctx = c) && decide (x.phase = .started)) ||
  s.queues.any (fun e => decide (e.1.1 = b) && decide (e.2.entry.ctx = c) && queueRunnable s b e.1.2 e.2)

/-- A context's quantum in cell-clock cycles, and by how much its residency at a block exceeds it (R194). -/
def quantum (s : State) (b : Nat) (c : CtxId) : Nat := match ctxOf s c with
  | none => 0
  | some x => us (x.weight * regField s (epBase b + 0xB08) 15 0)
def excess (s : State) (b : Nat) (e : CtxId × CtxAtBlock) : Nat := s.now - e.2.admittedAt - quantum s b e.1

/-- The victim of a block among the contexts beyond their quanta: one that is being parked, else an idle one, else the one furthest
over, the earliest admitted among equals; none where every context is within its quantum (R194, R195). -/
def victim (s : State) (b : Nat) : Option CtxId :=
  let l := residents s b
  let older := fun (x y : CtxId × CtxAtBlock) => decide (x.2.admitNo < y.2.admitNo)
  let beyond := l.filter (fun e => decide (0 < excess s b e))
  let idleOnes := beyond.filter (fun e => !isBusy s b e.1)
  let pick := fun (better : CtxId × CtxAtBlock → CtxId × CtxAtBlock → Bool) (xs : List (CtxId × CtxAtBlock)) =>
    xs.foldl (fun acc e => match acc with
      | none => some e
      | some a => if better e a then some e else some a) (none : Option (CtxId × CtxAtBlock))
  match pick older (l.filter (fun e => e.2.parking)), pick older idleOnes with
  | some e, _ => some e.1
  | none, some e => some e.1
  | none, none => (pick (fun x y => decide (excess s b y < excess s b x) || (decide (excess s b x = excess s b y) && older x y)) beyond).map (·.1)

/-- Whether started bulk-copy tiles of a context at a block have not retired (R195, step 2). A tile of a push retires when its bytes have
been read, which is at its start (R123, log 151): what it sent runs on. -/
def tilesOut (s : State) (b : Nat) (c : CtxId) : Bool :=
  s.cmds.any (fun x => decide (x.block = b) && decide (x.ctx = c) && (isOp 0x21 x.desc || isOp 0x22 x.desc) && outstanding s x.id)

/-- A context parked at a block (R195). -/
def park (s : State) (b : Nat) (c : CtxId) : State := match atBlock s c b with
  | none => s
  | some x =>
    let s := dropTables (setAtBlock s b c { x with resident := false, parking := false }) (fun e =>
      decide (e.block = b) && decide (e.tag.ctx = c) && decide (e.tag.kind ≠ .entry))
    cacheInval s b (fun l => decide (l.die = epDie s b) && decide (l.ctx = c))

/-- A victim chosen: it starts nothing more, and is parked once its started tiles have retired (R195, steps 1 and 2). -/
def beginPark (s : State) (b : Nat) (c : CtxId) : State :=
  if tilesOut s b c then (match atBlock s c b with
    | none => s
    | some x => setAtBlock s b c { x with parking := true })
  else park s b c

/-- The victims whose tiles have retired parked. -/
def finishParks (s : State) : State :=
  (s.ctxBlocks.filter (fun e => e.2.parking && !tilesOut s e.1.1 e.1.2)).foldl (fun s e => park s e.1.1 e.1.2) s

/-- A command that waits for its context: one accepted is completed, and a copy between two tiles starts no more of them and completes
once what it has sent is answered. -/
def failPending (s : State) (x : Cmd) (status : Byte) : State := match cmdOf s x.id with
  | none => s
  | some x =>
    if x.phase = .accepted then completeCmd s x status 0 [] false
    else finishCmd (setCmd s { failPart x status 0 with sentAll := true }) x.id

/-- A context whose record does not open is not admitted: its pending commands at the block, those between two tiles with them, complete
with CHECK_FAILED, and the event is logged (R464). -/
def refuseReload (s : State) (b : Nat) (c : CtxId) : State :=
  let s := { s with admitNext := Tab.put s.admitNext b ((Tab.getD s.admitNext b []).erase c) }
  let mine := s.cmds.filter (fun x => decide (x.block = b) && decide (x.ctx = c) && (decide (x.phase = .accepted) || betweenTiles x))
  let s := match ctxOf s c with
    | none => s
    | some y => noteRecordRead s b y.slot
  logSecurity (mine.foldl (fun s x => failPending s x stCheckFailed) s) c 0 0 0 464

/-- The head candidate of a block admitted, with victims parked until it fits; it waits where there is no victim, or where one has
started tiles (R194, R195). `fuel` bounds the victims. -/
def admitHead (b : Nat) (c : CtxId) : Nat → State → State
  | 0, s => s
  | fuel + 1, s =>
    if fits s b c then
      (match atBlock s c b with
       | none => s
       | some x =>
         if !recordOpens s b c x then refuseReload s b c else
         let s := bump { s with fresh := s.fresh + 1 } (epBase b + 0xB18)
         let s := { s with admitNext := Tab.put s.admitNext b ((Tab.getD s.admitNext b []).erase c) }
         setAtBlock s b c { x with resident := true, admittedAt := s.now, admitNo := s.fresh })
    else match victim s b with
      | none => s
      | some v => if tilesOut s b v then beginPark s b v else admitHead b c fuel (park s b v)

/-- The scheduler's attempt at the head candidate of a block. -/
def admitContext (s : State) (b : Nat) : State := match Tab.getD s.admitNext b [] with
  | [] => s
  | c :: _ => admitHead b c 33 s

/-! ## The rows -/

/-- CTX_DEFINE (R191). -/
def execCtxDefine (block queue : Nat) (s : State) : Result := .next (acceptRun s block queue (isOp 0xE0) checkDefine startDefine)
/-- QUEUE_ENABLE (R184). -/
def execQueueEnable (block queue : Nat) (s : State) : Result := .next (acceptRun s block queue (isOp 0xE1) checkEnable startEnable)
/-- QUEUE_DISABLE (R184). -/
def execQueueDisable (block queue : Nat) (s : State) : Result := .next (acceptRun s block queue (isOp 0xE2) checkDisable startDisable)
/-- CTR_WRITE (R182). -/
def execCtrWrite (block queue : Nat) (s : State) : Result := .next (acceptRun s block queue (isOp 0xE4) checkCtr startCtrWrite)
/-- CTR_ADD (R182). -/
def execCtrAdd (block queue : Nat) (s : State) : Result := .next (acceptRun s block queue (isOp 0xE5) checkCtr startCtrAdd)
/-- CTR_READ (R182). -/
def execCtrRead (block queue : Nat) (s : State) : Result := .next (acceptRun s block queue (isOp 0xE6) checkCtr startCtrRead)
/-- NOP (R182); a descriptor with a reserved opcode completes here with PROTOCOL (R206, log 33). -/
def execNop (block queue : Nat) (s : State) : Result :=
  .next (acceptRun s block queue (fun d => isOp 0xE7 d || !knownOpcode (descHdr d).opcode) checkNop startNop)

end Sys2Proof.Machine
end

