-- ==== Sys2Proof/Machine/Programs.lean ====
section
/-!
DEFINITION. Element programs: the image and its check (R297, R298), the instructions (R285 to R293, R295), the run of one
element (R282), and the commands PROG_LOAD and PROG_UNLOAD (R299 to R302).
-/
namespace Sys2Proof.Machine

open Sys2Proof

/-! ## The instruction word (R285) -/

/-- An instruction, field by field. -/
structure PInstr where
  opc  : Nat
  pred : Nat
  pneg : Bool
  dst  : Nat
  srcA : Nat
  srcB : Nat
  srcC : Nat
  rm   : Nat
  fmt  : Nat
  fmt2 : Nat
  aux  : Nat
  deriving DecidableEq, Repr

/-- The instruction that 64 bits spell. -/
def pinstr (w : Nat) : PInstr :=
  { opc := bits w 63 56, pred := bits w 55 53, pneg := bit w 52, dst := bits w 51 47, srcA := bits w 46 41, srcB := bits w 40 35,
    srcC := bits w 34 29, rm := bits w 28 26, fmt := bits w 25 18, fmt2 := bits w 17 10, aux := bits w 9 0 }

/-- Opcodes (R287). -/
def poFadd : Nat := 0x10
def poFsub : Nat := 0x11
def poFmul : Nat := 0x12
def poFfma : Nat := 0x13
def poFdiv : Nat := 0x14
def poFsqrt : Nat := 0x15
def poFrsqrt : Nat := 0x16
def poFmin : Nat := 0x17
def poFmax : Nat := 0x18
def poFabs : Nat := 0x19
def poFneg : Nat := 0x1A
def poFcmp : Nat := 0x1B
def poMov : Nat := 0x20
def poSel : Nat := 0x21
def poPlog : Nat := 0x22
def poCvt : Nat := 0x30
def poA2f : Nat := 0x31
def poHash : Nat := 0x50
def poAcc : Nat := 0x51
def poSto : Nat := 0x52

/-- Whether an opcode is a floating-point one, an integer one, defined. -/
def isFpOp (o : Nat) : Bool := decide (0x10 ≤ o) && decide (o ≤ 0x1B)
def isIntOp (o : Nat) : Bool := decide (0x40 ≤ o) && decide (o ≤ 0x4B)
def isPop (o : Nat) : Bool :=
  isFpOp o || isIntOp o || decide (o = poMov ∨ o = poSel ∨ o = poPlog ∨ o = poCvt ∨ o = poA2f ∨ o = poHash ∨ o = poAcc ∨ o = poSto)

/-- Whether an instruction reads its operand A, B and C. -/
def usesA (i : PInstr) : Bool := decide (i.opc ≠ poPlog) && decide (i.opc ≠ poA2f) && decide (i.opc ≠ poHash)
def usesB (i : PInstr) : Bool :=
  decide (i.opc = poFadd ∨ i.opc = poFsub ∨ i.opc = poFmul ∨ i.opc = poFfma ∨ i.opc = poFdiv ∨ i.opc = poFmin ∨ i.opc = poFmax ∨
    i.opc = poFcmp ∨ i.opc = poSel) ||
  (isIntOp i.opc && !decide (0x46 ≤ i.opc ∧ i.opc ≤ 0x48)) ||
  (decide (i.opc = poCvt) && (isMx i.fmt || isMx i.fmt2)) || (decide (i.opc = poAcc) && decide (i.aux % 4 = 2))
def usesC (i : PInstr) : Bool := decide (i.opc = poFfma)

/-- Whether an instruction writes a predicate, and whether it writes a register. -/
def writesQ (i : PInstr) : Bool := decide (i.opc = poFcmp ∨ i.opc = poPlog ∨ i.opc = 0x49)
def writesV (i : PInstr) : Bool := !writesQ i && decide (i.opc ≠ poAcc) && decide (i.opc ≠ poSto)

/-! ## The check of an image (R298) -/

/-- Whether FMT is legal for an opcode. -/
def fmtLegal (i : PInstr) : Bool :=
  if isFpOp i.opc ∨ i.opc = poA2f then decide (i.fmt = 1 ∨ i.fmt = 2)
  else if isIntOp i.opc then isInt i.fmt
  else if i.opc = poCvt then isFmt i.fmt
  else if i.opc = poAcc then decide (i.fmt = 2)
  else decide (i.fmt = 0)

/-- Whether AUX is legal for an opcode. -/
def auxLegal (i : PInstr) : Bool :=
  if i.opc = poFcmp ∨ i.opc = poSel then decide (i.aux < 8)
  else if i.opc = poPlog then decide (i.aux < 4)
  else if 0x46 ≤ i.opc ∧ i.opc ≤ 0x48 then decide (i.aux < elemBits i.fmt)
  else if i.opc = 0x49 then decide (i.aux < 6)
  else if i.opc = poHash then decide (i.aux < 512)
  else if i.opc = poAcc then decide (i.aux < 3)
  else if i.opc = poSto then decide (i.aux < 5)
  else decide (i.aux = 0)

/-- Whether every field of an instruction is legal for its opcode, a predicated STO apart (reason 0x04). -/
def fieldsLegal (i : PInstr) : Bool :=
  fmtLegal i && auxLegal i && (if i.opc = poCvt then isFmt i.fmt2 else decide (i.fmt2 = 0)) &&
  (if isFpOp i.opc ∨ i.opc = poCvt ∨ i.opc = poA2f then decide (i.rm ≤ 4 ∨ i.rm = 7) else decide (i.rm = 0)) &&
  (if writesQ i then decide (1 ≤ i.dst) && decide (i.dst < 8) else writesV i || decide (i.dst = 0)) &&
  (usesA i || decide (i.srcA = 0) || (decide (i.opc = poPlog) && decide (i.srcA < 8))) &&
  (usesB i || decide (i.srcB = 0) || (decide (i.opc = poPlog) && decide (i.srcB < 8))) && (usesC i || decide (i.srcC = 0))

/-- Whether an instruction names an MX format, which is legal only with feature bit 4 accepted (R35, R207). -/
def namesMx (i : PInstr) : Bool := decide (i.opc = poCvt) && (isMx i.fmt || isMx i.fmt2)

/-- The operand selectors that an instruction reads. -/
def operands (i : PInstr) : List Nat :=
  (if usesA i then [i.srcA] else []) ++ (if usesB i then [i.srcB] else []) ++ (if usesC i then [i.srcC] else [])

/-- The header of an image (R297). -/
def pgCount (img : Bytes) : Nat := fieldAt img 4 2
def pgFlag (img : Bytes) (i : Nat) : Bool := (byteAt img 3).getLsbD i
def pgReadsRedF (img : Bytes) : Bool := pgFlag img 0
def pgReadsSum (img : Bytes) : Bool := pgFlag img 1
def pgDelivers (img : Bytes) : Bool := pgFlag img 2
def pgAcc (img : Bytes) : Bool := pgFlag img 3
def pgAcc64 (img : Bytes) : Bool := pgFlag img 4
def pgIn (img : Bytes) (n : Nat) : Nat := (byteAt img (8 + n)).toNat
def pgOut (img : Bytes) (n : Nat) : Nat := (byteAt img (12 + n)).toNat

/-- The instructions of an image. -/
def pgCode (img : Bytes) : List PInstr := (List.range (pgCount img)).map (fun i => pinstr (fieldAt img (64 + 8 * i) 8))

/-- Whether a stream's format code is legal: none, or one without a scale. -/
def streamOk (c : Nat) : Bool := decide (c = 0) || (isFmt c && !isMx c)

/-- Reason 0x01: the header. -/
def headerLegal (img : Bytes) : Bool :=
  decide (fieldAt img 0 2 = 0xE1F0) && decide (byteAt img 2 = 1) && decide ((byteAt img 3).toNat < 32) &&
  (pgAcc img || !pgAcc64 img) && decide (1 ≤ pgCount img) && decide (pgCount img ≤ 512) && reservedZero img 6 8 &&
  reservedZero img 24 64 &&
  [0, 1, 2, 3].all (fun n => streamOk (pgIn img n) && streamOk (pgOut img n) &&
    (decide (pgIn img n = 0) || decide (pgOut img n = 0) || decide (pgIn img n = pgOut img n)))

/-- Whether an operand selector is one that the image may read (reason 0x05). -/
def operandLegal (img : Bytes) (x : Nat) : Bool :=
  if x < 0x30 then true
  else if x < 0x34 then decide (pgIn img (x - 0x30) ≠ 0)
  else if x = 0x34 then pgReadsRedF img
  else decide (x = 0x35)

/-- Whether an output is declared. -/
def outDeclared (img : Bytes) (o : Nat) : Bool := if o = 4 then pgDelivers img else decide (pgOut img o ≠ 0)

/-- The first instruction, if any, that a test on it and its index condemns. -/
def firstBad (l : List PInstr) (bad : Nat → PInstr → Bool) : Option Nat :=
  (l.zipIdx.find? (fun p => bad p.2 p.1)).map (·.2)

/-- Whether an STO writes an undeclared output, one written before it, or is predicated (reason 0x06). -/
def stoBad (img : Bytes) (l : List PInstr) (n : Nat) (i : PInstr) : Bool :=
  decide (i.opc = poSto) &&
  (!outDeclared img i.aux || decide (i.pred ≠ 0) || i.pneg ||
    (l.take n).any (fun j => decide (j.opc = poSto) && decide (j.aux = i.aux)))

/-- Whether an instruction uses what a flag of byte 3 declares: RED_F, the exact sum, the accumulator. -/
def usesRedF (i : PInstr) : Bool := (operands i).any (fun x => decide (x = 0x34))
def usesSum (i : PInstr) : Bool := decide (i.opc = poA2f)
def usesAcc (i : PInstr) : Bool := decide (i.opc = poAcc)

/-- Reason 0x07: an instruction used without its flag. -/
def flagBad (img : Bytes) (i : PInstr) : Bool := (usesSum i && !pgReadsSum img) || (usesAcc i && !pgAcc img)

/-- The check word of R298: none where the image is well formed. `mx` says that MX format codes are legal; one that is not is an
illegal field of its instruction (R35, log 188). -/
def checkImage (mx : Bool) (img : Bytes) : Option Nat :=
  let l := pgCode img
  let word := fun (reason index : Nat) => some (reason * 2 ^ 16 + index)
  let at_ := fun (reason : Nat) (x : Option Nat) (next : Option Nat) => match x with
    | some i => word reason i
    | none => next
  if !headerLegal img then word 1 0xFFFF
  else if crc64 (slice img 64 (8 * pgCount img)) ≠ BitVec.ofNat 64 (fieldAt img 16 8) then word 2 0xFFFF
  else at_ 3 (firstBad l (fun _ i => !isPop i.opc))
    (at_ 4 (firstBad l (fun _ i => !fieldsLegal i || (namesMx i && !mx)))
    (at_ 5 (firstBad l (fun _ i => (operands i).any (fun x => !operandLegal img x)))
    (at_ 6 (firstBad l (stoBad img l))
    (if [0, 1, 2, 3, 4].any (fun o => outDeclared img o && !l.any (fun i => decide (i.opc = poSto) && decide (i.aux = o)))
      then word 6 0xFFFF
    else at_ 7 (firstBad l (fun _ i => flagBad img i))
      (if (pgReadsRedF img && !l.any usesRedF) || (pgReadsSum img && !l.any usesSum) || (pgAcc img && !l.any usesAcc)
        then word 7 0xFFFF else none)))))

/-- The program hash (R300). -/
def programHash (img : Bytes) : Bytes := sha384 img

/-! ## Exact arithmetic with a sticky bit (R288) -/

/-- The integer square root, bit by bit from bit `n - 1` down. -/
def isqrtFrom (x : Nat) : Nat → Nat → Nat
  | 0, r => r
  | n + 1, r => let t := r + 2 ^ n; if t * t ≤ x then isqrtFrom x n t else isqrtFrom x n r
def isqrt (x : Nat) : Nat := isqrtFrom x (Nat.log2 x / 2 + 1) 0

/-- A quotient of magnitudes with far more bits than any format keeps, the last bit saying whether it is inexact. -/
def quotient (m1 : Nat) (e1 : Int) (m2 : Nat) (e2 : Int) : Nat × Int :=
  let k := 256 + Nat.log2 m2
  let q := m1 * 2 ^ k / m2
  (2 * q + b01 (decide (q * m2 ≠ m1 * 2 ^ k)), e1 - e2 - k - 1)

/-- The square root of a magnitude, likewise. -/
def rootOf (m : Nat) (e : Int) : Nat × Int :=
  let t := 512 + (e % 2).toNat
  let r := isqrt (m * 2 ^ t)
  (2 * r + b01 (decide (r * r ≠ m * 2 ^ t)), (e - t) / 2 - 1)

/-- One over the square root of a magnitude, likewise. -/
def rsqrtOf (m : Nat) (e : Int) : Nat × Int :=
  let t := 512 + 2 * Nat.log2 m + (e % 2).toNat
  let r := isqrt (2 ^ t / m)
  (2 * r + b01 (decide (r * r * m ≠ 2 ^ t)), (-e - t) / 2 - 1)

/-- The sum of two values under a rounding mode: an exact zero sum of opposite values is -0 under mode 3 (R288). -/
def addUnder (mode : Nat) (x y : Num) : Num :=
  match x, y with
  | .fin n1 m1 e1, .fin n2 m2 e2 =>
    let p := addExact n1 m1 e1 n2 m2 e2
    if p.1 = 0 then .fin (if n1 = n2 then n1 else decide (mode = rndDown)) 0 0
    else .fin (decide (p.1 < 0)) p.1.natAbs p.2
  | x, y => addNum x y

/-- A value with its sign inverted, and with its sign cleared. -/
def Num.neg : Num → Num
  | .nan => .nan
  | .inf s => .inf (!s)
  | .fin s m e => .fin (!s) m e
def Num.abs : Num → Num
  | .nan => .nan
  | .inf _ => .inf false
  | .fin _ m e => .fin false m e

/-- Division (R288). -/
def divNum : Num → Num → Num
  | .nan, _ => .nan
  | _, .nan => .nan
  | .inf _, .inf _ => .nan
  | .inf a, .fin b _ _ => .inf (a != b)
  | .fin a _ _, .inf b => .fin (a != b) 0 0
  | .fin a m1 e1, .fin b m2 e2 =>
    if m2 = 0 then (if m1 = 0 then .nan else .inf (a != b))
    else if m1 = 0 then .fin (a != b) 0 0
    else .fin (a != b) (quotient m1 e1 m2 e2).1 (quotient m1 e1 m2 e2).2

/-- Square root and reciprocal square root (R288). -/
def sqrtNum : Num → Num
  | .nan => .nan
  | .inf s => if s then .nan else .inf false
  | .fin s m e => if m = 0 then .fin s 0 0 else if s then .nan else .fin false (rootOf m e).1 (rootOf m e).2
def rsqrtNum : Num → Num
  | .nan => .nan
  | .inf s => if s then .nan else .fin false 0 0
  | .fin s m e => if m = 0 then .inf s else if s then .nan else .fin false (rsqrtOf m e).1 (rsqrtOf m e).2

/-- FMIN and FMAX: the canonical NaN where either is one, and -0 below +0 (R289). -/
def minNum (x y : Num) : Num := if x = .nan ∨ y = .nan then .nan else if greater x y then y else x
def maxNum (x y : Num) : Num := if x = .nan ∨ y = .nan then .nan else if greater x y then x else y

/-- The order of two values that are no NaN: below, equal, above. -/
def orderNum : Num → Num → Int
  | .inf a, .inf b => if a = b then 0 else if a then -1 else 1
  | .inf a, _ => if a then -1 else 1
  | _, .inf b => if b then 1 else -1
  | .fin n1 m1 e1, .fin n2 m2 e2 => cmpExact n1 m1 e1 n2 m2 e2
  | _, _ => 0

/-- A condition on an order (R289). -/
def condOf (c : Nat) (o : Int) : Bool :=
  if c = 0 then decide (o = 0) else if c = 1 then decide (o ≠ 0) else if c = 2 then decide (o < 0) else if c = 3 then decide (o ≤ 0)
  else if c = 4 then decide (0 < o) else if c = 5 then decide (0 ≤ o) else decide (c = 7)

/-- FCMP. -/
def fcmp (c : Nat) (x y : Num) : Bool := if x = .nan ∨ y = .nan then decide (c = 1 ∨ c = 6) else condOf c (orderNum x y)

/-! ## The run of one element (R282 to R293, R295) -/

/-- What an element's run may read besides its registers: the parameter block, the IN values, RED_F, the exact sum, the
rounding mode of DYN, and the counter hash by its salt. -/
structure ElemEnv where
  params : Bytes
  ins    : List Nat
  redF   : Nat
  sum    : Num
  dyn    : Nat
  hash   : Nat → BitVec 64

/-- The registers of an element's run: vectors, predicates, outputs, the terms for the wide accumulator, and how often a
rounding overflowed or saturated. -/
structure Lane where
  v    : List Nat
  q    : List Bool
  outs : List (Option Nat)
  acc  : Wide
  ovf  : Nat
  deriving DecidableEq, Repr

/-- A run's start (R282). -/
def Lane.blank : Lane :=
  { v := List.replicate 32 0, q := true :: List.replicate 7 false, outs := List.replicate 5 none, acc := Wide.zero, ovf := 0 }

/-- An operand's 64 bits (R284, R286). -/
def operandOf (env : ElemEnv) (l : Lane) (x : Nat) : Nat :=
  if x < 0x20 then l.v.getD x 0
  else if x < 0x30 then fieldAt env.params (8 * (x - 0x20)) 8
  else if x < 0x34 then env.ins.getD (x - 0x30) 0
  else if x = 0x34 then env.redF
  else 0

/-- The rounding mode of an instruction. -/
def modeOf (env : ElemEnv) (i : PInstr) : Nat := if i.rm = 7 then env.dyn else i.rm

/-- The draw of the instruction at an index (R293). -/
def drawAt (env : ElemEnv) (salt : Nat) : Nat := (env.hash salt).toNat / 2 ^ 32

/-- A floating-point format of the programs. -/
def progFmt (c : Nat) : FloatFmt := if c = 1 then fp64 else fp32

/-- The result of a floating-point opcode before rounding, for values A, B and C. -/
def fpValue (opc mode : Nat) (a b c : Num) : Num :=
  if opc = poFadd then addUnder mode a b
  else if opc = poFsub then addUnder mode a b.neg
  else if opc = poFmul then mulNum a b
  else if opc = poFfma then addUnder mode (mulNum a b) c
  else if opc = poFdiv then divNum a b
  else if opc = poFsqrt then sqrtNum a
  else if opc = poFrsqrt then rsqrtNum a
  else if opc = poFmin then minNum a b
  else if opc = poFmax then maxNum a b
  else if opc = poFabs then a.abs
  else a.neg

/-- CVT: the encoding, and whether it sets status (R290). -/
def convert (i : PInstr) (mode r a b : Nat) : Nat × Bool :=
  let s := b % 256
  let x := if isMx i.fmt2 then decodeMx i.fmt2 s (a % 2 ^ elemBits i.fmt2) else decodePlain i.fmt2 (a % 2 ^ elemBits i.fmt2)
  if isMx i.fmt then (if s = 0xFF then (0, false) else mxElem i.fmt mode r ((s : Int) - 127) x)
  else if isInt i.fmt then
    match x with
    | .nan => (0, true)
    | .inf neg => (wrap (elemBits i.fmt) (if neg then (intLimits i.fmt).1 else (intLimits i.fmt).2), true)
    | .fin neg m e => roundInt i.fmt (signedOf neg (roundUnits mode r neg m e 0))
  else roundPlain i.fmt mode r x

/-- The result of an integer opcode that writes a register, on operands of w bits (R291). -/
def intValue (i : PInstr) (a b : Nat) : Nat :=
  let w := elemBits i.fmt
  let a := a % 2 ^ w
  let b := b % 2 ^ w
  let le := decide (decodeInt i.fmt a ≤ decodeInt i.fmt b)
  if i.opc = 0x40 then (a + b) % 2 ^ w
  else if i.opc = 0x41 then (a + 2 ^ w - b) % 2 ^ w
  else if i.opc = 0x42 then a * b % 2 ^ w
  else if i.opc = 0x43 then a &&& b
  else if i.opc = 0x44 then a ||| b
  else if i.opc = 0x45 then a ^^^ b
  else if i.opc = 0x46 then a * 2 ^ i.aux % 2 ^ w
  else if i.opc = 0x47 then a / 2 ^ i.aux
  else if i.opc = 0x48 then wrap w (signed w a / 2 ^ i.aux)
  else if i.opc = 0x4A then (if le then a else b)
  else (if le then b else a)

/-- The order of two integers of a format. -/
def intOrder (fmt a b : Nat) : Int := decodeInt fmt (a % 2 ^ elemBits fmt) - decodeInt fmt (b % 2 ^ elemBits fmt)

/-- PLOG's function of two predicates. -/
def plog (f : Nat) (x y : Bool) : Bool :=
  if f = 0 then x && y else if f = 1 then x || y else if f = 2 then x != y else x && !y

/-- The lane with a register, a predicate or an output written. -/
def Lane.setV (l : Lane) (i x : Nat) : Lane := { l with v := l.v.set i x }
def Lane.setQ (l : Lane) (i : Nat) (x : Bool) : Lane := { l with q := l.q.set i x }
def Lane.setOut (l : Lane) (i x : Nat) : Lane := { l with outs := l.outs.set i (some x) }

/-- A register written with a rounded result, whose overflow sets status. -/
def Lane.setRounded (l : Lane) (i : Nat) (p : Nat × Bool) : Lane := { l.setV i p.1 with ovf := l.ovf + b01 p.2 }

/-- The term that ACC adds (R295). -/
def accTerm (mode a b : Nat) : Num :=
  let x := decodeFloat fp32 (a % 2 ^ 32)
  if mode = 0 then x else if mode = 1 then mulNum x x else mulNum x (decodeFloat fp32 (b % 2 ^ 32))

/-- One instruction whose predicate holds, at an index of the program. -/
def runInstr (env : ElemEnv) (n : Nat) (i : PInstr) (l : Lane) : Lane :=
  let a := operandOf env l i.srcA
  let b := operandOf env l i.srcB
  let c := operandOf env l i.srcC
  let mode := modeOf env i
  if isFpOp i.opc then
    let f := progFmt i.fmt
    let x := fun v => decodeFloat f (v % 2 ^ f.width)
    if i.opc = poFcmp then l.setQ (i.dst % 8) (fcmp i.aux (x a) (x b))
    else l.setV i.dst (roundFloat f mode (drawAt env (512 + n)) (fpValue i.opc mode (x a) (x b) (x c))).1
  else if i.opc = poMov then l.setV i.dst a
  else if i.opc = poSel then l.setV i.dst (if l.q.getD i.aux false then a else b)
  else if i.opc = poPlog then l.setQ (i.dst % 8) (plog i.aux (l.q.getD (i.srcA % 8) false) (l.q.getD (i.srcB % 8) false))
  else if i.opc = poCvt then l.setRounded i.dst (convert i mode (drawAt env (512 + n)) a b)
  else if i.opc = poA2f then l.setRounded i.dst (roundFloat (progFmt i.fmt) mode (drawAt env 0) env.sum)
  else if i.opc = 0x49 then l.setQ (i.dst % 8) (condOf i.aux (intOrder i.fmt a b))
  else if isIntOp i.opc then l.setV i.dst (intValue i a b)
  else if i.opc = poHash then l.setV i.dst (env.hash i.aux).toNat
  else if i.opc = poAcc then { l with acc := wideAdd l.acc (accTerm i.aux a b) }
  else if i.opc = poSto then l.setOut i.aux a
  else l

/-- The instructions from an index on: one whose predicate does not hold has no effect (R285). -/
def runCode (env : ElemEnv) : List PInstr → Nat → Lane → Lane
  | [], _, l => l
  | i :: is, n, l => runCode env is (n + 1) (if l.q.getD i.pred false != i.pneg then runInstr env n i l else l)

/-- The run of one element; `redOvf` says that forming RED_F overflowed, which counts where the image reads it (R292). -/
def runElem (img : Bytes) (env : ElemEnv) (redOvf : Bool) : Lane :=
  runCode env (pgCode img) 0 { Lane.blank with ovf := b01 (redOvf && pgReadsRedF img) }

/-- The counter hash of an element under a salt (R293). -/
def saltedHash (ctx collId chunk element s : Nat) : BitVec 64 := counterHash ctx (collId ^^^ s * 2 ^ 22) chunk element

/-! ## Programs held (R299 to R302) -/

/-- A program held for a context. -/
def programOf (s : State) (c : CtxId) (h : Word) : Option Program := Tab.get? s.programs (c, h)

/-- The context that a command of another context's queue names in bytes 28 to 30 (R299, R318): none where it is illegal. -/
def namedCtx (c : CtxId) (d : Bytes) : Option CtxId :=
  let t : CtxId := BitVec.ofNat 20 (bits (fieldAt d 28 3) 19 0)
  if bits (fieldAt d 28 3) 23 20 ≠ 0 then none
  else if c = 0 then (if t = 0 then none else some t)
  else if t = 0 then some c else none

/-- The context of an accepted command that names one. -/
def targetCtx (c : Cmd) : CtxId := (namedCtx c.ctx c.desc).getD 0

/-- The field that names a program or a set. -/
def cmdHandle (d : Bytes) : Word := BitVec.ofNat 32 (fieldAt d 24 4)

def plBytes (d : Bytes) : Nat := bits (fieldAt d 44 2) 12 0

/-- Whether a program is in use at the module: a collective that has started here, or that a REGROUP has made start again, or a sweep
names it (R269, R301). -/
def programInUse (s : State) (c : CtxId) (h : Word) : Bool :=
  s.colls.any (fun k => decide (k.key.ctx = c) && decide (k.fields.program = h) && (k.started || k.resumed)) ||
  s.hb.sweeps.any (fun w => match cmdOf s w.cmd with
    | none => false
    | some x => decide (x.ctx = c) && decide (BitVec.ofNat 32 (fieldAt x.desc 28 4) = h))

/-- What every command that names a context checks of it: torn down, or not defined at the module (R232, R300, R302). -/
def ctxVerdict (s : State) (c : CtxId) : Option Verdict :=
  match ctxOf s c with
  | none => some stateV
  | some x => if x.teardown then some (.reject stContextGone 0) else none

/-- The acceptance check of PROG_LOAD. -/
def checkLoad (s : State) (c : Cmd) : State × Verdict :=
  let d := c.desc
  let o := localOp d 32
  let opOk := if c.ctx = 0 then o.clean && decide (o.handle = 0) else o.legal (isConvert s c.ctx)
  if (namedCtx c.ctx d).isNone ∨ cmdHandle d = 0 ∨ !reservedZero d 31 32 ∨ !reservedZero d 46 64 ∨ bits (fieldAt d 44 2) 15 13 ≠ 0 ∨
      !opOk ∨ !accepted s 1 then (s, protocolV)
  else match ctxVerdict s (targetCtx c) with
    | some v => (s, v)
    | none =>
      if (programOf s (targetCtx c) (cmdHandle d)).isSome ∨ 1024 ≤ s.programs.length then (s, stateV) else (s, .go 0)

/-- A malformed image refused and counted (R300, R312). -/
def rejectImage (s : State) (c : Cmd) (word : Nat) : State :=
  endCmd (countEvent s (mgBase + 0x388) (mgBase + 0x384) 0) c stProtocol (BitVec.ofNat 64 word)

/-- The start of PROG_LOAD: its image is read from host memory, or through the local operand (R299, R300). -/
def startLoad (s : State) (c : Cmd) : State :=
  let r := operandLook s c (localOp c.desc 32) (plBytes c.desc)
  let s := warm s c.block r
  match r.out with
  | .error e =>
    let p := failLocal s c 0 e
    endCmd p.1 p.2 p.2.status p.2.result
  | .ok img =>
    if plBytes c.desc ≠ 64 + 8 * pgCount img then endCmd s c stProtocol 0
    else match checkImage (accepted s 4) img with
      | some w => rejectImage s c w
      | none =>
        if (programOf s (targetCtx c) (cmdHandle c.desc)).isSome ∨ 1024 ≤ s.programs.length then endCmd s c stStateRejected 0
        else
          let h := programHash img
          let s := { s with programs := Tab.put s.programs (targetCtx c, cmdHandle c.desc) { ctx := targetCtx c, image := img, hash := h } }
          completeCmd s c stOk (BitVec.ofNat 64 (fieldAt h 0 8)) (slice h 8 14) false

/-- The acceptance check and the start of PROG_UNLOAD (R301). -/
def checkUnload (s : State) (c : Cmd) : State × Verdict :=
  let d := c.desc
  if (namedCtx c.ctx d).isNone ∨ cmdHandle d = 0 ∨ !reservedZero d 31 64 ∨ !accepted s 1 then (s, protocolV)
  else match ctxVerdict s (targetCtx c) with
    | some v => (s, v)
    | none =>
      if (programOf s (targetCtx c) (cmdHandle d)).isNone ∨ programInUse s (targetCtx c) (cmdHandle d) then (s, stateV) else (s, .go 0)

def startUnload (s : State) (c : Cmd) : State :=
  if (programOf s (targetCtx c) (cmdHandle c.desc)).isNone ∨ programInUse s (targetCtx c) (cmdHandle c.desc) then endCmd s c stStateRejected 0
  else endCmd { s with programs := Tab.del s.programs (targetCtx c, cmdHandle c.desc),
                       progStore := s.progStore.map (fun e => (e.1, e.2.filter (fun k => decide (k ≠ (targetCtx c, cmdHandle c.desc))))) } c stOk 0

/-- PROG_LOAD (R300). -/
def execProgLoad (block queue : Nat) (s : State) : Result := .next (acceptRun s block queue (isOp 0x65) checkLoad startLoad)
/-- PROG_UNLOAD (R301). -/
def execProgUnload (block queue : Nat) (s : State) : Result := .next (acceptRun s block queue (isOp 0x66) checkUnload startUnload)

end Sys2Proof.Machine
end

