-- ==== Sys2Proof/Machine/Harbour.lean ====
section
/-!
DEFINITION. The harbour commands (R318, R329, R330, R332, R336, R340, R341), the preparing of a step and the commit vote
(R332 to R335, R338), and eviction (R343).
-/
namespace Sys2Proof.Machine

open Sys2Proof

/-! ## Sets -/

/-- The set that a command names. -/
def setKeyOf (c : Cmd) : SetKey := { ctx := targetCtx c, hset := cmdHandle c.desc }

/-- The fields of HB_SET_CREATE (R318), as the shard it defines. -/
def shardFields (key : SetKey) (d : Bytes) : Shard :=
  let b := fieldAt d 32 1
  { key := key, digest := bit b 6, priority := bits b 5 4, keep := bits b 3 0, transient := BitVec.ofNat 4 (bits (fieldAt d 33 1) 3 0),
    stripeLog2 := bits (fieldAt d 34 1) 4 0, fmts := slice d 36 4, rootCount := bits (fieldAt d 40 2) 8 0,
    rootIndex := fieldAt d 42 1, elements := bits (fieldAt d 48 6) 40 0, version := 0, state := .idle, hash := [],
    stepWritten := [], everWritten := [], lost := [], units := [], createdNo := 0 }

/-- The version hash of version 0 (R338). -/
def hashZero (h : Shard) : Bytes :=
  sha384 (toLe 4 h.key.ctx.toNat ++ toLe 4 h.key.hset.toNat ++ toLe 8 h.elements ++ fit 4 h.fmts ++
    [BitVec.ofNat 8 h.keep, BitVec.ofNat 8 h.transient.toNat, BitVec.ofNat 8 h.stripeLog2, BitVec.ofNat 8 (b01 h.digest)] ++
    toLe 2 h.rootCount ++ zeros 6)

/-- The version hash of the next version, from the shard digests in ROOT_INDEX order (R338). -/
def hashNext (h : Shard) (step : Nat) (ds : List DWord) : Bytes :=
  sha384 (h.hash ++ toLe 8 step ++ ds.flatMap (fun d => toLe 8 d.toNat))

/-- The rules of R318 and R319 for a set's fields. -/
def shardOk (d : Bytes) (h : Shard) : Bool :=
  !bit (fieldAt d 32 1) 7 && decide (bits (fieldAt d 33 1) 7 4 = 0) && !h.transient.getLsbD 0 && !bit (fieldAt d 33 1) 0 &&
  decide (bits (fieldAt d 34 1) 7 5 = 0) && reservedZero d 31 32 && reservedZero d 35 36 && reservedZero d 43 48 &&
  reservedZero d 54 64 && decide (bits (fieldAt d 40 2) 15 9 = 0) && decide (bits (fieldAt d 48 6) 47 41 = 0) &&
  decide (2 ≤ h.keep) && decide (h.keep ≤ 8) && decide (12 ≤ h.stripeLog2) && decide (h.stripeLog2 ≤ 20) &&
  decide (arrayFmt h 0 = 2) && [1, 2, 3].all (fun a => streamOk (arrayFmt h a)) &&
  [0, 1, 2, 3].all (fun a => !isTransient h a || isUsed h a) && decide (1 ≤ h.rootCount) && decide (h.rootCount ≤ 256) &&
  decide (h.rootIndex < h.rootCount) && decide (1 ≤ h.elements) && decide (h.elements ≤ 2 ^ 40)

/-- Units of one bank of an array, and the banks of every used array (R321). -/
def bankUnits (h : Shard) (a : Nat) : Nat := ceilDiv (shardLen h * arrayWidth h a) unitBytes
def banksOf (h : Shard) : List (Nat × Nat) :=
  ([0, 1, 2, 3].filter (isUsed h)).flatMap (fun a => (List.range (if isTransient h a then 1 else h.keep)).map (fun b => (a, b)))

/-- Units of a whole shard. -/
def shardUnits (h : Shard) : Nat := ((banksOf h).map (fun p => bankUnits h p.1)).foldl (· + ·) 0

/-- Units that a context's shards hold at the module. -/
def ctxUnits (s : State) (c : CtxId) : Nat :=
  (((s.hb.shards.filter (fun h => decide (h.key.ctx = c))).map (fun h => (h.units.map (fun u => u.2.2.length)).foldl (· + ·) 0))).foldl (· + ·) 0

/-- A context's quota: 0 until the driver sets it (R321, R340). -/
def quotaOf (s : State) (c : CtxId) : Nat := match ctxOf s c with
  | none => 0
  | some x => x.quota

/-- Whether an allocation fits the quota and the free units (R319). -/
def allocFits (s : State) (h : Shard) : Bool :=
  (decide (quotaOf s h.key.ctx = 0xFFFFF) || decide (ctxUnits s h.key.ctx + shardUnits h ≤ quotaOf s h.key.ctx)) &&
  decide (unitsUsed s + shardUnits h ≤ s.hb.unitsTotal)

/-- The units that no shard holds, in order. -/
def freeUnits (s : State) : List Nat :=
  let used := s.hb.shards.flatMap (fun h => h.units.flatMap (fun u => u.2.2))
  (List.range s.hb.unitsTotal).filter (fun u => decide (u ∉ used))

/-- Free units handed to the banks in order. -/
def handUnits (h : Shard) : List (Nat × Nat) → List Nat → List (Nat × Nat × List Nat)
  | [], _ => []
  | (a, b) :: l, free => (a, b, free.take (bankUnits h a)) :: handUnits h l (free.drop (bankUnits h a))

/-- A shard created: the first free units, version 0 (R319, R323). -/
def createShard (s : State) (h : Shard) : State :=
  let h := { h with units := handUnits h (banksOf h) (freeUnits s), hash := hashZero h, createdNo := s.hb.created }
  { s with hb := { s.hb with shards := s.hb.shards ++ [h], created := s.hb.created + 1 } }

/-- One unit zeroised, its poison with it (R340, R317). -/
def zeroUnit (s : State) (u : Nat) : State :=
  clearPoison (memZero s (harbourAddr (unitStart s.variant u)) unitBytes) (unitStart s.variant u) unitBytes

/-- A shard zeroised and freed: its ports are unbound (R340, R343, R344). -/
def freeShard (s : State) (k : SetKey) : State :=
  match shardOf s k with
  | none => s
  | some h =>
    let s := (h.units.flatMap (fun u => u.2.2)).foldl zeroUnit s
    let ports := s.hb.ports.map (fun p => if p.2.bound = some k then (p.1, { p.2 with bound := none }) else p)
    { s with hb := { s.hb with shards := s.hb.shards.filter (fun x => decide (x.key ≠ k)), ports := ports } }

/-! ## What harbour commands check in common (R313, R341) -/

/-- The opcode's common bytes: feature bit 0, a handle, and the context that the command may name. -/
def harbourOperands (s : State) (c : Cmd) : Bool :=
  harbourOn s && (namedCtx c.ctx c.desc).isSome && decide (cmdHandle c.desc ≠ 0) && reservedZero c.desc 31 32

/-- Whether a set's data may be moved: its context is in clear, or holds a live epoch and a harbour key (R232, R322). -/
def harbourKeyOk (s : State) (c : CtxId) : Bool :=
  !ctxEnc s c || (keyOk s c && ((Tab.get? s.sec.keys c).bind (·.harbour)).isSome)

/-- Whether a commit runs for a set at the module. -/
def voteOf (s : State) (k : SetKey) : Option Vote := s.hb.votes.find? (fun v => decide (v.key = k))

/-- Whether a set takes a new writer of a step: STEP is V + 1, the set is neither PREPARED nor preparing, and the step is
open or may open (R323, R327, R332). -/
def takesWriter (s : State) (h : Shard) (step : Nat) : Bool :=
  decide (step = h.version + 1) && decide (h.state ≠ .prepared) && (voteOf s h.key).isNone &&
  (decide (h.state = .opened) || mayOpen s h)

/-- A check that goes on with the shard of the set that a command names. -/
def withShard (s : State) (c : Cmd) (k : Shard → Verdict) : Verdict :=
  match ctxVerdict s (targetCtx c) with
  | some v => v
  | none => match shardOf s (setKeyOf c) with
    | none => stateV
    | some h => k h

/-! ## HB_SET_CREATE, HB_SET_DESTROY, HB_QUOTA, HB_STEP_ABORT -/

def checkCreate (s : State) (c : Cmd) : State × Verdict :=
  let h := shardFields (setKeyOf c) c.desc
  if !harbourOperands s c ∨ !shardOk c.desc h ∨ (ctxEnc s (targetCtx c) ∧ !accepted s 7) then (s, protocolV)
  else match ctxVerdict s (targetCtx c) with
    | some v => (s, v)
    | none =>
      if (shardOf s (setKeyOf c)).isSome ∨ 4096 ≤ s.hb.shards.length ∨ !allocFits s h then (s, stateV) else (s, .go 0)

def startCreate (s : State) (c : Cmd) : State :=
  let h := shardFields (setKeyOf c) c.desc
  if (shardOf s (setKeyOf c)).isSome ∨ 4096 ≤ s.hb.shards.length ∨ !allocFits s h then endCmd s c stStateRejected 0
  else endCmd (createShard s h) c stOk 0

/-- Whether a set may be destroyed (R341). -/
def mayDestroy (s : State) (h : Shard) : Bool := decide (h.state ≠ .prepared) && !inUse s h

def checkDestroy (s : State) (c : Cmd) : State × Verdict :=
  if !harbourOperands s c ∨ !reservedZero c.desc 32 64 then (s, protocolV)
  else (s, withShard s c (fun h => if mayDestroy s h then .go 0 else stateV))

/-- The start of HB_SET_DESTROY: in the floor state it waits at its first write burst (R342); `tilesLeft` 1 says that it waits. -/
def startDestroy (s : State) (c : Cmd) : State :=
  match shardOf s (setKeyOf c) with
  | none => endCmd s c stStateRejected 0
  | some h =>
    if !mayDestroy s h then endCmd s c stStateRejected 0
    else if s.power.floor then setCmd s { c with sentAll := true, tilesLeft := 1 }
    else endCmd (freeShard s h.key) c stOk 0

def checkQuota (s : State) (c : Cmd) : State × Verdict :=
  let d := c.desc
  if !harbourOn s ∨ c.ctx ≠ 0 ∨ (namedCtx c.ctx d).isNone ∨ !reservedZero d 24 28 ∨ !reservedZero d 31 32 ∨
      bits (fieldAt d 32 4) 31 20 ≠ 0 ∨ !reservedZero d 36 64 then (s, protocolV)
  else match ctxVerdict s (targetCtx c) with
    | some v => (s, v)
    | none => (s, .go 0)

def startQuota (s : State) (c : Cmd) : State :=
  match ctxOf s (targetCtx c) with
  | none => endCmd s c stStateRejected 0
  | some x => endCmd { s with ctxs := Tab.put s.ctxs (targetCtx c) { x with quota := bits (fieldAt c.desc 32 4) 19 0 } } c stOk 0

def stepAt (d : Bytes) (at_ : Nat) : Nat := fieldAt d at_ 6

/-- An abandoned step counted (R334, R350). -/
def countStepAbort (s : State) : State := countEvent s (hbBase + 0x12C) (hbBase + 0x110) 3

/-- Whether a step may be aborted by command (R336). -/
def mayAbort (s : State) (h : Shard) (step : Nat) : Bool :=
  decide (h.state = .opened) && !inUse s h && decide (step = h.version + 1)

def checkAbort (s : State) (c : Cmd) : State × Verdict :=
  if !harbourOperands s c ∨ !reservedZero c.desc 38 64 then (s, protocolV)
  else (s, withShard s c (fun h => if mayAbort s h (stepAt c.desc 32) then .go 0 else stateV))

def startAbort (s : State) (c : Cmd) : State :=
  match shardOf s (setKeyOf c) with
  | none => endCmd s c stStateRejected 0
  | some h =>
    if mayAbort s h (stepAt c.desc 32) then endCmd (countStepAbort (discardStep s h)) c stOk 0
    else endCmd s c stStateRejected 0

/-! ## Harbour ports (R330, R331) -/

/-- A harbour port's record. -/
def hbPortOf (s : State) (p : Nat) : HbPort := Tab.getD s.hb.ports p { binds := 0, bound := none, unload := false, array := 0, version := 0 }

/-- The state with a harbour port's record replaced. -/
def setHbPort (s : State) (p : Nat) (x : HbPort) : State := { s with hb := { s.hb with ports := Tab.put s.hb.ports p x } }

def bdPort (d : Bytes) : Nat := fieldAt d 32 1
def bdUnload (d : Bytes) : Bool := bit (fieldAt d 33 1) 2
def bdArray (d : Bytes) : Nat := bits (fieldAt d 33 1) 1 0

/-- The region handle of a port (R330). -/
def portHandle (p binds : Nat) : Nat := 0xFF000 + p + binds % 2048 * 2 ^ 20

/-- Whether a bind finds the set and the port as R330 asks. -/
def mayBind (s : State) (h : Shard) (d : Bytes) : Bool :=
  (hbPortOf s (bdPort d)).bound.isNone &&
  (if bdUnload d then isRetained h (stepAt d 40) else takesWriter s h (stepAt d 40))

def checkBind (s : State) (c : Cmd) : State × Verdict :=
  let d := c.desc
  if !harbourOperands s c ∨ c.ctx = 0 ∨ bits (fieldAt d 33 1) 7 3 ≠ 0 ∨ !reservedZero d 34 40 ∨ !reservedZero d 46 64 then (s, protocolV)
  else (s, withShard s c (fun h =>
    if !isUsed h (bdArray d) ∨ (bdUnload d ∧ isTransient h (bdArray d)) then protocolV
    else if mayBind s h d then .go 0 else stateV))

/-- The start of HB_PORT_BIND: it needs an own fabric ID, at which the port stands (R330, R593). -/
def startBind (s : State) (c : Cmd) : State :=
  let d := c.desc
  match shardOf s (setKeyOf c) with
  | none => endCmd s c stStateRejected 0
  | some h =>
    if !mayBind s h d then endCmd s c stStateRejected 0
    else if (ownFid s).isNone then endCmd s c stDestLost 0
    else
      let p := hbPortOf s (bdPort d)
      let s := if bdUnload d then s else setShard s (openStep h)
      let s := setHbPort s (bdPort d)
        { binds := p.binds + 1, bound := some h.key, unload := bdUnload d, array := bdArray d, version := stepAt d 40 }
      endCmd s c stOk (BitVec.ofNat 64 (portHandle (bdPort d) (p.binds + 1)))

def checkUnbind (s : State) (c : Cmd) : State × Verdict :=
  let d := c.desc
  if !harbourOperands s c ∨ c.ctx = 0 ∨ !reservedZero d 33 64 then (s, protocolV)
  else (s, withShard s c (fun h => if (hbPortOf s (bdPort d)).bound = some h.key then .go 0 else stateV))

/-- Whether a port has accepted a packet that is not yet applied: in the floor state a write at the head of its stream
waits (R342). -/
def portBusy (s : State) (p : Nat) : Bool :=
  s.homeStreams.any (fun e => e.2.applying && e.2.held.any (fun k => decide (k.hdr.seq = e.2.expect) &&
    decide (regionIndex k.hdr.region = 0xFF000 + p)))

/-- Whether an unbind may complete (R330). -/
def unbindMet (s : State) (c : Cmd) : Bool := !portBusy s (bdPort c.desc)

/-- The end of an unbind. -/
def endUnbind (s : State) (c : Cmd) : State :=
  endCmd (setHbPort s (bdPort c.desc) { hbPortOf s (bdPort c.desc) with bound := none }) c stOk 0

/-- The start of HB_PORT_UNBIND: it completes once what the port accepted is applied; `tilesLeft` 1 says that it waits. -/
def startUnbind (s : State) (c : Cmd) : State :=
  if (hbPortOf s (bdPort c.desc)).bound ≠ some (setKeyOf c) then endCmd s c stStateRejected 0
  else if unbindMet s c then endUnbind s c
  else setCmd s { c with sentAll := true, tilesLeft := 1 }

/-! ## HB_SWEEP (R329, R307) -/

def swProgram (d : Bytes) : Word := BitVec.ofNat 32 (fieldAt d 28 4)
def swId (d : Bytes) : Nat := fieldAt d 32 4
def swFirst (d : Bytes) : Nat := fieldAt d 42 4 * segLen
def swSegments (d : Bytes) : Nat := fieldAt d 60 4

/-- Whether a program's streams match the arrays of a set (R306), and no transient array is both read and written (R326). -/
def streamsMatch (img : Bytes) (h : Shard) : Bool :=
  [0, 1, 2, 3].all (fun n => (decide (pgIn img n = 0) || decide (pgIn img n = arrayFmt h n)) &&
    (decide (pgOut img n = 0) || decide (pgOut img n = arrayFmt h n)) &&
    !(isTransient h n && decide (pgIn img n ≠ 0) && decide (pgOut img n ≠ 0)))

/-- The checks of a sweep on its program (R306, R307, R326). -/
def sweepProgramOk (s : State) (c : Cmd) (h : Shard) : Bool := match programOf s c.ctx (swProgram c.desc) with
  | none => false
  | some p => streamsMatch p.image h && !pgReadsSum p.image && !pgReadsRedF p.image && !pgDelivers p.image && !pgAcc p.image

def checkSweep (s : State) (c : Cmd) : State × Verdict :=
  let d := c.desc
  if !harbourOn s ∨ c.ctx = 0 ∨ cmdHandle d = 0 ∨ !reservedZero d 46 48 ∨ swSegments d = 0 ∨
      !(localOp d 48).legal (isConvert s c.ctx) then (s, protocolV)
  else match ctxVerdict s c.ctx with
    | some v => (s, v)
    | none => match shardOf s { ctx := c.ctx, hset := cmdHandle d } with
      | none => (s, stateV)
      | some h =>
        if !sweepProgramOk s c h then (s, protocolV)
        else if !takesWriter s h (stepAt d 36) then (s, stateV)
        else if !harbourKeyOk s c.ctx then (s, .reject stKeyInvalid 0)
        else (s, .go 0)

/-- The IN values of `n` elements of the shard from local element `l`: none where one reads a poisoned line (R317). -/
def readStreams (s : State) (h : Shard) (img : Bytes) (version l n : Nat) : List Nat → Option (List Bytes)
  | [] => some []
  | a :: as =>
    let x := if pgIn img a = 0 then some [] else readSeg s h a version l n
    x.bind (fun bs => (readStreams s h img version l n as).map (bs :: ·))

/-- The OUT values of `n` lanes written to the step's bank at local element `l`. -/
def writeStreams (s : State) (k : SetKey) (img : Bytes) (l : Nat) (lanes : List Lane) : State :=
  [0, 1, 2, 3].foldl (fun s a =>
    if pgOut img a = 0 then s
    else match shardOf s k with
      | none => s
      | some h => writeStep s h a l (packElems (pgOut img a) (lanes.map (fun x => ((x.outs.getD a none).getD 0) % 2 ^ elemBits (pgOut img a))))) s

/-- Elements whose roundings set status counted at a reduction die (R290, R292): OUT_OVF. -/
def countOutOvf (s : State) (die n : Nat) : State :=
  (List.range n).foldl (fun s _ => countEvent s (ariBase die + 0x408) (ariBase die + 0x400) 1) s

/-- One segment of a sweep: `none` where an IN stream meets poison, else the state and whether a rounding set status. -/
def sweepSegment (s : State) (c : Cmd) (h : Shard) (img params : Bytes) (dyn first n : Nat) : Option (State × Bool) :=
  let l := localOf h first
  (readStreams s h img h.version l n [0, 1, 2, 3]).map (fun ins =>
    let lanes := (List.range n).map (fun i =>
      runElem img
        { params := params, ins := (ins.zipIdx).map (fun p => elemAt (pgIn img p.2) p.1 i), redF := 0, sum := Num.zero, dyn := dyn,
          hash := saltedHash c.ctx.toNat (swId c.desc) ((first + i) / stripeLen h) ((first + i) % stripeLen h) } false)
    let ovf := (lanes.map (·.ovf)).foldl (· + ·) 0
    (countOutOvf (writeStreams s h.key img l lanes) ((ariInService s).headD 0) ovf, decide (0 < ovf)))

/-- A sweep's segments in order (R329): CHECK_FAILED at the first that meets poison, else OK or OVERFLOW. -/
def sweepRun (c : Cmd) (k : SetKey) (img params : Bytes) (dyn : Nat) : Nat → Nat → State → Bool → State × Byte
  | 0, _, s, ovf => (s, if ovf then stOverflow else stOk)
  | fuel + 1, first, s, ovf => match shardOf s k with
    | none => (s, stDestLost)
    | some h =>
      if h.elements ≤ first then (s, if ovf then stOverflow else stOk)
      else if !onShard h first then sweepRun c k img params dyn fuel (first + segLen) s ovf
      else match sweepSegment s c h img params dyn first (min segLen (h.elements - first)) with
        | none => (countPoisonRead s, stCheckFailed)
        | some (s, o) => sweepRun c k img params dyn fuel (first + segLen) s (ovf || o)

/-- A sweep run under its parameter block, and its command completed. The rounding mode of DYN has no launch to come from: it is a free
value, one for the context, the program and the sweep's ID (R478, log 23). -/
def sweepNow (s : State) (c : Cmd) (params : Bytes) : State := match programOf s c.ctx (swProgram c.desc) with
  | some p =>
    let dyn := Config.sweepRound c.ctx.toNat (swProgram c.desc).toNat (swId c.desc) % 5
    let r := sweepRun c { ctx := c.ctx, hset := cmdHandle c.desc } p.image params dyn (swSegments c.desc) (swFirst c.desc) s false
    endCmd r.1 c r.2 0
  | none => endCmd s c stProtocol 0

/-- The first segment of a sweep that the shard holds: `fuel` segments from `first`. -/
def sweepFirst (h : Shard) : Nat → Nat → Option Nat
  | 0, _ => none
  | fuel + 1, first => if h.elements ≤ first then none else if onShard h first then some first else sweepFirst h fuel (first + segLen)

/-- Whether a program writes an array, which a write burst does (R342). -/
def programWrites (img : Bytes) : Bool := [0, 1, 2, 3].any (fun n => decide (pgOut img n ≠ 0))

/-- Whether the floor state holds a sweep: it waits at its first write, so the shard holds a segment of it, whose streams it could read
(R342). -/
def floorHoldsSweep (s : State) (c : Cmd) (h : Shard) : Bool :=
  s.power.floor && (match programOf s c.ctx (swProgram c.desc), sweepFirst h (swSegments c.desc) (swFirst c.desc) with
    | some p, some first => programWrites p.image &&
        (readStreams s h p.image h.version (localOf h first) (min segLen (h.elements - first)) [0, 1, 2, 3]).isSome
    | _, _ => false)

/-- The start of HB_SWEEP: it opens the step and reads its parameter block; in the floor state it waits at its first write (R324, R342). -/
def startSweep (s : State) (c : Cmd) : State :=
  match shardOf s { ctx := c.ctx, hset := cmdHandle c.desc } with
  | none => endCmd s c stStateRejected 0
  | some h =>
    if !sweepProgramOk s c h then endCmd s c stProtocol 0
    else if !takesWriter s h (stepAt c.desc 36) then endCmd s c stStateRejected 0
    else
      let s := setShard s (openStep h)
      let r := readLook s c.block c.ctx (localOp c.desc 48) 0 128
      let s := warm s c.block r
      match r.out with
      | .error e =>
        let q := failLocal s c 0 e
        endCmd q.1 q.2 q.2.status q.2.result
      | .ok params =>
        if floorHoldsSweep s c (openStep h) then
          setCmd { s with hb := { s.hb with sweeps := s.hb.sweeps ++ [{ cmd := c.id, key := h.key, params := params }] } }
            { c with sentAll := true, tilesLeft := 1 }
        else sweepNow s c params

/-- The sweeps that waited carried out when the floor state has ended (R342). -/
def runSweeps (s : State) : State :=
  if s.power.floor then s
  else s.hb.sweeps.foldl (fun s w => match cmdOf s w.cmd with
    | none => s
    | some c => sweepNow s c w.params) { s with hb := { s.hb with sweeps := [] } }

/-! ## The commit vote (R332 to R335) -/

/-- Kinds of the vote record (R333). -/
def vkPrepare : Byte := 1
def vkYes : Byte := 2
def vkNo : Byte := 3
def vkCommit : Byte := 4
def vkAbort : Byte := 5
def vkQuery : Byte := 6
def vkReply : Byte := 7

/-- Reasons of VOTE_NO. -/
def vrPoison : Byte := 1
def vrState : Byte := 2
def vrWait : Byte := 3

/-- The states of STATE_REPLY. -/
def shardCode : ShardState → Byte
  | .idle => 0
  | .opened => 1
  | .prepared => 2

/-- The 64 bytes of a vote record. -/
def voteBytes (kind reason : Byte) (rootIndex : Nat) (hset : Word) (step : Nat) (hash : Bytes) : Bytes :=
  [kind, reason, BitVec.ofNat 8 rootIndex, 0] ++ toLe 4 hset.toNat ++ toLe 6 step ++ zeros 2 ++ fit 48 hash

/-- The vote handle (R333): INDEX 0xF_FE00, GENERATION 0. -/
def voteHandle : Word := 0x000FFE00

/-- A vote record written to the vote handle of another module, by the harbour engine's first memory die. What the command builds carries
the CLASS of its queue (R622); the spec gives the records of a peer no class, so theirs is a free value (log 26). -/
def sendVote (s : State) (cls : Option (BitVec 3)) (key : SetKey) (dst : Fid) (peer : Nat) (decided : Bool) (bs : Bytes) : State :=
  if (ownFid s).isNone then s else sendRequest { s with fresh := s.fresh + 1 }
    { unit := unitMem ((memInService s).headD 0), src := (ownFid s).getD 0, dst := dst, ctx := key.ctx,
      cls := cls.getD (BitVec.ofNat 3 (Config.freeValue s.fresh).toNat), ptype := tyOrdered, opcode := 0x01, last := true, combinable := false,
      region := voteHandle, offset := 0, len := 64, payload := bs, kind := .vote key peer decided, cmd := none, aperture := none }

/-- The state with the vote of a set replaced, and without it. -/
def setVote (s : State) (v : Vote) : State :=
  { s with hb := { s.hb with votes := s.hb.votes.map (fun x => if x.key = v.key then v else x) } }
def dropVote (s : State) (k : SetKey) : State := { s with hb := { s.hb with votes := s.hb.votes.filter (fun x => decide (x.key ≠ k)) } }

/-- The peers of a vote with their ROOT_INDEX, one index left out. -/
def peersBut (v : Vote) (me : Nat) : List (Nat × Fid) :=
  (v.peers.zipIdx.map (fun p => (p.2, p.1))).filter (fun p => decide (p.1 ≠ me))

/-- The stall limit of MG_COLL_CFG in microseconds (R276). -/
def stallUs (s : State) : Nat := regField s (mgBase + 0x300) 31 16 * 100

/-- A record written to every shard of the vote but this one. -/
def sendAllVotes (s : State) (v : Vote) (me : Nat) (decided : Bool) (bs : Bytes) : State :=
  (peersBut v me).foldl (fun s p => sendVote s v.cls v.key p.2 p.1 decided bs) s

/-- The segments of version V that the step has not written, copied forward (R325): none where a line is poisoned. -/
def copyForward (h : Shard) : List (Nat × Nat) → State → Option State
  | [], s => some s
  | (a, seg) :: l, s =>
    let w := arrayWidth h a
    let n := segSize h seg * w
    let src := bankByte s.variant h a (bankOf h a h.version) (seg * segLen * w)
    let dst := bankByte s.variant h a (bankOf h a (h.version + 1)) (seg * segLen * w)
    if poisonedAt s src n then none
    else copyForward h l (clearPoison (memWrite s (harbourAddr dst) (memRead s (harbourAddr src) n)) dst n)

/-- What copy-forward copies, and the record it leaves of the new bank: what it copied counts as written by the step, as its
content is the step's (R322, R325). -/
def forwardList (h : Shard) : List (Nat × Nat) :=
  (h.everWritten.filter (fun e => decide (e.2.1 = bankOf h e.1 h.version) && decide ((e.1, e.2.2) ∉ h.stepWritten))).map (fun e => (e.1, e.2.2))
def forwardRecord (h : Shard) : Shard :=
  let b := (h.version + 1) % h.keep
  let keep := h.everWritten.filter (fun e => decide (e.2.1 ≠ b) || decide ((e.1, e.2.2) ∈ h.stepWritten))
  { h with stepWritten := h.stepWritten ++ forwardList h, everWritten := keep ++ (forwardList h).map (fun p => (p.1, b, p.2)), lost := h.lost.filter (fun p => decide (p.1 ≠ b)) }

/-- One 256-byte line of a version of an array: none where it is poisoned. -/
def lineOf (s : State) (h : Shard) (a version line : Nat) : Option Bytes :=
  if segWritten h a version (line * 256 / arrayWidth h a / segLen) then
    let p := bankByte s.variant h a (bankOf h a version) (line * 256)
    if poisonedAt s p 256 then none else some (memRead s (harbourAddr p) 256)
  else some (zeros 256)

/-- The shard digest of a version (R338): none where a line is poisoned. -/
def shardDigest (s : State) (h : Shard) (version : Nat) : Option DWord :=
  if !h.digest then some 0
  else (versionedArrays h).foldl (fun acc a =>
    (List.range (ceilDiv (shardLen h * arrayWidth h a) 256)).foldl (fun acc l =>
      acc.bind (fun d => (lineOf s h a version l).map (fun bs => d + crc64 (BitVec.ofNat 8 a :: zeros 7 ++ toLe 8 l ++ bs)))) acc) (some 0)

/-- A decision applied to a shard: the step becomes version STEP under its hash, or is discarded (R334). -/
def applyCommit (s : State) (h : Shard) (hash : Bytes) : State :=
  bump (setShard s { h with version := h.version + 1, state := .idle, stepWritten := [], hash := hash }) (hbBase + 0x128)
def applyAbort (s : State) (h : Shard) : State := countStepAbort (discardStep s h)

/-- The coordinator's abort (R334, step 3): DECIDE_ABORT to every peer, its own step discarded, the command completed. -/
def voteAbort (s : State) (v : Vote) (status : Byte) : State :=
  let s := dropVote s v.key
  let s := sendAllVotes s v 0 true (voteBytes vkAbort 0 0 v.key.hset v.step [])
  let s := match shardOf s v.key with
    | none => s
    | some h => applyAbort s h
  match v.cmd.bind (cmdOf s) with
  | none => s
  | some c => endCmd s c status 0

/-- The status of a NO vote's reason (R334). -/
def reasonStatus (r : Byte) : Byte := if r = vrPoison then stCheckFailed else if r = vrState then stStateRejected else stTimeout

/-- The end of a commit once every DECIDE write is done: one record names the peers it did not reach, and the pennant carries the
version hash (R334). DETAIL of R585 leaves bytes 19, 30 and 31: how many peers, and the first (DESIGN CHOICE, log 165). -/
def voteDone (s : State) (v : Vote) (hash : Bytes) : State :=
  let s := dropVote s v.key
  let s := match v.unreached with
    | [] => s
    | i :: _ => logEvent s .harbour wholeModule (toLe 3 v.key.ctx.toNat ++ [BitVec.ofNat 8 v.unreached.length] ++
        toLe 4 v.key.hset.toNat ++ toLe 6 v.step ++ toLe 2 (v.peers.getD i 0).toNat) 334
  match v.cmd.bind (cmdOf s) with
  | none => s
  | some c => completeCmd s c stOk (BitVec.ofNat 64 (fieldAt hash 0 8)) (slice hash 8 14) false

/-- The coordinator's commit where it holds every vote (R334, step 2). -/
def voteCommit (s : State) (v : Vote) (h : Shard) : State :=
  let ds := (List.range h.rootCount).map (fun i => ((v.yes.find? (fun p => decide (p.1 = i))).map (·.2)).getD 0)
  let hash := hashNext h v.step ds
  let s := applyCommit s h hash
  let s := sendAllVotes s v 0 true (voteBytes vkCommit 0 0 v.key.hset v.step hash)
  let v := { v with deciding := true, waiting := (peersBut v 0).map (·.1) }
  if v.waiting.isEmpty then voteDone s v hash else setVote s v

/-- The status of an abort: the first of CHECK_FAILED, STATE_REJECTED and DEST_LOST that a shard gave, else TIMEOUT (R334, step 3). -/
def abortStatus (v : Vote) : Byte :=
  ([stCheckFailed, stStateRejected, stDestLost].find? (fun c => v.failed.any (fun p => decide (p.2 = c)))).getD stTimeout

/-- A vote at the coordinator: the commit once every shard has voted YES, and the abort once every shard has voted or failed. -/
def tallyVote (s : State) (v : Vote) : State := match shardOf s v.key with
  | none => voteAbort s v stStateRejected
  | some h =>
    let all := List.range h.rootCount
    let yes := fun i => v.yes.any (fun p => decide (p.1 = i))
    if v.deciding then setVote s v
    else if all.all yes then voteCommit s v h
    else if all.all (fun i => yes i || v.failed.any (fun p => decide (p.1 = i))) then voteAbort s v (abortStatus v)
    else setVote s v

/-- A shard that votes NO or that the coordinator cannot reach. -/
def voteFails (s : State) (v : Vote) (i : Nat) (status : Byte) : State :=
  tallyVote s { v with failed := v.failed ++ [(i, status)] }

/-- This shard's NO vote: the coordinator counts it, a peer tells the coordinator, and the shard stays OPEN (R332). -/
def castNo (s : State) (v : Vote) (reason : Byte) : State :=
  if v.coordinator then voteFails s { v with preparing := false } 0 (reasonStatus reason)
  else
    let me := match shardOf s v.key with
      | none => 0
      | some h => h.rootIndex
    sendVote (dropVote s v.key) none v.key (v.peers.getD 0 0) 0 false (voteBytes vkNo reason me v.key.hset v.step [])

/-- This shard's YES vote: PREPARED, with its digest (R332, step 5). -/
def castYes (s : State) (v : Vote) (h : Shard) (digest : DWord) : State :=
  let s := setShard s { h with state := .prepared }
  let v := { v with preparing := false, votedAt := s.now }
  if v.coordinator then tallyVote s { v with yes := v.yes ++ [(h.rootIndex, digest)] }
  else sendVote (setVote s v) none v.key (v.peers.getD 0 0) 0 false (voteBytes vkYes 0 h.rootIndex v.key.hset v.step (toLe 8 digest.toNat))

/-- A shard that PREPARE or a commit finds IDLE opens its step, where that may open (R323, R324). -/
def openForVote (s : State) (h : Shard) : State := if mayOpen s h then setShard s (openStep h) else s

/-- Whether the floor state holds a prepare: it waits at its first write, which is the first segment that it copies (R342). -/
def floorHolds (s : State) (h : Shard) : Bool :=
  s.power.floor && !(forwardList h).isEmpty && (copyForward h ((forwardList h).take 1) s).isSome

/-- The preparing of a shard (R332): it waits while a writer runs, a LOAD port is bound, or the floor state holds its first write. -/
def tryPrepare (s : State) (v : Vote) : State :=
  if !v.preparing then s
  else match shardOf s v.key with
    | none => castNo s v vrState
    | some h =>
      if h.version + 1 ≠ v.step ∨ h.state = .prepared ∨ (h.state = .idle ∧ !mayOpen s h) then castNo (openForVote s h) v vrState
      else
        let h := openStep h
        let s := setShard s h
        if hasWriter s h.key ∨ (boundPorts s h.key).any (fun p => !p.2.unload) ∨ floorHolds s h then s
        else match copyForward h (forwardList h) s with
          | none => castNo (countPoisonRead s) v vrPoison
          | some s =>
            let h := forwardRecord h
            let s := setShard s h
            match shardDigest s h (h.version + 1) with
            | none => castNo (countPoisonRead s) v vrPoison
            | some d => castYes s v h d

/-- Every preparing vote tried again. -/
def retryPrepares (s : State) : State := s.hb.votes.foldl (fun s v => match voteOf s v.key with
  | none => s
  | some v => tryPrepare s v) s

/-! ### HB_COMMIT -/

def checkCommit (s : State) (c : Cmd) : State × Verdict :=
  let d := c.desc
  let o := localOp d 40
  let opOk := if c.ctx = 0 then o.clean && decide (o.handle = 0) else o.legal (isConvert s c.ctx)
  if !harbourOperands s c ∨ !opOk ∨ !reservedZero d 38 40 ∨ !reservedZero d 52 64 then (s, protocolV)
  else (s, withShard s c (fun h =>
    if h.rootIndex ≠ 0 then protocolV
    else if h.state = .prepared ∨ (voteOf s h.key).isSome then stateV
    else if !harbourKeyOk s h.key.ctx then .reject stKeyInvalid 0
    else .go 0))

/-- The start of HB_COMMIT: PREPARE goes to every peer, and the coordinator prepares (R332, R334). -/
def startCommit (s : State) (c : Cmd) : State :=
  match shardOf s (setKeyOf c) with
  | none => endCmd s c stStateRejected 0
  | some h =>
    if h.state = .prepared ∨ (voteOf s h.key).isSome then endCmd s c stStateRejected 0
    else
      let r := operandLook s c (localOp c.desc 40) (2 * h.rootCount)
      let s := warm s c.block r
      match r.out with
      | .error e =>
        let q := failLocal s c 0 e
        endCmd q.1 q.2 q.2.status q.2.result
      | .ok bs =>
        let peers := (List.range h.rootCount).map (fun i => BitVec.ofNat 16 (fieldAt bs (2 * i) 2))
        if (ownFid s).isNone then endCmd s c stDestLost 0
        else if ownFid s ≠ some (peers.getD 0 0) then endCmd s c stProtocol 0
        else
          let v : Vote :=
            { key := h.key, step := stepAt c.desc 32, coordinator := true, cmd := some c.id, peers := peers, yes := [], preparing := true,
              failed := [], answers := [], deciding := false, waiting := [], unreached := [], coordinatorLost := false, votedAt := s.now,
              cls := some (classOf s c.block c.queue) }
          let s := setCmd s { c with sentAll := true, tilesLeft := 1 }
          let s := { s with hb := { s.hb with votes := s.hb.votes ++ [v] } }
          tryPrepare (sendAllVotes s v 0 false (voteBytes vkPrepare 0 0 v.key.hset v.step [])) v

/-! ### What a vote record does at its receiver -/

/-- The fields of a vote record (R333). -/
def voteKind (m : VoteMsg) : Byte := byteAt m.record 0
def voteReason (m : VoteMsg) : Byte := byteAt m.record 1
def voteRoot (m : VoteMsg) : Nat := (byteAt m.record 2).toNat
def voteStep (m : VoteMsg) : Nat := fieldAt m.record 8 6
def voteHash (m : VoteMsg) : Bytes := slice m.record 16 48

/-- The set that a vote record concerns. -/
def voteKey (m : VoteMsg) : SetKey := { ctx := m.ctx, hset := BitVec.ofNat 32 (fieldAt m.record 4 4) }

/-- Whether 64 bytes are a vote record of R333: a KIND of its table, a REASON that the kind has, and zero in every byte that is
reserved or that the kind leaves zero (R8). -/
def voteRecordOk (bs : Bytes) : Bool :=
  let k := byteAt bs 0
  let reasons : List Byte := if k = vkNo then [vrPoison, vrState, vrWait] else if k = vkReply then [0, 1, 2] else [0]
  decide (bs.length = 64) && decide (vkPrepare ≤ k) && decide (k ≤ vkReply) && reasons.contains (byteAt bs 1) &&
  reservedZero bs 3 4 && reservedZero bs 14 16 &&
  reservedZero bs (if k = vkYes then 24 else if k = vkCommit then 64 else 16) 64

/-- The check of R333 on a vote record: it comes from a memory die of another module. A module without an own fabric ID applies no row of
R366 for one, so no vote record reaches its harbour engine (R593). -/
def voteLegal (s : State) (m : VoteMsg) : Bool :=
  (ownFid s).isSome && decide (ownFid s ≠ some m.src) && decide (0x50 ≤ m.unit) && decide (m.unit < 0x58) && harbourOn s && inService s && !inTeardown s m.ctx

/-- PREPARE at a peer: a shard that is not there says nothing. One of a step other than V + 1 meets a NO vote, whatever vote the
shard holds; a second one of the step that is being voted on says nothing (R332, log 166). -/
def onPrepare (s : State) (m : VoteMsg) : State := match shardOf s (voteKey m) with
  | none => s
  | some h =>
    if voteStep m ≠ h.version + 1 then
      sendVote (openForVote s h) none h.key m.src 0 false (voteBytes vkNo vrState h.rootIndex h.key.hset (voteStep m) [])
    else if (voteOf s h.key).isSome then s
    else
      let v : Vote :=
        { key := h.key, step := voteStep m, coordinator := false, cmd := none, peers := if m.peers.isEmpty then [m.src] else m.peers,
          yes := [], preparing := true, failed := [], answers := [], deciding := false, waiting := [], unreached := [],
          coordinatorLost := false, votedAt := s.now, cls := none }
      tryPrepare { s with hb := { s.hb with votes := s.hb.votes ++ [v] } } v

/-- Whether a record comes from the shard of a vote whose ROOT_INDEX it carries, and concerns its step. -/
def fromShard (v : Vote) (m : VoteMsg) : Bool :=
  decide (v.peers[voteRoot m]? = some m.src) && decide (v.step = voteStep m)

/-- VOTE_YES and VOTE_NO at the coordinator (R334). -/
def onYes (s : State) (m : VoteMsg) : State := match voteOf s (voteKey m) with
  | none => s
  | some v =>
    if !v.coordinator ∨ v.deciding ∨ !fromShard v m ∨ v.yes.any (fun p => decide (p.1 = voteRoot m)) then s
    else tallyVote s { v with yes := v.yes ++ [(voteRoot m, BitVec.ofNat 64 (fieldAt (voteHash m) 0 8))] }
def onNo (s : State) (m : VoteMsg) : State := match voteOf s (voteKey m) with
  | none => s
  | some v => if !v.coordinator ∨ v.deciding ∨ !fromShard v m then s else voteFails s v (voteRoot m) (reasonStatus (voteReason m))

/-- DECIDE_COMMIT and DECIDE_ABORT at a peer (R334): a commit is of the step that the shard has voted for; an abort takes every OPEN shard
to IDLE, that of another step the one that its PREPARE opened too, and a PREPARED one where it is of its step (R324). -/
def onCommit (s : State) (m : VoteMsg) : State := match shardOf s (voteKey m) with
  | none => s
  | some h =>
    if h.state = .prepared ∧ h.version + 1 = voteStep m then applyCommit (dropVote s h.key) h (fit 48 (voteHash m)) else s
def onAbort (s : State) (m : VoteMsg) : State := match shardOf s (voteKey m) with
  | none => s
  | some h =>
    let mine := (voteOf s h.key).all (fun v => decide (v.step = voteStep m))
    if h.state = .opened ∨ (h.state = .prepared ∧ h.version + 1 = voteStep m) then applyAbort (if mine then dropVote s h.key else s) h else s

/-- QUERY at a shard: STATE_REPLY to the sender (R335). -/
def onQuery (s : State) (m : VoteMsg) : State := match shardOf s (voteKey m) with
  | none => s
  | some h => sendVote s none h.key m.src (voteRoot m) false (voteBytes vkReply (shardCode h.state) h.rootIndex h.key.hset h.version [])

/-- Whether a round of queries whose answers all show PREPARED has lost the coordinator: the shard aborts (R335). -/
def coordinatorGone (v : Vote) : Bool := v.coordinatorLost && v.answers.all (fun a => decide (a.2.1 = 2))

/-- What the answers to a query decide (R335): commit, abort, or nothing yet. A commit learnt from an answer stores a hash
that the answer does not carry: a free value, one for the set and the version (log 27). -/
def queryVerdict (s : State) (v : Vote) : State := match shardOf s v.key with
  | none => dropVote s v.key
  | some h =>
    if v.answers.any (fun a => decide (v.step ≤ a.2.2)) then
      applyCommit (dropVote s v.key) h ((List.range 48).map (Config.remoteHash h.key.ctx.toNat h.key.hset.toNat v.step))
    else if v.answers.any (fun a => decide (a.2.1 ≠ 2) && decide (a.2.2 + 1 = v.step)) then applyAbort (dropVote s v.key) h
    else if v.waiting.isEmpty ∧ coordinatorGone v then applyAbort (dropVote s v.key) h
    else setVote s v

/-- STATE_REPLY at the shard that asked (R335). -/
def onReply (s : State) (m : VoteMsg) : State := match voteOf s (voteKey m) with
  | none => s
  | some v =>
    if v.coordinator ∨ v.preparing ∨ v.peers[voteRoot m]? ≠ some m.src then s
    else
      let i := voteRoot m
      queryVerdict s { v with answers := v.answers ++ [(i, voteReason m, voteStep m)], waiting := v.waiting.erase i }

/-- A write to a peer answered, or ended with the status of an error (R334, R335): only DEST_LOST says that the peer is lost; after
another error its vote, or its answer, is one that does not come. -/
def onVoteWrite (s : State) (key : SetKey) (peer : Nat) (decided : Bool) (status : Byte) : State := match voteOf s key with
  | none => s
  | some v =>
    let ok := decide (status = stOk)
    let lost := decide (status = stDestLost)
    if v.coordinator then
      if v.deciding then
        let v := { v with waiting := v.waiting.erase peer, unreached := if ok then v.unreached else v.unreached ++ [peer] }
        let hash := match shardOf s key with
          | none => []
          | some h => h.hash
        if decided ∧ v.waiting.isEmpty then voteDone s v hash else setVote s v
      else if lost then voteFails s v peer stDestLost else s
    else if ok ∨ v.preparing ∨ peer ∉ v.waiting then s
    else queryVerdict s { v with waiting := v.waiting.erase peer, coordinatorLost := v.coordinatorLost || (lost && decide (peer = 0)) }

/-- A vote record by its KIND, for a write that reaches the vote handle as a packet. -/
def onVoteRecord (s : State) (m : VoteMsg) : State :=
  let kind := voteKind m
  if kind = vkPrepare then onPrepare s m
  else if kind = vkYes then onYes s m
  else if kind = vkNo then onNo s m
  else if kind = vkCommit then onCommit s m
  else if kind = vkAbort then onAbort s m
  else if kind = vkQuery then onQuery s m
  else if kind = vkReply then onReply s m
  else s

/-- The record that a WRITE packet carries. -/
def voteMsgOf (src : Fid) (unit : Nat) (ctx : CtxId) (bs : Bytes) : VoteMsg :=
  { src := src, unit := unit, ctx := ctx, record := bs, peers := [] }

/-! ## Eviction (R343, R535) -/

/-- The next shard to evict: the lowest PRIORITY, and within it the most recently created. -/
def evictNext (l : List Shard) : Option Shard :=
  l.foldl (fun acc h => match acc with
    | none => some h
    | some x => if h.priority < x.priority ∨ (h.priority = x.priority ∧ x.createdNo < h.createdNo) then some h else some x) none

/-- One shard evicted: counted and logged; its waiting sweeps complete with DEST_LOST. `onUpdate` ends the REDUCE_UPDATEs
that use it. -/
def evict (onUpdate : Coll → State → State) (s : State) (h : Shard) : State :=
  let s := countEvent s (hbBase + 0x124) (hbBase + 0x110) 2
  let s := logHarbour s h.key.ctx h.key.hset h.version 343
  let s := (updatesOn s h.key).foldl (fun s c => onUpdate c s) s
  let mine := s.hb.sweeps.filter (fun w => decide (w.key = h.key))
  let s := { s with hb := { s.hb with sweeps := s.hb.sweeps.filter (fun w => decide (w.key ≠ h.key)) } }
  let s := mine.foldl (fun s w => match cmdOf s w.cmd with
    | none => s
    | some c => endCmd s c stDestLost 0) s
  freeShard s h.key

/-- Shards evicted until the allocation fits the units in service; none while the floor state holds write bursts (R342). -/
def evictToFit (onUpdate : Coll → State → State) : Nat → State → State
  | 0, s => s
  | fuel + 1, s =>
    if unitsUsed s ≤ s.hb.unitsTotal ∨ s.power.floor then s
    else match evictNext s.hb.shards with
      | none => s
      | some h => evictToFit onUpdate fuel (evict onUpdate s h)

end Sys2Proof.Machine
end

