-- ==== Sys2Proof/Machine/CollBase.lean ====
section
/-!
DEFINITION. Collectives, first part: plan records and their check (R237 to R239), the tree of a plan (R240), the geometry of
a collective (R249, R250, R253, R272), the group commands (R241 to R243), and launches (R246 to R252, R305).
-/
namespace Sys2Proof.Machine

open Sys2Proof

/-! ## Plan records (R237, R238) -/

def fidRoot : Fid := 0xFFFF
def fidAnyRoot : Fid := 0xFFFE

/-- The counts of a plan's header, and the length of the record: its parts, padded to a multiple of 8 bytes. -/
def planMembers (h : Bytes) : Nat := bits (fieldAt h 8 4) 16 0
def planModules (h : Bytes) : Nat := fieldAt h 12 2
def planRoots (h : Bytes) : Nat := fieldAt h 14 2
def planLen (h : Bytes) : Nat := ceilDiv (64 + 4 * planMembers h + 8 * planModules h + 2 * planRoots h) 8 * 8

/-- The plan that a record spells. -/
def planFrom (r : Bytes) : Plan :=
  let mb := 64 + 4 * planMembers r
  let rb := mb + 8 * planModules r
  { ctx := BitVec.ofNat 20 (bits (fieldAt r 0 4) 19 0), group := BitVec.ofNat 12 (bits (fieldAt r 0 4) 31 20),
    epoch := BitVec.ofNat 16 (fieldAt r 4 2), pipeline := bits (fieldAt r 6 1) 7 4, cls := BitVec.ofNat 3 (bits (fieldAt r 6 1) 2 0),
    members := (List.range (planMembers r)).map (fun i =>
      (BitVec.ofNat 16 (fieldAt r (64 + 4 * i) 2), BitVec.ofNat 16 (fieldAt r (66 + 4 * i) 2))),
    modules := (List.range (planModules r)).map (fun i =>
      let e := fieldAt r (mb + 8 * i) 8
      { fid := BitVec.ofNat 16 (bits e 15 0), parent := BitVec.ofNat 16 (bits e 31 16), halyardEn := bit e 61,
        packetFallback := bit e 62, halyardUp := bits e 59 48, halyardDn := bits e 43 32 }),
    roots := (List.range (planRoots r)).map (fun i => BitVec.ofNat 16 (fieldAt r (rb + 2 * i) 2)) }

/-- The entry of a module in a plan. -/
def planEntry (p : Plan) (f : Fid) : Option PlanModule := p.modules.find? (fun m => decide (m.fid = f))

/-- Whether a list has no repeats. -/
def noRepeats (l : List Fid) : Bool := match l with
  | [] => true
  | x :: xs => decide (x ∉ xs) && noRepeats xs

/-- Whether a module's parent chain reaches a root within a number of modules, the root of a chunk among them (R239). -/
def chainEnds (p : Plan) : Nat → Fid → Bool
  | 0, _ => false
  | fuel + 1, f => match planEntry p f with
    | none => false
    | some m => decide (m.parent = fidRoot) || (if m.parent = fidAnyRoot then decide (0 < fuel) else chainEnds p fuel m.parent)

/-- The reserved bits of a record. -/
def planReserved (r : Bytes) : Bool :=
  let mb := 64 + 4 * planMembers r
  !bit (fieldAt r 6 1) 3 && reservedZero r 7 8 && decide (bits (fieldAt r 8 4) 31 17 = 0) && reservedZero r 24 64 &&
  (List.range (planModules r)).all (fun i =>
    let e := fieldAt r (mb + 8 * i) 8
    !bit e 63 && !bit e 60 && decide (bits e 47 44 = 0)) &&
  reservedZero r (mb + 8 * planModules r + 2 * planRoots r) (planLen r)

/-- Whether a record is well formed (R237, R239), for the context and group of the command that carries it. -/
def planOk (s : State) (r : Bytes) (ctx : CtxId) (group : BitVec 12) : Bool :=
  let p := planFrom r
  decide (planLen r ≤ 2 ^ 20) && decide (r.length = planLen r) && decide (1 ≤ planMembers r) && decide (planMembers r ≤ 65536) &&
  decide (1 ≤ planModules r) && decide (planModules r ≤ 4096) && decide (1 ≤ planRoots r) && decide (planRoots r ≤ 256) &&
  decide (1 ≤ p.pipeline) && decide (p.pipeline ≤ 8) && planReserved r &&
  decide (BitVec.ofNat 64 (fieldAt r 16 8) = crc64 (r.take 16 ++ zeros 8 ++ r.drop 24)) &&
  noRepeats (p.members.map (·.1)) && noRepeats (p.modules.map (·.fid)) &&
  p.members.all (fun m => (planEntry p m.2).isSome) &&
  p.modules.all (fun m => chainEnds p 4 m.fid &&
    (!m.halyardEn || accepted s 5) && (decide (m.parent ≠ fidRoot) || decide (m.fid ∈ p.roots)) &&
    (decide (m.parent ≠ fidAnyRoot) || decide (1 < p.roots.length))) &&
  p.roots.all (fun f => (planEntry p f).any (fun m => decide (m.parent = fidRoot))) &&
  (decide (p.roots.length ≤ 1) || p.members.all (fun m => decide (m.2 ∉ p.roots))) &&
  decide (p.ctx = ctx) && decide (p.group = group)

/-- The further check of a leaf: its blocks serve every member that names it (R239). -/
def leafOk (s : State) (p : Plan) : Bool :=
  p.members.all (fun m => decide (ownFid s ≠ some m.2) || (blockOfFid s m.1).isSome)

/-! ## The tree (R240) -/

/-- The primary root, and the root of a chunk. -/
def primaryOf (p : Plan) : Fid := p.roots.headD 0
def rootOfChunk (p : Plan) (k : Nat) : Fid := p.roots.getD (k % max p.roots.length 1) 0

/-- The members and the modules that send to a module. -/
def memberKids (p : Plan) (f : Fid) : List Fid := (p.members.filter (fun m => decide (m.2 = f))).map (·.1)
def moduleKids (p : Plan) (f : Fid) : List Fid :=
  (p.modules.filter (fun m => decide (m.parent = f) || (decide (m.parent = fidAnyRoot) && decide (f ∈ p.roots)))).map (·.fid)
def kidsOf (p : Plan) (f : Fid) : List Fid := memberKids p f ++ moduleKids p f

/-- Where a module sends what concerns a chunk: none at the root. -/
def parentFor (p : Plan) (f : Fid) (k : Nat) : Option Fid := match planEntry p f with
  | none => none
  | some m => if m.parent = fidRoot then none else if m.parent = fidAnyRoot then some (rootOfChunk p k) else some m.parent

/-- Whether a module lies below another, or is it; `fuel` bounds the chain. -/
def below (p : Plan) (top : Fid) : Nat → Fid → Bool
  | 0, f => decide (f = top)
  | fuel + 1, f => decide (f = top) || (match planEntry p f with
    | none => false
    | some m => if m.parent = fidAnyRoot then decide (top ∈ p.roots) else below p top fuel m.parent)

/-- The members that a child of a module stands for, by index: itself, or those below it. -/
def membersUnder (p : Plan) (kid : Fid) : List Nat :=
  if (planEntry p kid).isSome then
    ((p.members.zipIdx).filter (fun m => below p kid 4 m.1.2)).map (·.2)
  else ((p.members.zipIdx).filter (fun m => decide (m.1.1 = kid))).map (·.2)

/-- A member's index in a plan. -/
def memberIndex (p : Plan) (f : Fid) : Option Nat := ((p.members.zipIdx).find? (fun m => decide (m.1.1 = f))).map (·.2)

/-! ## The geometry of a collective -/

/-- OP of a launch (R247). -/
def coBarrier : BitVec 4 := 0
def coBroadcast : BitVec 4 := 1
def coReduce : BitVec 4 := 2
def coAllReduce : BitVec 4 := 3
def coReduceScatter : BitVec 4 := 4
def coAllGather : BitVec 4 := 5

/-- Whether a launch reduces, and so claims slots (R254). -/
def reduces (f : LaunchFields) : Bool := decide (f.kind ≠ 0)

/-- Elements of the full range, of a chunk, and the number of chunks: BARRIER has one chunk without elements. -/
def totalElems (f : LaunchFields) (n : Nat) : Nat :=
  if f.op = coBarrier then 0 else if f.op = coAllGather then n * f.count.toNat else f.count.toNat
def chunkLen (f : LaunchFields) : Nat := 2 ^ (f.chunk.toNat + 12)
def chunkCount (f : LaunchFields) (n : Nat) : Nat := if f.op = coBarrier then 1 else ceilDiv (totalElems f n) (chunkLen f)
def chunkSize (f : LaunchFields) (n k : Nat) : Nat := min (chunkLen f) (totalElems f n - k * chunkLen f)

/-- How many elements two ranges share, and where. -/
def overlap (a n b m : Nat) : Nat × Nat := (max a b, min (a + n) (b + m) - max a b)

/-- The range of elements that a member gives, and the range that it receives (R249, R253). -/
def inputOf (f : LaunchFields) (n i : Nat) : Nat × Nat :=
  if f.op = coBroadcast then (if f.root.toNat = i then (0, totalElems f n) else (0, 0))
  else if f.op = coAllGather then (i * f.count.toNat, f.count.toNat)
  else (0, totalElems f n)
def outputOf (f : LaunchFields) (n i : Nat) : Nat × Nat :=
  if f.op = coReduce then (if f.root.toNat = i then (0, totalElems f n) else (0, 0))
  else if f.op = coReduceScatter then (i * (f.count.toNat / n), f.count.toNat / n)
  else (0, totalElems f n)

/-- What a member gives and receives of `m` elements of chunk k from `first` on. -/
def givesIn (f : LaunchFields) (n i k first m : Nat) : Nat × Nat :=
  overlap (k * chunkLen f + first) m (inputOf f n i).1 (inputOf f n i).2
def takesIn (f : LaunchFields) (n i k first m : Nat) : Nat × Nat :=
  overlap (k * chunkLen f + first) m (outputOf f n i).1 (outputOf f n i).2

/-- Whether a child gives anything, and receives anything, of a range of a chunk. -/
def kidGives (p : Plan) (f : LaunchFields) (kid : Fid) (k first m : Nat) : Bool :=
  (membersUnder p kid).any (fun i => decide (0 < (givesIn f p.members.length i k first m).2))
def kidTakes (p : Plan) (f : LaunchFields) (kid : Fid) (k first m : Nat) : Bool :=
  (membersUnder p kid).any (fun i => decide (0 < (takesIn f p.members.length i k first m).2))

/-- The elements that a child delivers to a piece: all of it to a reduction, else what its members give. -/
def kidShare (p : Plan) (f : LaunchFields) (kid : Fid) (k first m : Nat) : Nat :=
  if reduces f then (if kidGives p f kid k first m then m else 0)
  else ((membersUnder p kid).map (fun i => (givesIn f p.members.length i k first m).2)).foldl (· + ·) 0

/-- Elements of a CONTRIB or RESULT packet (R272). -/
def perPacket (fmt : Nat) : Nat :=
  if isMx fmt then (if elemBits fmt = 8 then 2048 else 4096) else 4096 * 8 / elemBits fmt

/-- Bytes of an operand of n elements: elements, padding to 256, scales (R250). -/
def scaleBase (fmt n : Nat) : Nat := ceilDiv (elemBytes fmt n) 256 * 256
def operandBytes (fmt n : Nat) : Nat := if isMx fmt then scaleBase fmt n + ceilDiv n 32 else elemBytes fmt n

/-- A payload of elements and, for an MX format, the scale bytes of its blocks; and the elements that a payload holds. -/
def payloadOf (fmt : Nat) (elems scales : List Nat) : Bytes :=
  packElems fmt elems ++ (if isMx fmt then scales.map (BitVec.ofNat 8) else [])
def payloadElems (fmt len : Nat) : Nat :=
  if isMx fmt then len / (4 * elemBits fmt + 1) * 32 else len * 8 / elemBits fmt

/-- Slots of an element count (R253). -/
def slotElems : Nat := 4096
def slotsOf (n : Nat) : Nat := ceilDiv n slotElems

/-- Whether a collective needs an anchor scan (R259): a SUM of floating-point or MX inputs without an explicit anchor. -/
def needsScan (f : LaunchFields) : Bool :=
  decide (f.kind.toNat = opSum) && !arithExplicit f.arith && !isInt (arithIn f.arith)

/-! ## Records -/

def groupOf (s : State) (g : BitVec 12) : Option Group := Tab.get? s.groups g
def setGroup (s : State) (g : BitVec 12) (x : Group) : State := { s with groups := Tab.put s.groups g x }
def collOf (s : State) (k : CollKey) : Option Coll := s.colls.find? (fun c => decide (c.key = k))
def setColl (s : State) (c : Coll) : State := { s with colls := s.colls.map (fun x => if x.key = c.key then c else x) }
def launchesOf (s : State) (g : BitVec 12) : List Launch := s.launches.filter (fun l => decide (l.key.group = g))
def setLaunch (s : State) (l : Launch) : State :=
  { s with launches := s.launches.map (fun x => if x.key = l.key ∧ x.block = l.block then l else x) }
def claimOf (s : State) (k : CollKey) : Option Claim := s.claims.find? (fun c => decide (c.key = k))

/-- The module's own fabric ID; where the driver set none, 0xFFFF, which names no module (R97, DESIGN CHOICE, log 196). -/
def me (s : State) : Fid := (ownFid s).getD 0xFFFF

/-- A message of a group about an element of a chunk under a try (R271). -/
def chunkMsg (p : Plan) (src dst : Fid) (collId : Word) (k first t : Nat) (body : CollBody) : CollMsg :=
  { hdr := { blankHdr with
      src := src, dst := dst, burgee := burgeeOf p.ctx 0, seq := collId,
      region := BitVec.ofNat 32 (p.group.toNat + p.epoch.toNat * 2 ^ 12 + t % 4 * 2 ^ 28),
      offset := BitVec.ofNat 48 (first % 2 ^ 20 + k % 2 ^ 20 * 2 ^ 20) },
    body := body }

/-- A message of a group. -/
def groupMsg (p : Plan) (src dst : Fid) (collId : Word) (body : CollBody) : CollMsg := chunkMsg p src dst collId 0 0 0 body

/-- A control message sent by the management die. -/
def sendCtl (s : State) (p : Plan) (m : CollMsg) : State := sendColl s (unitMgmt s) p.cls m

/-- A control message of a group without COLL_ID sent to each of a list. -/
def tellAll (s : State) (p : Plan) (l : List Fid) (body : CollBody) : State :=
  l.foldl (fun s f => sendCtl s p (groupMsg p (me s) f 0 body)) s

/-! ## The end of a launch (R264, R265) -/

/-- A launch ended with a status and a result. Under CHUNK_SIGNAL the signal was added chunk by chunk, so it is not added
here (R265, step 1). -/
def endLaunch (s : State) (l : Launch) (status : Byte) (result : DWord) (aux : Bytes) : State :=
  let rest := s.launches.filter (fun x => !(decide (x.key = l.key) && decide (x.block = l.block)))
  let ended := (collOf s l.key).isNone && rest.all (fun x => decide (x.key ≠ l.key))
  let s := { s with launches := rest, collBuilt := if ended then s.collBuilt.filter (fun e => decide (e.1 ≠ l.key)) else s.collBuilt }
  match cmdOf s l.cmd with
  | none => s
  | some c =>
    let c := if l.fields.chunkSignal then { c with desc := c.desc.set 2 (byteAt c.desc 2 &&& 0xF7) } else c
    if status = stStateRejected then rejectCmd s c status result else completeCmd s c status result aux false

/-- The launches of a group at this module ended with a status (R245). -/
def endLaunches (s : State) (g : BitVec 12) (status : Byte) : State :=
  (launchesOf s g).foldl (fun s l => endLaunch s l status 0 []) s

/-! ## Group commands (R242, R243) -/

/-- The end of a group command at its issuing module. -/
def endGroupCmd (s : State) (g : GroupCmd) (status : Byte) : State :=
  let s := { s with groupCmds := s.groupCmds.filter (fun x => decide (x.cmd ≠ g.cmd)) }
  match cmdOf s g.cmd with
  | none => s
  | some c => endCmd s c status 0

/-- A group closed at this module: its launches end, its claims and collectives go, its number is free, and a GROUP_DEFINE
or REGROUP that waits completes (R241, R243, R245). -/
def closeGroup (s : State) (g : BitVec 12) (status : Byte) : State :=
  let s := endLaunches s g status
  let s := { s with groups := Tab.del s.groups g, colls := s.colls.filter (fun c => decide (c.key.group ≠ g)),
                    claims := s.claims.filter (fun c => decide (c.key.group ≠ g)),
                    collBuilt := s.collBuilt.filter (fun e => decide (e.1.group ≠ g)) }
  (s.groupCmds.filter (fun c => decide (c.group = g) && !c.closing)).foldl (fun s c => endGroupCmd s c status) s

def gcGroup (d : Bytes) : BitVec 12 := BitVec.ofNat 12 (bits (fieldAt d 24 2) 11 0)

/-- The plan record of a group command: its header says how long it is. -/
def readPlan (s : State) (c : Cmd) : Look (Except LocalFail Bytes) :=
  lookThen (operandLook s c (localOp c.desc 28) 64) (fun h =>
    if 2 ^ 20 < planLen h then lookPure (.ok h) else operandLook s c (localOp c.desc 28) (planLen h))

/-- The record sent to a module in as many fragments as it takes. -/
def sendPlan (s : State) (p : Plan) (rec : Bytes) (regroup : Bool) (dst : Fid) : State :=
  (List.range (ceilDiv rec.length planData)).foldl (fun s i =>
    sendCtl s p (groupMsg p (me s) dst 0 (.planFragment (planData * i) ((rec.drop (planData * i)).take planData)
      (decide (rec.length ≤ planData * (i + 1))) regroup))) s

/-- A group command put on its way: its record goes to every module that it names, and for REGROUP to those of the current
plan as well. A module without an own fabric ID can send none (R593). -/
def issuePlan (s : State) (c : Cmd) (rec : Bytes) (old : Option Plan) : State :=
  let p := planFrom rec
  let extra := match old with
    | none => []
    | some q => (q.modules.map (·.fid)).filter (fun f => decide (f ∉ p.modules.map (·.fid)))
  let dst := p.modules.map (·.fid) ++ extra
  let s := setCmd s { c with sentAll := true, tilesLeft := 1 }
  let fresh := match old with
    | none => dst
    | some q => dst.filter (fun f => decide (f ∉ q.modules.map (·.fid)))
  let s' := { s with groupCmds := s.groupCmds ++ [{ cmd := c.id, ctx := p.ctx, group := p.group, epoch := p.epoch, cls := p.cls, fresh := fresh,
                                                    waiting := dst, closing := false, status := stOk }] }
  if (ownFid s).isNone then endCmd s { c with sentAll := true, tilesLeft := 1 } stDestLost 0
  else dst.foldl (fun s f => sendPlan s p rec old.isSome f) s'

/-- What every group command checks of its operands. -/
def groupOperands (c : Cmd) (from_ : Nat) : Bool :=
  decide (bits (fieldAt c.desc 24 2) 15 12 = 0) && reservedZero c.desc 26 28 && reservedZero c.desc from_ 64

def planOperand (s : State) (c : Cmd) : Bool :=
  let o := localOp c.desc 28
  if c.ctx = 0 then o.clean && decide (o.handle = 0) else o.legal (isConvert s c.ctx)

def checkDefineGroup (s : State) (c : Cmd) : State × Verdict :=
  if c.ctx ≠ 0 ∨ !groupOperands c 40 ∨ !planOperand s c then (s, protocolV)
  else if (groupOf s (gcGroup c.desc)).isSome then (s, stateV) else (s, .go 0)

/-- The start of GROUP_DEFINE. -/
def startDefineGroup (s : State) (c : Cmd) : State :=
  let r := readPlan s c
  let s := warm s c.block r
  match r.out with
  | .error e =>
    let q := failLocal s c 0 e
    endCmd q.1 q.2 q.2.status q.2.result
  | .ok rec =>
    if !planOk s rec (planFrom rec).ctx (gcGroup c.desc) then endCmd s c stProtocol 0
    else if (groupOf s (gcGroup c.desc)).isSome then endCmd s c stStateRejected 0
    else issuePlan s c rec none

/-- Whether a tenant's REGROUP finds its group number held for another context: its plan tells PROTOCOL from STATE_REJECTED (R242). -/
def heldByOther (g : Group) (c : CtxId) : Bool := decide (c ≠ 0) && decide (g.plan.ctx ≠ c)

/-- Whether a group may be regrouped by a context (R232, R242). -/
def mayRegroup (g : Group) (c : CtxId) : Bool :=
  decide (g.state = .active ∨ g.state = .stalled) && (decide (c = 0) || decide (g.plan.ctx = c))

def checkRegroup (s : State) (c : Cmd) : State × Verdict :=
  if !groupOperands c 40 ∨ !planOperand s c then (s, protocolV)
  else match groupOf s (gcGroup c.desc) with
    | none => (s, stateV)
    | some g => if mayRegroup g c.ctx || heldByOther g c.ctx then (s, .go 0) else (s, stateV)

/-- The start of REGROUP. -/
def startRegroup (s : State) (c : Cmd) : State :=
  let r := readPlan s c
  let s := warm s c.block r
  match r.out, groupOf s (gcGroup c.desc) with
  | .error e, _ =>
    let q := failLocal s c 0 e
    endCmd q.1 q.2 q.2.status q.2.result
  | .ok _, none => endCmd s c stStateRejected 0
  | .ok rec, some g =>
    let ctx := if c.ctx = 0 then (planFrom rec).ctx else c.ctx
    if !planOk s rec ctx (gcGroup c.desc) then endCmd s c stProtocol 0
    else if heldByOther g c.ctx then endCmd s c stStateRejected 0
    else if (planFrom rec).epoch ≠ g.plan.epoch + 1 then endCmd s c stProtocol 0
    else if !mayRegroup g c.ctx ∨ ctx ≠ g.plan.ctx then endCmd s c stStateRejected 0
    else issuePlan s c rec (some g.plan)

/-- Whether a group may be closed by command (R242). -/
def mayClose (s : State) (g : Group) (ctx : CtxId) : Bool :=
  decide (g.plan.ctx = ctx) && decide (g.state ≠ .regroup) &&
  (decide (g.state ≠ .active) || ((launchesOf s g.plan.group).isEmpty && s.colls.all (fun c => decide (c.key.group ≠ g.plan.group))))

def gcCtx (d : Bytes) : CtxId := BitVec.ofNat 20 (bits (fieldAt d 28 3) 19 0)

def checkCloseGroup (s : State) (c : Cmd) : State × Verdict :=
  if c.ctx ≠ 0 ∨ !groupOperands c 31 ∨ bits (fieldAt c.desc 28 3) 23 20 ≠ 0 then (s, protocolV)
  else match groupOf s (gcGroup c.desc) with
    | none => (s, stateV)
    | some g => if mayClose s g (gcCtx c.desc) then (s, .go 0) else (s, stateV)

/-- The start of GROUP_CLOSE: CLOSE goes to every module of the plan, and to the issuing module of a plan that is still being joined;
the command completes once each has answered. -/
def startCloseGroup (s : State) (c : Cmd) : State :=
  match groupOf s (gcGroup c.desc) with
  | none => endCmd s c stStateRejected 0
  | some g =>
    if !mayClose s g (gcCtx c.desc) then endCmd s c stStateRejected 0
    else if (ownFid s).isNone then endCmd s c stDestLost 0
    else
      let mods := g.plan.modules.map (·.fid)
      let dst := if g.state = .forming ∧ g.issuer ∉ mods then mods ++ [g.issuer] else mods
      let s := setCmd s { c with sentAll := true, tilesLeft := 1 }
      let s := { s with groupCmds := s.groupCmds ++ [{ cmd := c.id, ctx := g.plan.ctx, group := g.plan.group, epoch := g.plan.epoch,
                                                       cls := g.plan.cls, fresh := [], waiting := dst, closing := true, status := stOk }] }
      let s := if me s ∈ dst then s else closeGroup s g.plan.group stDestLost
      tellAll s g.plan dst .close

/-! ## Launches -/

def clExt (d : Bytes) : Bool := bit (fieldAt d 24 2) 15

/-- The fields of a launch and its extension, with the parameter block still to be read (R246, R251). -/
def launchFields (d : Bytes) (x : Option Bytes) (params : Bytes) : LaunchFields :=
  let e := x.getD (zeros 64)
  let b := fieldAt d 27 1
  { kind := BitVec.ofNat 4 (bits (fieldAt d 26 1) 7 4), op := BitVec.ofNat 4 (bits (fieldAt d 26 1) 3 0), ext := clExt d, chunkSignal := bit b 7,
    sumsqFp64 := bit b 6, sumsq := bit b 5, prov := bit b 4, chunk := BitVec.ofNat 4 (bits b 3 0),
    arith := BitVec.ofNat 32 (fieldAt d 28 4), collId := BitVec.ofNat 32 (fieldAt d 32 4), count := BitVec.ofNat 32 (fieldAt d 60 4),
    root := BitVec.ofNat 16 (fieldAt e 24 2), program := BitVec.ofNat 32 (fieldAt e 28 4), hset := BitVec.ofNat 32 (fieldAt e 32 4),
    step := slice e 48 16, params := params }

/-- Whether a COLL_EXT is well formed for a launch's operation (R251). -/
def extOk (s : State) (c : CtxId) (op : BitVec 4) (e : Bytes) : Bool :=
  decide (byteAt e 0 = 0x62) && reservedZero e 1 24 && reservedZero e 26 28 && ((localOp e 36).zero || (localOp e 36).legal (isConvert s c)) &&
  (decide (op = coBroadcast ∨ op = coReduce) || decide (fieldAt e 24 2 = 0)) &&
  (if op = coReduceUpdate then reservedZero e 54 56 && reservedZero e 61 64 else decide (fieldAt e 32 4 = 0) && reservedZero e 48 64)

/-- The combinations of OP, KIND, ARITH and the flags (R248, R305, R484), and the features they need. -/
def kindOk (s : State) (f : LaunchFields) : Bool :=
  let a := f.arith
  let moves := decide (f.op = coBroadcast ∨ f.op = coAllGather)
  decide (f.op.toNat ≤ 6) && decide (f.kind.toNat ≤ 6) && decide (f.chunk.toNat ≤ 8) &&
  (if f.op = coBarrier then !reduces f && decide (a = 0) && !f.prov
   else if moves then !reduces f && isFmt (arithIn a) && decide (arithOut a = arithIn a) && decide (bits a.toNat 31 16 = 0) &&
     (!isMx (arithIn a) || accepted s 4)
   else reduces f && arithOk (accepted s 4) f.kind.toNat a) &&
  (!f.sumsq || decide (f.kind.toNat = opSum)) && (f.sumsq || !f.sumsqFp64) && (!f.sumsq || decide (arithOut a ≠ 1)) &&
  (decide (f.kind.toNat ≠ opSum) || accepted s 2) &&
  (decide (f.op ≠ coReduceUpdate) || (decide (f.kind.toNat = opSum) && accepted s 0 && accepted s 1 && decide (f.program ≠ 0))) &&
  (decide (f.program = 0) || (accepted s 1 && decide (f.kind.toNat = opSum) &&
    decide (f.op = coReduce ∨ f.op = coAllReduce ∨ f.op = coReduceScatter ∨ f.op = coReduceUpdate) && !isMx (arithOut a)))

/-- The elements of a member's SRC and DST; zero where the operand must be zero (R249). -/
def srcElems (f : LaunchFields) (i : Nat) : Nat :=
  if f.op = coBarrier then 0 else if f.op = coBroadcast then (if f.root.toNat = i then f.count.toNat else 0) else f.count.toNat
def dstElems (f : LaunchFields) (n i : Nat) : Nat := (outputOf f n i).2

/-- Whether DST may be zero for no delivery. -/
def dstOptional (f : LaunchFields) : Bool := decide (f.op = coBroadcast ∨ f.op = coReduceUpdate)

/-- An operand of a number of elements of a format, at most 2^40 bytes: zero where it has none, or where it may be (R249, R250). -/
def elemsOk (conv : Bool) (o : LocalOp) (fmt elems : Nat) (opt : Bool) : Bool :=
  if elems = 0 then o.zero else (opt && o.zero) || (o.legal conv && decide (operandBytes fmt elems ≤ 2 ^ 40))

/-- COUNT, SRC and DST as far as no plan is needed to judge them (R248, R249). -/
def countAlone (s : State) (c : CtxId) (f : LaunchFields) (src dst : LocalOp) : Bool :=
  let inF := arithIn f.arith
  let outF := arithOut f.arith
  let conv := isConvert s c
  let n := f.count.toNat
  if f.op = coBarrier then decide (f.count = 0) && src.zero && dst.zero
  else
    decide (n ≠ 0) && (!(isMx inF || isMx outF) || decide (n % 32 = 0)) &&
    (decide (f.op = coAllGather) || decide (ceilDiv n (chunkLen f) ≤ 2 ^ 20)) &&
    (src.zero || src.legal conv) && (dst.zero || dst.legal conv) && (decide (f.op = coBroadcast) || elemsOk conv src inF n false) &&
    (decide (f.op ≠ coAllReduce ∧ f.op ≠ coReduceUpdate ∧ f.op ≠ coBroadcast) || elemsOk conv dst outF n (dstOptional f))

/-- COUNT, SRC and DST against the plan (R249). -/
def countOk (s : State) (c : CtxId) (f : LaunchFields) (n i : Nat) (src dst : LocalOp) : Bool :=
  let inF := arithIn f.arith
  let outF := arithOut f.arith
  let conv := isConvert s c
  countAlone s c f src dst &&
  (decide (f.op = coBarrier) ||
    (decide (f.root.toNat < n) && decide (chunkCount f n ≤ 2 ^ 20) && (decide (f.op ≠ coReduceScatter) || decide (f.count.toNat % n = 0)) &&
     (decide (f.op ≠ coReduceScatter) || !(isMx inF || isMx outF) || decide (f.count.toNat / n % 32 = 0)) &&
     elemsOk conv src inF (srcElems f i) false && elemsOk conv dst outF (dstElems f n i) (dstOptional f)))

/-- The member of a plan that a block serves. -/
def memberAt (s : State) (p : Plan) (b : Nat) : Option Nat := (blockFid s b).bind (memberIndex p)

/-- Why a member block may not run one more launch of a group: a COLL_ID that runs there, or 16 that run (R252). -/
def launchRefusal (s : State) (gno : BitVec 12) (block : Nat) (collId : Word) : Option Byte :=
  let mine := (launchesOf s gno).filter (fun l => decide (l.block = block))
  if mine.any (fun l => decide (l.key.collId = collId)) then some stProtocol
  else if 16 ≤ mine.length then some stStateRejected else none

/-- The acceptance check of COLL_LAUNCH (R232, R246 to R252, R305): what breaks the command's own rules first, then what the state of
its group refuses. A block without a fabric ID is no member, so the launch is refused as R232 gives before R97 is asked for one
(log 164). -/
def checkLaunch (s : State) (c : Cmd) : State × Verdict :=
  let d := c.desc
  let f := launchFields d c.ext []
  let gno := gcGroup d
  let needsExt := decide (f.op = coBroadcast ∨ f.op = coReduce ∨ f.op = coReduceUpdate)
  if c.ctx = 0 ∨ bits (fieldAt d 24 2) 14 12 ≠ 0 ∨ !kindOk s f ∨ (needsExt ∧ !clExt d) ∨
      (clExt d ∧ !(match c.ext with
        | none => false
        | some e => extOk s c.ctx f.op e)) ∨ !countAlone s c.ctx f (localOp d 36) (localOp d 48) then (s, protocolV)
  else match groupOf s gno with
    | none => (s, stateV)
    | some g =>
      if g.state ≠ .active ∨ g.plan.ctx ≠ c.ctx then (s, stateV)
      else match memberAt s g.plan c.block with
        | none => (s, stateV)
        | some i =>
          if !countOk s c.ctx f g.plan.members.length i (localOp d 36) (localOp d 48) then (s, protocolV)
          else match launchRefusal s gno c.block f.collId with
            | some st => if st = stProtocol then (s, protocolV) else (s, stateV)
            | none =>
              if !hasKey s c.ctx then (s, .reject stKeyInvalid 0)
              else (s, .go ((g.plan.members.getD i (0, 0)).2))

/-- READY sent by a member block to its parent (R258, step 1). -/
def sendReady (s : State) (p : Plan) (l : Launch) : State :=
  let m := p.members.getD l.member (0, 0)
  sendColl s (unitOfBlock s l.block) p.cls (groupMsg p m.1 m.2 l.fields.collId (.ready l.fields l.committed))

/-- The start of COLL_LAUNCH: what the block runs by now is judged again (R252), the parameter block is read, and READY sent. -/
def startLaunch (s : State) (c : Cmd) : State :=
  let e := c.ext.getD (zeros 64)
  match groupOf s (gcGroup c.desc) with
  | none => endCmd s c stStateRejected 0
  | some g => match memberAt s g.plan c.block with
    | none => endCmd s c stStateRejected 0
    | some i =>
      if g.state ≠ .active then endCmd s c stStateRejected 0
      else match launchRefusal s g.plan.group c.block (BitVec.ofNat 32 (fieldAt c.desc 32 4)) with
      | some st => endCmd s c st 0
      | none =>
        let r := if (localOp e 36).zero then lookPure (.ok (zeros 128)) else readLook s c.block c.ctx (localOp e 36) 0 128
        let s := warm s c.block r
        match r.out with
        | .error x =>
          let q := failLocal s c 0 x
          endCmd q.1 q.2 q.2.status q.2.result
        | .ok ps =>
          let f := launchFields c.desc c.ext ps
          let l : Launch :=
            { key := { ctx := c.ctx, group := g.plan.group, epoch := g.plan.epoch, collId := f.collId }, cmd := c.id, block := c.block, member := i, fields := f,
              committed := 0, heldCommits := [], overflow := false, tries := [], seen := [], finish := none }
          sendReady { s with launches := s.launches ++ [l] } g.plan l

/-- The acceptance of a COLL_LAUNCH: with EXT 1 a COLL_EXT in the next slot is consumed with it, and serves it where it lies in the same
hoist; one that is fetched later is consumed then (R251). -/
def acceptLaunch (s : State) (b q : Nat) : State :=
  match queueOf s b q with
  | none => s
  | some x => match x.fetched with
    | [] => s
    | f :: rest =>
      if !acceptable s b q ∨ !isOp 0x60 f.bytes then s
      else
        let next := rest.head?.filter (fun e => takesExt f.bytes && isExt e.bytes)
        let c := { newCmd s b q x f with ext := (next.filter (fun e => decide (e.hoist = f.hoist))).map (·.bytes) }
        let y := { x with fetched := if next.isSome then rest.drop 1 else rest, extAt := if rest.isEmpty then extAfter x [f] else none }
        let s := setQueue { s with fresh := s.fresh + 1, cmds := s.cmds ++ [c] } b q y
        if inTeardown s c.ctx then goneCmd s c
        else match verdictOf s c checkLaunch with
          | (s, .reject st r) => rejectCmd s c st r
          | (s, .go d) =>
            let c := { c with dst := d, waitDone := waitMet s c }
            startIf (setCmd s c) c startLaunch

/-- A COLL_EXT in the slot after a launch that has ended, consumed without a pennant (R251): none where the next slot is not that one. -/
def dropExt (s : State) (b q : Nat) : Option State := match queueOf s b q with
  | none => none
  | some x => match x.fetched with
    | [] => none
    | f :: rest =>
      if x.extAt = some f.index ∧ isExt f.bytes then some (setQueue s b q { x with fetched := rest, extAt := none }) else none

/-- A COLL_EXT that stands alone completes with PROTOCOL (R251). -/
def checkLoneExt (s : State) (_ : Cmd) : State × Verdict := (s, protocolV)
def startNothing (s : State) (c : Cmd) : State := endCmd s c stProtocol 0

/-- Where a halyard's entry stands: CFG, PORTS and STATE (R390). -/
def halyardOff (h : Nat) : Nat := mgBase + 0x90000 + 16 * h

end Sys2Proof.Machine
end

