-- ==== Sys2Proof/Machine/Coll.lean ====
section
/-!
DEFINITION. Collectives, second part: how a module receives a collective message (R24, R271), sends down and up the tree,
claims slots (R254 to R256), cuts pieces (R255), adds contributions and partial sums (R260, R261, R57), rounds at the root
(R49 to R55, R281), and commits, retracts, aborts and finishes (R262 to R267, R484 to R488).
-/
namespace Sys2Proof.Machine

open Sys2Proof

/-! ## What a message concerns (R271) -/

/-- A packet whose epoch or try is not current: counted (R271). -/
def countStale (s : State) : State := countEvent s (mgBase + 0x338) (mgBase + 0x304) 4

/-- The plan of a group for an epoch that the module takes messages of: the current one, or the one it is joining. -/
def planAt (s : State) (g : BitVec 12) (epoch : BitVec 16) : Option Plan := match groupOf s g with
  | none => none
  | some x => match x.newPlan with
    | some q => if q.epoch = epoch then some q else none
    | none => if x.plan.epoch = epoch then some x.plan else none

/-- Whether the group may send GO, RETRACT and COMMIT (R268). -/
def mayGo (s : State) (g : BitVec 12) : Bool := match groupOf s g with
  | none => false
  | some x => decide (x.state = .active)

def keyOf (m : CollMsg) : CollKey := { ctx := m.ctx, group := m.group, epoch := m.epoch, collId := m.collId }

/-- A duplicate's key (R271); a GO of phase SCAN is told from one of phase DATA, and a COLL opcode from a COLL_CTRL one. -/
def opCode (m : CollMsg) : Byte := match m.body with
  | .go .scan _ => 0x46
  | b => (if collType b = tyColl then 0x80 else 0) ||| collOpcode b

/-! ## Updates -/

def updColl (s : State) (k : CollKey) (f : Coll → Coll) : State :=
  { s with colls := s.colls.map (fun c => if c.key = k then f c else c) }

/-- The try of a chunk that a module knows (R263). -/
def Coll.tryOf (c : Coll) (k : Nat) : Nat :=
  max (((c.chunks.find? (fun x => decide (x.chunk = k))).map (·.tryNo)).getD 0)
    (((c.tries.filter (fun t => decide (t.1 = k))).map (·.2)).foldl max 0)

def Coll.chunkAt (c : Coll) (k : Nat) : Option ChunkSt := c.chunks.find? (fun x => decide (x.chunk = k))

/-- A chunk of which a module knows only its try. -/
def blankChunk (k t : Nat) : ChunkSt where
  chunk := k
  tryNo := t
  anchors := []
  scans := []
  scanGone := false
  scanSent := false
  dataGone := false
  ranges := []
  pieces := []
  checked := 0
  acked := []
  delivered := []
  leafSent := false
  scanAt := 0
  resultAt := none
  corrupt := false
  overflow := false
  provs := []
  wide := Wide.zero
  sums := []
  produced := []

/-- A chunk under a new try. It keeps its anchors (R263) at its root, which sends them again; another module holds them until the chunk is
retracted (R259; DEDUCED, log 208). -/
def resetChunk (root : Bool) (x : ChunkSt) (t : Nat) : ChunkSt :=
  { blankChunk x.chunk t with anchors := if root then x.anchors else [], scanGone := x.scanGone, scanSent := x.scanSent, scanAt := x.scanAt }

def updChunk (s : State) (key : CollKey) (k : Nat) (f : ChunkSt → ChunkSt) : State :=
  updColl s key (fun c => { c with chunks := c.chunks.map (fun x => if x.chunk = k then f x else x) })

def updPiece (s : State) (key : CollKey) (k first : Nat) (f : Piece → Piece) : State :=
  updChunk s key k (fun x => { x with pieces := x.pieces.map (fun p => if p.first = first then f p else p) })

/-- The piece of a chunk that holds an element. -/
def ChunkSt.pieceAt (x : ChunkSt) (e : Nat) : Option Piece :=
  x.pieces.find? (fun p => decide (p.first ≤ e) && decide (e < p.first + p.count))

/-- What a list of counts holds for a child, and with a count added. -/
def countFor (l : List (Fid × Nat)) (f : Fid) : Nat := ((l.filter (fun p => decide (p.1 = f))).map (·.2)).foldl (· + ·) 0

/-! ## Units and dies of a collective -/

/-- The fallback block of a group (R256): the block GROUP mod 32, or mod 16 on a DX-96, or the next one in service. -/
def fallbackBlock (s : State) (g : BitVec 12) : Nat :=
  let n := blockCount s.variant
  ((List.range n).map (fun i => (g.toNat + i) % n)).find? (blockServes s) |>.getD (g.toNat % n)

/-- The reduction die that R366 gives for a chunk that no claim covers. -/
def dieFor (s : State) (k : CollKey) (chunk : Nat) : Nat :=
  let l := ariInService s
  l.getD ((k.group.toNat + k.collId.toNat + chunk) % max l.length 1) 0

/-- The die that works for a collective, and whether it has fallen back to a block. -/
def onFallback (s : State) (k : CollKey) : Bool := match claimOf s k with
  | none => false
  | some c => c.fallback
def collDie (s : State) (k : CollKey) (chunk : Nat) : Nat := match claimOf s k with
  | none => dieFor s k chunk
  | some c => if c.fallback then dieFor s k chunk else c.die

/-- The unit of the die that R366 gives for a chunk without a claim; the management die where no reduction die serves. -/
def rowUnit (s : State) (k : CollKey) (chunk : Nat) : Nat := if (ariInService s).isEmpty then unitMgmt s else unitAri (dieFor s k chunk)

/-- The unit that takes, builds and answers a collective's data packets for a chunk (R366). A claim's slots lie on one die, that of R366
for chunk 0; the spec does not say where a claim is placed. -/
def collUnit (s : State) (k : CollKey) (chunk : Nat) : Nat := match claimOf s k with
  | none => rowUnit s k chunk
  | some c => if c.fallback then unitOfBlock s (fallbackBlock s k.group) else unitAri c.die

/-- `n` events counted in a register of a die's arithmetic block, where a die met them. -/
def countArith (s : State) (die : Option Nat) (off flag n : Nat) : State := match die with
  | none => s
  | some d => (List.range n).foldl (fun s _ => countEvent s (ariBase d + off) (ariBase d + 0x400) flag) s

/-- The die that adds for a collective; a fallback block has no arithmetic registers (log 60). -/
def addDie (s : State) (k : CollKey) : Option Nat := if onFallback s k then none else some (collDie s k 0)

/-- The die that runs a collective's program: the one that holds the accumulators, and after a fallback a die in service (R281). -/
def programDie (s : State) (k : CollKey) (chunk : Nat) : Nat := collDie s k (if onFallback s k then chunk else 0)

/-! ## Sending -/

/-- A message of a collective about a range of a chunk. -/
def collMsg (p : Plan) (c : Coll) (src dst : Fid) (k first t : Nat) (body : CollBody) : CollMsg :=
  chunkMsg p src dst c.key.collId k first t body

/-- Whether a halyard of the module stands (R378). -/
def halyardUp (s : State) (h : Nat) : Bool := decide (regField s (halyardOff h + 8) 3 0 = 1)

/-- The halyard toward the parent, and toward a child module, for a chunk (R240); none where it does not stand (R270). -/
def upHalyard (s : State) (p : Plan) (k : Nat) : Option Nat := match planEntry p (me s) with
  | none => none
  | some e =>
    let h := if e.parent = fidAnyRoot then e.halyardUp + k % p.roots.length else e.halyardUp
    if e.halyardEn ∧ halyardUp s h then some h else none
def downHalyard (s : State) (p : Plan) (kid : Fid) (k : Nat) : Option Nat := match planEntry p kid with
  | none => none
  | some e =>
    let h := if e.parent = fidAnyRoot then e.halyardDn + k % p.roots.length else e.halyardDn
    if e.halyardEn ∧ halyardUp s h then some h else none

/-- A message to each of a list of children, from the management die. -/
def tellKids (s : State) (p : Plan) (c : Coll) (kids : List Fid) (k first t : Nat) (body : CollBody) : State :=
  kids.foldl (fun s f => sendCtl s p (collMsg p c (me s) f k first t body)) s

/-- A message up the tree about a chunk; none at its root. -/
def tellUp (s : State) (p : Plan) (c : Coll) (k first t : Nat) (body : CollBody) : State := match parentFor p (me s) k with
  | none => s
  | some f => sendCtl s p (collMsg p c (me s) f k first t body)

/-- Every other module of a plan, and every member. -/
def everyone (s : State) (p : Plan) : List Fid := (p.modules.map (·.fid)).filter (fun f => decide (f ≠ me s)) ++ p.members.map (·.1)

/-- RESULT packets sent to the children that receive any of a range (R260, step 6), by a root from the die that R366 gives for the
chunk; under lock-step the root keeps the payload for the chunk's record (R491). -/
def sendResult (s : State) (p : Plan) (c : Coll) (k first n t : Nat) (data : Bytes) : State :=
  let root := decide (rootOfChunk p k = me s)
  let s := updChunk s c.key k (fun x => { x with resultAt := some (x.resultAt.getD s.now) })
  let s := if s.ls.state ≠ .off ∧ root
    then updChunk s c.key k (fun x => { x with produced := x.produced ++ [(first, [data])] }) else s
  let u := if root then rowUnit s c.key k else collUnit s c.key k
  ((kidsOf p (me s)).filter (fun f => kidTakes p c.fields f k first n)).foldl (fun s f =>
    sendCollOn s u p.cls (downHalyard s p f k) (collMsg p c (me s) f k first t (.result data))) s

/-! ## Ending (R254, R264) -/

/-- The unmatched records of a collective that goes: their slots stay taken in the pool of its claim (R492). -/
def keepRecord (s : State) (k : CollKey) (x : LsLocal) : LsLocal :=
  if x.owner = some k then
    { x with owner := none, pool := (claimOf s k).map (fun c => (c.cls, if c.fallback then some (fallbackBlock s k.group) else none)) }
  else x

/-- A collective gone from the module, with its claim but for the slots that lock-step keeps. -/
def dropColl (s : State) (k : CollKey) : State :=
  { s with colls := s.colls.filter (fun c => decide (c.key ≠ k)), claims := s.claims.filter (fun c => decide (c.key ≠ k)),
           collBuilt := if s.launches.any (fun l => decide (l.key = k)) then s.collBuilt else s.collBuilt.filter (fun e => decide (e.1 ≠ k)),
           ls := { s.ls with localRecs := s.ls.localRecs.map (keepRecord s k) } }

/-- Slots of a pool, or of a fallback block, that unmatched records of collectives now over keep (R492). -/
def keptSlots (s : State) (pool : BitVec 3 × Option Nat → Bool) : Nat :=
  ((s.ls.localRecs.filter (fun x => x.pool.any pool)).map (·.slots)).foldl (· + ·) 0

/-- A collective aborted at the module: counted, its claim released. -/
def abortHere (s : State) (k : CollKey) : State := match collOf s k with
  | none => s
  | some _ => countEvent (dropColl s k) (mgBase + 0x334) (mgBase + 0x304) 3

/-- The primary root's ABORT to every module and member block: the first of a collective, which the group remembers until the
COLL_ID starts anew (R264). -/
def abortAll (s : State) (p : Plan) (k : CollKey) (status : Byte) (member : Nat) (fault : DWord) : State :=
  if (groupOf s k.group).any (fun g => decide (k.collId ∈ g.aborted)) then s
  else
  let s := abortHere s k
  let s := match groupOf s k.group with
    | none => s
    | some g => setGroup s k.group { g with aborted := g.aborted ++ [k.collId] }
  (everyone s p).foldl (fun s f => sendCtl s p (groupMsg p (me s) f k.collId (.abort status member fault))) s

/-- The ABORT of a module, or of a member block under its own fabric ID, to the primary root. -/
def abortFrom (s : State) (p : Plan) (k : CollKey) (src : Fid) (status : Byte) (member : Nat) (fault : DWord) : State :=
  if src = primaryOf p then abortAll s p k status member fault
  else sendCtl s p (groupMsg p src (primaryOf p) k.collId (.abort status member fault))
def abortUp (s : State) (p : Plan) (k : CollKey) (status : Byte) : State := abortFrom s p k (me s) status 0 0

/-! ## Claims (R254 to R256) -/

def poolOf (s : State) (cls : BitVec 3) : Nat := regField s (mgBase + 0x308 + 4 * cls.toNat) 13 0

/-- Slots of a class that granted claims hold. -/
def poolUsed (s : State) (cls : BitVec 3) : Nat :=
  ((s.claims.filter (fun c => c.granted && !c.fallback && decide (c.cls = cls))).map (·.slots)).foldl (· + ·) 0 +
  keptSlots s (fun q => decide (q = (cls, none)))

/-- The fallback slots of a block, and those that granted claims hold. -/
def fallbackSlots : Nat := 16
def fallbackUsed (s : State) (b : Nat) : Nat :=
  ((s.claims.filter (fun c => c.granted && c.fallback && decide (fallbackBlock s c.key.group = b))).map (·.slots)).foldl (· + ·) 0 +
  keptSlots s (fun q => decide (q.2 = some b))

/-- What a collective's claim asks for of a pool. -/
def claimSize (p : Plan) (f : LaunchFields) (pool : Nat) : Nat :=
  min (2 ^ f.chunk.toNat * min (chunkCount f p.members.length) p.pipeline) pool

/-- A fallback counted and logged, which breaks the RESEND condition (R256, R483). -/
def countFallback (s : State) (p : Plan) (k : CollKey) : State :=
  let s := countEvent s (mgBase + 0x32C) (mgBase + 0x304) 1
  detBreak (logColl s k.ctx k.group.toNat p.epoch.toNat k.collId.toNat 0 256) detResend

/-- A claim turned into one on the fallback block, in the order of its placing. -/
def fallBack (s : State) (p : Plan) (c : Coll) : State :=
  let cl : Claim :=
    { key := c.key, cls := p.cls, slots := 0, asked := claimSize p c.fields fallbackSlots, granted := false, fallback := true, die := 0,
      placedAt := s.now }
  countFallback { s with claims := s.claims.filter (fun x => decide (x.key ≠ c.key)) ++ [cl] } p c.key

/-- The claim of a collective placed (R254); a pool of 0 goes to the fallback at once (R277). -/
def placeClaim (s : State) (p : Plan) (c : Coll) : State :=
  if (claimOf s c.key).isSome then s
  else if poolOf s p.cls = 0 then fallBack s p c
  else
    let cl : Claim :=
      { key := c.key, cls := p.cls, slots := 0, asked := claimSize p c.fields (poolOf s p.cls), granted := false, fallback := false,
        die := dieFor s c.key 0, placedAt := s.now }
    { s with claims := s.claims ++ [cl] }

/-- Whether a collective holds its slots, or needs none. -/
def hasSlots (s : State) (c : Coll) : Bool := !reduces c.fields || (match claimOf s c.key with
  | none => false
  | some x => x.granted)

/-- Slots that a root keeps under lock-step: those of chunks that are CHECKED throughout, and of records not yet matched. FROZEN releases
every one (R492, R493). -/
def heldSlots (s : State) (c : Coll) : Nat :=
  if s.ls.state = .frozen then 0
  else
  let whole := c.chunks.filter (fun x => x.dataGone && x.ranges.isEmpty && x.pieces.isEmpty)
  ((whole.map (fun x => (x.sums.map (fun q => slotsOf q.2.length)).foldl (· + ·) 0)).foldl (· + ·) 0) +
  ((s.ls.localRecs.filter (fun x => decide (x.owner = some c.key))).map (·.slots)).foldl (· + ·) 0

/-- Slots of a collective's claim that neither a piece nor lock-step holds; a die that leaves service runs only the pieces that it
has (R533). -/
def slotsLeft (s : State) (c : Coll) : Nat := match claimOf s c.key with
  | none => 0
  | some x =>
    if x.granted && (x.fallback || decide (dieState s (ordAri x.die) ≠ .draining)) then
      x.slots - ((c.chunks.map (fun k => (k.pieces.map (fun q => slotsOf q.count)).foldl (· + ·) 0))).foldl (· + ·) 0 - heldSlots s c
    else 0

/-! ## Commits, DONE and FINISH -/

/-- Whether FINISH comes for a collective (R265, R296). -/
def finishComes (f : LaunchFields) : Bool := f.prov || f.sumsq || decide (f.program ≠ 0)

/-- The chunks of a root: those whose index falls on its place among the root entries. -/
def ownChunks (p : Plan) (f : Fid) (n : Nat) : List Nat := (List.range n).filter (fun k => decide (rootOfChunk p k = f))

/-- The members that contribute to a chunk, in member order (R485). -/
def contributors (f : LaunchFields) (n k : Nat) : List Nat :=
  (List.range n).filter (fun i => decide (0 < (givesIn f n i k 0 (chunkSize f n k)).2))

def specialByte : Special → Byte
  | .finite => 0
  | .posInf => 1
  | .negInf => 2
  | .nan => 3

/-- The payload of DONE (R272), and the accumulator that one spells. -/
def wideBytes (x : Wide) : Bytes := toLe 80 x.w.toNat ++ toLe 2 x.residue.toNat ++ [specialByte x.special]
def wideFrom (bs : Bytes) : Wide :=
  { w := BitVec.ofNat 640 (fieldAt bs 0 80), residue := BitVec.ofNat 16 (fieldAt bs 80 2), special := markSpecial (byteAt bs 82).toNat }

/-- A wide accumulator that fails its residue check: counted at the die that holds it, and the collective aborted with CHECK_FAILED. It
belongs to no chunk, so there is none to retract (DESIGN CHOICE, log 167). -/
def wideFails (s : State) (p : Plan) (k : CollKey) : State :=
  abortUp (countArith s (if (ariInService s).isEmpty then none else some (dieFor s k 0)) 0x40C 2 1) p k stCheckFailed

/-- The hash of a program as the digest takes it: 48 zero bytes without a program; free bytes at a module that does not
hold it (R484, R487). -/
def programHashOf (s : State) (k : CollKey) (h : Word) : Bytes :=
  if h = 0 then zeros 48
  else match programOf s k.ctx h with
    | some p => p.hash
    | none => (List.range 48).map (Config.remoteHash k.ctx.toNat h.toNat 0)

/-- The hash of the version that a REDUCE_UPDATE reads (R484). -/
def versionHashOf (s : State) (c : Coll) : Bytes :=
  if c.fields.op ≠ coReduceUpdate then zeros 48
  else match shardOf s { ctx := c.key.ctx, hset := c.fields.hset } with
    | some h => fit 48 h.hash
    | none => (List.range 48).map (Config.remoteHash c.key.ctx.toNat c.fields.hset.toNat (fieldAt c.fields.step 0 6 - 1))

/-- The digest record of a collective (R488), PHASE clear. -/
def digestBytes (s : State) (p : Plan) (c : Coll) (digest : Bytes) (primary : Bool) : Bytes :=
  fit 48 digest ++ programHashOf s c.key c.fields.program ++ versionHashOf s c ++ toLe 4 c.key.collId.toNat ++
  toLe 4 (c.key.ctx.toNat + c.key.group.toNat * 2 ^ 20) ++ toLe 2 p.epoch.toNat ++
  [BitVec.ofNat 8 (c.fields.op.toNat + c.fields.kind.toNat * 16), BitVec.ofNat 8 (b01 primary + 4 * b01 c.overflow)] ++
  toLe 4 c.fields.arith.toNat ++ toLe 4 p.members.length ++ toLe 4 c.fields.count.toNat ++
  toLe 4 (chunkCount c.fields p.members.length) ++ zeros 4 ++ toLe 8 (s.now - s.serviceAt) ++ zeros 8

/-- A digest record written where the collective has provenance and the module serves a member or is the primary root, or
discarded and counted (R487, R488). -/
def digestRecord (s : State) (p : Plan) (c : Coll) (digest : Bytes) : State :=
  let primary := decide (me s = primaryOf p)
  if !c.fields.prov ∨ (!primary ∧ (memberKids p (me s)).isEmpty) then s
  else
    if ringOpen s digestRing then ringPut s digestRing (digestBytes s p c digest primary) else bump s (mgBase + 0x518)

/-- The value that FINISH carries: the squares under ROUND, or the program accumulator under round to nearest (R265, R296).
The draw of mode 4 is not stated for it, and is a free value of the context and the COLL_ID (R27). -/
def finishValue (s : State) (c : Coll) (w : Wide) : DWord :=
  if c.fields.sumsq then
    BitVec.ofNat 64 (wideRound (if c.fields.sumsqFp64 then fp64 else fp32) (arithRound c.fields.arith)
      (Config.sumsqDraw c.key.ctx.toNat c.key.collId.toNat).toNat w).1
  else match programOf s c.key.ctx c.fields.program with
    | none => 0
    | some p => if pgAcc p.image then BitVec.ofNat 64 (wideRound (if pgAcc64 p.image then fp64 else fp32) rndNear 0 w).1 else 0

/-- The values of a chunk that the primary root has been sent, in order, and whether every chunk's list is there. -/
def provOf (c : Coll) (k : Nat) : List DWord :=
  let l := c.provLists.filter (fun p => decide (p.1 = k))
  (List.range (l.length)).flatMap (fun i => match l.find? (fun p => decide ((l.filter (fun q => decide (q.2.1 < p.2.1))).length = i)) with
    | none => []
    | some p => p.2.2)
def provDone (p : Plan) (c : Coll) : Bool :=
  (List.range (chunkCount c.fields p.members.length)).all (fun k =>
    decide ((provOf c k).length = (contributors c.fields p.members.length k).length))

/-- The provenance digest (R484). -/
def provDigest (s : State) (p : Plan) (c : Coll) : Bytes :=
  if c.fields.prov then
    sha384 (programHashOf s c.key c.fields.program ++ versionHashOf s c ++
      (List.range (chunkCount c.fields p.members.length)).flatMap (fun k => (provOf c k).flatMap (fun v => toLe 8 v.toNat)))
  else zeros 48

/-- FINISH sent by the primary root once it holds every DONE and every list (R265, R486). -/
def tryFinish (s : State) (p : Plan) (key : CollKey) : State := match collOf s key with
  | none => s
  | some c =>
    if me s ≠ primaryOf p ∨ !p.roots.all (fun r => c.dones.any (fun d => decide (d.1 = r))) ∨ (c.fields.prov ∧ !provDone p c) ∨
        !mayGo s key.group then s
    else
      let w := c.dones.foldl (fun w d => wideJoin w d.2) Wide.zero
      if !w.checks then wideFails s p key
      else
      let value := finishValue s c w
      let digest := provDigest s p c
      let s := (everyone s p).foldl (fun s f => sendCtl s p (groupMsg p (me s) f key.collId (.finish value digest))) s
      dropColl (digestRecord s p c digest) key

/-- What a root does when all its chunks are committed: DONE to the primary root where FINISH comes, else its part is over. -/
def rootDone (s : State) (p : Plan) (key : CollKey) : State := match collOf s key with
  | none => s
  | some c =>
    if !c.started ∨ c.doneSent ∨ !(ownChunks p (me s) (chunkCount c.fields p.members.length)).all (fun k => decide (k ∈ c.committed)) then s
    else if !finishComes c.fields then dropColl s key
    else if !c.wide.checks then wideFails s p key
    else
      let s := updColl s key (fun c => { c with doneSent := true })
      if me s = primaryOf p then
        tryFinish (updColl s key (fun c => { c with dones := c.dones ++ [(me s, c.wide)] })) p key
      else sendColl s (rowUnit s key 0) p.cls (collMsg p c (me s) (primaryOf p) 0 0 0 (.done (wideBytes c.wide)))

/-! ## GO (R259, R260, R255) -/

/-- The children that a GO of phase DATA reaches: those that give any of the range, and those that receive any, whose members check
their results range (R260, step 2). -/
def goKids (p : Plan) (f : LaunchFields) (me : Fid) (k first m : Nat) : List Fid :=
  (kidsOf p me).filter (fun kid => kidGives p f kid k first m || kidTakes p f kid k first m)

/-- Whether a module that converts its members' inputs lacks anchors of a scanned chunk still: its root has none that reads 0x8000 (R46,
R259). -/
def lacksAnchors (s : State) (p : Plan) (f : LaunchFields) (x : ChunkSt) : Bool :=
  needsScan f && (memberKids p (me s)).any (fun m => kidGives p f m x.chunk 0 (chunkSize f p.members.length x.chunk)) &&
  (decide (x.anchors.length ≠ ceilDiv (chunkSize f p.members.length x.chunk) 256) || x.anchors.any (fun a => decide (a = 0x8000)))

/-- A range of a chunk cut into the next piece: its slots are free, its anchors are known, and GO goes to the children (R255, R260). -/
def cutPiece (s : State) (p : Plan) (c : Coll) (x : ChunkSt) : Option State := match (if lacksAnchors s p c.fields x then [] else x.ranges) with
  | [] => none
  | (first, n) :: rest =>
    let n' := if reduces c.fields then min n (slotsLeft s c * slotElems) else n
    if n' = 0 then none
    else
      let piece : Piece :=
        { first := first, count := n', accs := if reduces c.fields then List.replicate n' Acc.blank else [], cover := [], checked := [],
          sent := false, corrupt := false, overflow := false, running := false, since := s.now }
      let left := if n' < n then (first + n', n - n') :: rest else rest
      let s := updChunk s c.key x.chunk (fun x => { x with ranges := left, pieces := x.pieces ++ [piece] })
      some (tellKids s p c (goKids p c.fields (me s) x.chunk first n') x.chunk first x.tryNo (.go .data n'))

/-- The ranges of a chunk cut as far as the free slots go. -/
def cutChunk (p : Plan) (key : CollKey) (k : Nat) : Nat → State → State
  | 0, s => s
  | fuel + 1, s => match (collOf s key).bind (fun c => (c.chunkAt k).bind (fun x => cutPiece s p c x)) with
    | none => s
    | some s => cutChunk p key k fuel s

/-- The chunks of a collective cut in order. -/
def cutAll (s : State) (p : Plan) (key : CollKey) : State := match collOf s key with
  | none => s
  | some c =>
    if !mayGo s key.group ∨ !hasSlots s c then s
    else c.chunks.foldl (fun s x => cutChunk p key x.chunk (x.ranges.length + chunkLen c.fields / slotElems + 1) s) s

/-- The DATA phase of a chunk at its root. -/
def goData (s : State) (p : Plan) (c : Coll) (k : Nat) : State :=
  updChunk s c.key k (fun x => { x with dataGone := true, ranges := [(0, chunkSize c.fields p.members.length k)] })

/-- A chunk begun at its root: its scan where one is needed, else its data. -/
def beginChunk (s : State) (p : Plan) (c : Coll) (k : Nat) : State :=
  let s := updColl s c.key (fun c => { c with chunks := c.chunks ++ [blankChunk k 0] })
  if needsScan c.fields then
    let s := updChunk s c.key k (fun x => { x with scanGone := true, scanAt := s.now })
    tellKids s p c ((kidsOf p (me s)).filter (fun f => kidGives p c.fields f k 0 (chunkSize c.fields p.members.length k))) k 0 0
      (.go .scan (chunkSize c.fields p.members.length k))
  else goData s p c k

/-- The chunks of a root begun until PIPELINE are in flight; none while lock-step is FROZEN (R493, step 2). -/
def beginMore (p : Plan) (key : CollKey) : Nat → State → State
  | 0, s => s
  | fuel + 1, s => match collOf s key with
    | none => s
    | some c =>
      if p.pipeline ≤ c.chunks.length ∨ s.ls.state = .frozen then s
      else match (ownChunks p (me s) (chunkCount c.fields p.members.length)).find? (fun k => decide (k ∉ c.committed) && (c.chunkAt k).isNone) with
        | none => s
        | some k => beginMore p key fuel (beginChunk s p c k)

/-- What a collective can do now at the module: a root begins chunks, and every module cuts pieces. -/
def pumpColl (s : State) (key : CollKey) : State := match collOf s key with
  | none => s
  | some c => match planAt s key.group key.epoch with
    | none => s
    | some p =>
      if !mayGo s key.group then s
      else
        let s := if c.started then beginMore p key (p.pipeline + 1) s else s
        cutAll s p key

/-! ## Commit (R262, R486) -/

/-- The list of a chunk's CRC values sent to the primary root in packets of at most 512 values (R486). -/
def sendProvList (s : State) (p : Plan) (c : Coll) (x : ChunkSt) : State :=
  let vs := (contributors c.fields p.members.length x.chunk).map (fun i => ((x.provs.find? (fun v => decide (v.1 = i))).map (·.2)).getD 0)
  if me s = primaryOf p then updColl s c.key (fun c => { c with provLists := c.provLists ++ [(x.chunk, 0, vs)] })
  else (List.range (ceilDiv vs.length 512)).foldl (fun s i =>
    sendCtl s p (collMsg p c (me s) (primaryOf p) x.chunk (512 * i) x.tryNo (.provList ((vs.drop (512 * i)).take 512)))) s

/-- What pieces produced, in element order: array by array over the pieces (R491). -/
def producedBytes (l : List (Nat × List Bytes)) : Bytes :=
  let sorted := (List.range l.length).filterMap (fun i => l.find? (fun p => decide ((l.filter (fun q => decide (q.1 < p.1))).length = i)))
  (List.range 4).flatMap (fun a => sorted.flatMap (fun p => p.2.getD a []))

/-- The sums of a chunk's pieces in element order. -/
def sumsOf (x : ChunkSt) : List Acc :=
  ((List.range x.sums.length).filterMap (fun i => x.sums.find? (fun p => decide ((x.sums.filter (fun q => decide (q.1 < p.1))).length = i)))).flatMap (·.2)

/-- The CHUNK record of a chunk that its root commits (R491, R492). -/
def chunkRecord (s : State) (c : Coll) (x : ChunkSt) : State :=
  lsProduce s
    { what := { kind := 1, key := BitVec.ofNat 64 (c.key.group.toNat * 2 ^ 52 + x.chunk % 2 ^ 20 * 2 ^ 32 + c.key.collId.toNat),
                value := crc64 (producedBytes x.produced) },
      since := s.now, ctx := c.key.ctx, owner := some c.key, slots := (x.sums.map (fun q => slotsOf q.2.length)).foldl (· + ·) 0,
      data := partialBytes (sumsOf x) }

/-- COMMIT of a chunk sent down by its root, and what follows there: its terms join the wide accumulator, its list goes to
the primary root, and the root goes on (R262, R265, R295, R486). -/
def commitChunk (s : State) (p : Plan) (c : Coll) (k : Nat) : State :=
  let x := (c.chunkAt k).getD (blankChunk k 0)
  let s := updColl s c.key (fun c => { c with
    chunks := c.chunks.filter (fun y => decide (y.chunk ≠ k)), committed := c.committed ++ [k], wide := wideJoin c.wide x.wide,
    overflow := c.overflow || x.overflow })
  let s := tellKids (chunkRecord s c x) p c (kidsOf p (me s)) k 0 x.tryNo (.commit x.overflow)
  let s := if c.fields.prov then sendProvList s p c x else s
  pumpColl (rootDone s p c.key) c.key

/-- Whether results of a chunk go to members: a REDUCE_UPDATE delivers only where its program does (R294, R306). -/
def delivers (s : State) (c : Coll) : Bool :=
  decide (c.fields.op ≠ coBarrier) && (decide (c.fields.op ≠ coReduceUpdate) || (match programOf s c.key.ctx c.fields.program with
    | none => false
    | some p => pgDelivers p.image))

/-- Elements of the RESULT packets of a chunk that a child receives. -/
def resultElems (p : Plan) (f : LaunchFields) (kid : Fid) (k : Nat) : Nat :=
  let n := chunkSize f p.members.length k
  let e := perPacket (arithOut f.arith)
  (((List.range (ceilDiv n e)).filter (fun j => kidTakes p f kid k (j * e) (min e (n - j * e)))).map (fun j => min e (n - j * e))).foldl (· + ·) 0

/-- Whether every child that receives results of a chunk has them: its member blocks have acknowledged every packet, and
its modules have sent DELIVERED (R262, step 2). -/
def allDelivered (s : State) (p : Plan) (f : LaunchFields) (x : ChunkSt) : Bool :=
  (memberKids p (me s)).all (fun m => decide (countFor x.acked m = resultElems p f m x.chunk)) &&
  (moduleKids p (me s)).all (fun m => decide (resultElems p f m x.chunk = 0) || decide (m ∈ x.delivered))

/-- COMMIT where the root holds all that a chunk's commit needs (R262, step 3). -/
def tryCommit (s : State) (p : Plan) (key : CollKey) (k : Nat) : State := match collOf s key with
  | none => s
  | some c => match c.chunkAt k with
    | none => s
    | some x =>
      let n := p.members.length
      if rootOfChunk p k ≠ me s ∨ !mayGo s key.group ∨ !x.dataGone ∨ x.corrupt ∨ x.checked ≠ chunkSize c.fields n k ∨
          (delivers s c ∧ !allDelivered s p c.fields x) ∨
          (c.fields.prov ∧ !(contributors c.fields n k).all (fun i => x.provs.any (fun v => decide (v.1 = i)))) then s
      else commitChunk s p c k

/-- Words sent in packets of at most 2,048, each under its first element. -/
def wordPackets (ws : List (BitVec 16)) : List (Nat × List (BitVec 16)) :=
  (List.range (ceilDiv ws.length 2048)).map (fun i => (2048 * 256 * i, (ws.drop (2048 * i)).take 2048))

/-- A chunk retracted by its root under the next try, or the collective aborted after TRY 3 (R263). -/
def retractChunk (s : State) (p : Plan) (c : Coll) (x : ChunkSt) : State :=
  if !mayGo s c.key.group then updChunk s c.key x.chunk (fun x => { x with corrupt := true })
  else if 3 ≤ x.tryNo then abortUp s p c.key stCheckFailed
  else
    let t := x.tryNo + 1
    let s := detBreak (countEvent s (mgBase + 0x328) (mgBase + 0x304) 0) detResend
    let s := (everyone s p).foldl (fun s f => sendCtl s p (collMsg p c (me s) f x.chunk 0 t (.retract t))) s
    let s := updChunk s c.key x.chunk (fun x => resetChunk true x t)
    let s := (wordPackets x.anchors).foldl (fun s w => tellKids s p c (moduleKids p (me s)) x.chunk w.1 t (.anchors w.2)) s
    cutAll (goData s p c x.chunk) p c.key

/-! ## Adding (R42, R260, R261) -/

/-- The anchor of an element of a chunk (R40, R44, R45). -/
def anchorAt (f : LaunchFields) (x : ChunkSt) (e : Nat) : Int :=
  if isInt (arithIn f.arith) then 110
  else if arithExplicit f.arith then arithAnchor f.arith
  else (x.anchors.getD (e / 256) 0x8000).toInt

/-- An input as an accumulator. -/
def inputAcc (f : LaunchFields) (x : ChunkSt) (e : Nat) (v : Num) (enc : Nat) : Acc :=
  if f.kind.toNat = opSum then contribution (anchorAt f x e) (arithExplicit f.arith) v
  else if isInt (arithIn f.arith) then intContribution (arithIn f.arith) f.kind.toNat enc
  else exactContribution v

/-- The accumulators of a CONTRIB payload of `n` elements from element `first` on. -/
def contribAccs (f : LaunchFields) (x : ChunkSt) (first n : Nat) (data : Bytes) : List Acc :=
  let fmt := arithIn f.arith
  let scales := data.drop (elemBytes fmt n)
  (List.range n).map (fun i => inputAcc f x (first + i) (decodeElem fmt data scales i) (elemAt fmt data i))

/-- Accumulators combined into those of a piece from place `at_` on. -/
def addAccs (op fmt at_ : Nat) (ys accs : List Acc) : List Acc :=
  accs.take at_ ++ List.zipWith (combine op fmt) ((accs.drop at_).take ys.length) ys ++ accs.drop (at_ + ys.length)

/-- The injected residue error of an armed die, in the accumulator that it updates (R66). -/
def inject (accs : List Acc) (at_ : Nat) : List Acc := match accs[at_]? with
  | none => accs
  | some a => accs.set at_ { a with residue := residueAdd a.residue 1 }

/-- Whether the die of a collective is armed for its updates: those of a SUM, whose residues are checked (R57, R274). -/
def isArmed (s : State) (c : Coll) : Bool :=
  decide (c.fields.kind.toNat = opSum) && !onFallback s c.key && regBit s (ariBase (collDie s c.key 0) + 0x414) 0
def disarm (s : State) (die : Nat) : State := setRegField s (ariBase die + 0x414) 0 0 0

/-- Elements whose residue does not agree. -/
def badResidues (f : LaunchFields) (l : List Acc) : Nat :=
  if f.kind.toNat = opSum then (l.filter (fun a => !a.checks)).length else 0

/-- Elements from a child added to a piece: the accumulators, the cover, and whether the data was found corrupt. -/
def addToPiece (s : State) (c : Coll) (x : ChunkSt) (q : Piece) (kid : Fid) (first : Nat) (ys : List Acc) (bad : Bool) : State :=
  let arm := isArmed s c && !ys.isEmpty
  let accs := addAccs c.fields.kind.toNat (arithIn c.fields.arith) (first - q.first) ys q.accs
  let accs := if arm then inject accs (first - q.first) else accs
  let s := if arm then disarm s (collDie s c.key 0) else s
  updPiece s c.key x.chunk q.first (fun q => { q with
    accs := accs, cover := q.cover ++ [(kid, ys.length)], corrupt := q.corrupt || bad,
    overflow := q.overflow || ys.any (·.sat) })

/-- Whether a child's data for a piece is all there, for a list of counts. -/
def allIn (p : Plan) (f : LaunchFields) (k : Nat) (q : Piece) (kids : List Fid) (l : List (Fid × Nat)) : Bool :=
  kids.all (fun m => decide (countFor l m = kidShare p f m k q.first q.count))

/-! ## The root's rounding (R49 to R55, R62, R281) -/

/-- What rounding a piece gives: the encodings, the scales, the elements that overflow, those that saturate an MX format,
and the terms of the wide accumulator. -/
structure Rounded where
  elems  : List Nat
  scales : List Nat
  ovf    : Nat
  clamp  : Nat
  wide   : Wide

/-- The squares of result elements (R62). -/
def squares (fmt : Nat) (elems scales : List Nat) : Wide :=
  (elems.zipIdx).foldl (fun w p =>
    let v := if isMx fmt then decodeMx fmt (scales.getD (p.2 / 32) 0) p.1 else decodePlain fmt p.1
    wideAdd w (mulNum v v)) Wide.zero

/-- The blocks of an MX output in order; `fuel` bounds them. -/
def roundBlocks (fmt mode : Nat) : Nat → List (Num × Nat) → List Nat × List Nat × Nat
  | 0, _ => ([], [], 0)
  | fuel + 1, xs =>
    if xs.isEmpty then ([], [], 0)
    else
      let b := mxBlock fmt mode (xs.take 32)
      let r := roundBlocks fmt mode fuel (xs.drop 32)
      (b.2.1 ++ r.1, b.1 :: r.2.1, b.2.2 + r.2.2)

/-- The values of a piece's accumulators with the draw of each (R53, R54). -/
def pieceValues (c : Coll) (x : ChunkSt) (q : Piece) : List (Num × Nat) :=
  (q.accs.zipIdx).map (fun p =>
    (p.1.result c.fields.kind.toNat (arithIn c.fields.arith) (anchorAt c.fields x (q.first + p.2)),
     hashDraw c.key.ctx.toNat c.key.collId.toNat x.chunk (q.first + p.2)))

/-- A piece rounded without a program. -/
def roundPiece (c : Coll) (x : ChunkSt) (q : Piece) : Rounded :=
  let fmt := arithOut c.fields.arith
  let mode := arithRound c.fields.arith
  let vs := pieceValues c x q
  if isMx fmt then
    let r := roundBlocks fmt mode (vs.length / 32 + 1) vs
    { elems := r.1, scales := r.2.1, ovf := 0, clamp := r.2.2,
      wide := if c.fields.sumsq then squares fmt r.1 r.2.1 else Wide.zero }
  else
    let l := vs.map (fun v => roundPlain fmt mode v.2 v.1)
    let es := l.map (·.1)
    { elems := es, scales := [], ovf := (l.filter (·.2)).length, clamp := 0,
      wide := if c.fields.sumsq then squares fmt es [] else Wide.zero }

/-- The step fields of a REDUCE_UPDATE (R327). -/
def updStep (f : LaunchFields) : Nat := fieldAt f.step 0 6
def updBase (f : LaunchFields) : Nat := fieldAt f.step 8 5

/-- The shard that a REDUCE_UPDATE writes here. -/
def updShard (s : State) (c : Coll) : Option Shard := if c.fields.op = coReduceUpdate then shardOf s { ctx := c.key.ctx, hset := c.fields.hset } else none

/-- One slot's elements through a program: the lanes, or none where an IN stream meets poison. `from_` is the first element
within the chunk. -/
def programSlot (s : State) (c : Coll) (x : ChunkSt) (img : Bytes) (from_ : Nat) (vs : List (Num × Nat)) : Option (List Lane × Nat) :=
  let f := c.fields
  let l := match updShard s c with
    | none => 0
    | some h => localOf h (updBase f + x.chunk * chunkLen f + from_)
  let ins := match updShard s c with
    | none => some [[], [], [], []]
    | some h => readStreams s h img h.version l vs.length [0, 1, 2, 3]
  ins.map (fun ins =>
    ((vs.zipIdx).map (fun v =>
      let red := roundFloat fp32 (arithRound f.arith) v.1.2 v.1.1
      runElem img
        { params := f.params, ins := (ins.zipIdx).map (fun p => elemAt (pgIn img p.2) p.1 v.2), redF := red.1, sum := v.1.1,
          dyn := arithRound f.arith, hash := saltedHash c.key.ctx.toNat c.key.collId.toNat x.chunk (from_ + v.2) } red.2), l))

/-- The slots of a piece through a program in order: the lanes, and the OUT values written at once (R328); none where a read
meets poison (R317). `fuel` bounds the slots. -/
def programPiece (c : Coll) (x : ChunkSt) (img : Bytes) : Nat → State → Nat → List (Num × Nat) → Option (State × List Lane)
  | 0, s, _, _ => some (s, [])
  | fuel + 1, s, from_, vs =>
    if vs.isEmpty then some (s, [])
    else match programSlot s c x img from_ (vs.take slotElems) with
      | none => none
      | some (lanes, l) =>
        let s := match updShard s c with
          | none => s
          | some h => writeStreams s h.key img l lanes
        (programPiece c x img fuel s (from_ + slotElems) (vs.drop slotElems)).map (fun r => (r.1, lanes ++ r.2))

/-- What a program's lanes give of a piece. -/
def roundLanes (c : Coll) (lanes : List Lane) : Rounded :=
  { elems := lanes.map (fun l => ((l.outs.getD 4 none).getD 0) % 2 ^ elemBits (arithOut c.fields.arith)), scales := [],
    ovf := (lanes.map (·.ovf)).foldl (· + ·) 0, clamp := 0,
    wide := if c.fields.sumsq then
        squares (arithOut c.fields.arith) (lanes.map (fun l => ((l.outs.getD 4 none).getD 0) % 2 ^ elemBits (arithOut c.fields.arith))) []
      else lanes.foldl (fun w l => wideJoin w l.acc) Wide.zero }

/-- RESULT packets of a rounded piece, E elements to a packet (R272). -/
def sendResults (s : State) (p : Plan) (c : Coll) (x : ChunkSt) (q : Piece) (r : Rounded) : State :=
  let fmt := arithOut c.fields.arith
  let e := perPacket fmt
  (List.range (ceilDiv q.count e)).foldl (fun s j =>
    let es := (r.elems.drop (j * e)).take e
    let ss := (r.scales.drop (j * e / 32)).take (ceilDiv es.length 32)
    sendResult s p c x.chunk (q.first + j * e) es.length x.tryNo (payloadOf fmt es ss)) s

/-- A rounded piece at the root: counted at the die that rounded it, delivered, and marked (R48, R51, R55, R260, step 6). -/
def deliverPiece (s : State) (p : Plan) (c : Coll) (x : ChunkSt) (q : Piece) (die : Option Nat) (r : Rounded) : State :=
  let s := countArith s die 0x408 1 r.ovf
  let s := countArith s die 0x410 3 r.clamp
  let s := updPiece s c.key x.chunk q.first (fun q => { q with
    sent := true, overflow := q.overflow || decide (0 < r.ovf) || decide (0 < r.clamp) })
  let s := updChunk s c.key x.chunk (fun x => { x with wide := wideJoin x.wide r.wide })
  if delivers s c then sendResults s p c x q r else s

/-- Under lock-step, what a program wrote to OUT0 to OUT3 for a piece of a chunk that sends no RESULT (R491). -/
def keepOuts (s : State) (c : Coll) (x : ChunkSt) (q : Piece) (img : Bytes) (lanes : List Lane) : State :=
  if s.ls.state = .off ∨ delivers s c then s
  else updChunk s c.key x.chunk (fun x => { x with produced := x.produced ++ [(q.first, [0, 1, 2, 3].map (fun a =>
    if pgOut img a = 0 then []
    else packElems (pgOut img a) (lanes.map (fun l => ((l.outs.getD a none).getD 0) % 2 ^ elemBits (pgOut img a)))))] })

/-! ## The instruction stores (R303) -/

/-- Programs that a reduction die's instruction store holds. -/
def storeEntries : Nat := 16

/-- The programs with pieces running on a die: pieces that have their program and wait at their first write (R342). -/
def runningOn (s : State) (die : Nat) : List (CtxId × Word) :=
  s.colls.flatMap (fun c => c.chunks.flatMap (fun x =>
    (x.pieces.filter (fun q => q.running && !q.sent && decide (programDie s c.key x.chunk = die))).map (fun _ => (c.key.ctx, c.fields.program))))

/-- A program fetched into a die's instruction store, used now: none where all 16 entries hold programs with pieces running. The entry
used least recently among the others is reused. -/
def fetchProgram (s : State) (die : Nat) (k : CtxId × Word) : Option State :=
  let store := Tab.getD s.progStore die []
  let put := fun (l : List (CtxId × Word)) => some { s with progStore := Tab.put s.progStore die (l ++ [k]) }
  if k ∈ store then put (store.erase k)
  else if store.length < storeEntries then put store
  else match store.find? (fun e => decide (e ∉ runningOn s die)) with
    | none => none
    | some e => put (store.erase e)

/-- Programs that pass a test gone from every instruction store: unloaded, or of a context that is torn down (log 168). -/
def dropStored (s : State) (gone : CtxId × Word → Bool) : State :=
  { s with progStore := s.progStore.map (fun e => (e.1, e.2.filter (fun k => !gone k))) }

/-- Whether the floor state holds a piece: it waits at its program's first write, so the module holds the set, and the streams of its first
slot could be read (R342). -/
def floorHoldsPiece (s : State) (c : Coll) (x : ChunkSt) (q : Piece) (img : Bytes) : Bool :=
  s.power.floor && programWrites img && (updShard s c).isSome && decide (0 < q.count) &&
  (programSlot s c x img q.first ((pieceValues c x q).take slotElems)).isSome

/-- A piece's program run on its die once it is in the instruction store: the piece waits where it is not (R303), and in the floor
state at its first write to the harbour (R342); a poisoned read aborts the collective (R317). -/
def runAtRoot (s : State) (p : Plan) (c : Coll) (x : ChunkSt) (q : Piece) (pg : Program) : State :=
  let die := programDie s c.key x.chunk
  match fetchProgram s die (c.key.ctx, c.fields.program) with
  | none => s
  | some s =>
    if floorHoldsPiece s c x q pg.image then
      updPiece s c.key x.chunk q.first (fun q => { q with running := true })
    else match programPiece c x pg.image (q.count / slotElems + 1) s q.first (pieceValues c x q) with
      | none => abortUp (countPoisonRead s) p c.key stCheckFailed
      | some (s, lanes) => deliverPiece (keepOuts s c x q pg.image lanes) p c x q (some die) (roundLanes c lanes)

/-- A complete piece at the root of its chunk: the residue check, then the rounding or the program (R57, R281). The rounding of a fallback
block without a program has no reduction die that counts its events: they count nowhere (DESIGN CHOICE, log 60; R51). -/
def roundAtRoot (s : State) (p : Plan) (c : Coll) (x : ChunkSt) (q : Piece) : State :=
  let bad := badResidues c.fields q.accs
  let check := fun (s : State) => if bad = 0 ∨ q.running then s
    else updPiece (countArith s (addDie s c.key) 0x40C 2 bad) c.key x.chunk q.first (fun q => { q with corrupt := true })
  match (if c.fields.program = 0 then none else programOf s c.key.ctx c.fields.program) with
  | none => deliverPiece (check s) p c x q (addDie s c.key) (roundPiece c x q)
  | some pg => if (fetchProgram s (programDie s c.key x.chunk) (c.key.ctx, c.fields.program)).isNone then s else runAtRoot (check s) p c x q pg

/-- The elements of a PARTIAL packet whose sum is the zero of contributions that were all -0: what R50 needs beside the payload of R274
(log 21). -/
def negZerosOf (f : LaunchFields) (l : List Acc) : List Nat :=
  if isInt (arithIn f.arith) then []
  else ((l.zipIdx).filter (fun p => p.1.negZero && !p.1.empty && decide (p.1.a = 0) && decide (p.1.special = .finite))).map (·.2)

/-- One PARTIAL packet sent up, and what goes beside it. -/
def sendPartial (s : State) (p : Plan) (c : Coll) (x : ChunkSt) (up : Fid) (first : Nat) (l : List Acc) : State :=
  let u := collUnit s c.key x.chunk
  let zs := negZerosOf c.fields l
  let n := match collEpoch s u c.key.ctx with
    | none => 0
    | some e => nextNonce s u c.key.ctx e
  let s := sendCollOn s u p.cls (upHalyard s p x.chunk) (collMsg p c (me s) up x.chunk first x.tryNo (.partialSum (partialBytes l)))
  if zs.isEmpty then s else emit s (.negZeros u (BitVec.ofNat 60 (u * 2 ^ 52 + n)) zs)

/-- PARTIAL packets of a complete piece sent up, with the residue check (R57, R260, step 4, R274). -/
def sendPartials (s : State) (p : Plan) (c : Coll) (x : ChunkSt) (q : Piece) : State :=
  let bad := badResidues c.fields q.accs
  let s := countArith s (addDie s c.key) 0x40C 2 bad
  let s := updPiece s c.key x.chunk q.first (fun q => { q with sent := true, corrupt := q.corrupt || decide (0 < bad) })
  match parentFor p (me s) x.chunk with
  | none => s
  | some up => (List.range (ceilDiv q.count 220)).foldl (fun s j =>
      sendPartial s p c x up (q.first + 220 * j) ((q.accs.drop (220 * j)).take 220)) s

/-! ## Pieces that are done -/

/-- A piece that is sent and checked throughout: CHECKED goes up, or counts at the root; its slots are free (R255, R262). -/
def pieceDone (s : State) (p : Plan) (c : Coll) (x : ChunkSt) (q : Piece) : State :=
  let s := updChunk s c.key x.chunk (fun x => { x with pieces := x.pieces.filter (fun y => decide (y.first ≠ q.first)) })
  if rootOfChunk p x.chunk = me s then
    let s := updChunk s c.key x.chunk (fun x => { x with
      sums := if s.ls.state ≠ .off ∧ reduces c.fields then x.sums ++ [(q.first, q.accs)] else x.sums,
      checked := x.checked + q.count, corrupt := x.corrupt || q.corrupt, overflow := x.overflow || q.overflow })
    if q.corrupt then retractChunk s p c x else cutAll (tryCommit s p c.key x.chunk) p c.key
  else cutAll (tellUp s p c x.chunk q.first x.tryNo (.checked q.count q.corrupt q.overflow)) p c.key

/-- Whether the modules that a piece's GO went to have checked all of it. -/
def checkedAll (p : Plan) (f : LaunchFields) (me : Fid) (k : Nat) (q : Piece) : Bool :=
  ((goKids p f me k q.first q.count).filter (fun m => decide (m ∈ moduleKids p me))).all (fun m => decide (countFor q.checked m = q.count))

/-- What a piece can do now. -/
def settlePiece (s : State) (key : CollKey) (k first : Nat) : State :=
  let find := fun (s : State) => (collOf s key).bind (fun c => (planAt s key.group key.epoch).bind (fun p =>
    (c.chunkAt k).bind (fun x => (x.pieceAt first).map (fun q => (p, c, x, q)))))
  let s := match find s with
    | none => s
    | some (p, c, x, q) =>
      if q.sent ∨ !allIn p c.fields k q (kidsOf p (me s)) q.cover then s
      else if !reduces c.fields then updPiece s key k q.first (fun q => { q with sent := true })
      else if rootOfChunk p k = me s then roundAtRoot s p c x q
      else sendPartials s p c x q
  match find s with
  | none => s
  | some (p, c, x, q) =>
    if q.sent ∧ checkedAll p c.fields (me s) k q then pieceDone s p c x q else s

/-- Every piece of the module tried again: the floor state may have ended (R342), an instruction store have an entry (R303), or the piece
have no data to wait for. -/
def resumePieces (s : State) : State :=
  s.colls.foldl (fun s c => c.chunks.foldl (fun s x => x.pieces.foldl (fun s q => settlePiece s c.key x.chunk q.first) s) s) s

/-! ## Starting (R258, R306, R327) -/

/-- The place of a module among the root entries. -/
def rootPlace (p : Plan) (f : Fid) : Nat := (p.roots.idxOf f)

/-- Why a root refuses to start a collective: none where it may. -/
def startRefusal (s : State) (p : Plan) (c : Coll) : Option Byte :=
  let f := c.fields
  if f.program = 0 then none
  else match programOf s c.key.ctx f.program with
    | none => some stProtocol
    | some pg =>
      let img := pg.image
      let streams := [0, 1, 2, 3].any (fun n => decide (pgIn img n ≠ 0) || decide (pgOut img n ≠ 0))
      if (pgAcc img ∧ f.sumsq) ∨ (f.op ≠ coReduceUpdate ∧ (streams ∨ !pgDelivers img)) then some stProtocol
      else if f.op ≠ coReduceUpdate then none
      else match shardOf s { ctx := c.key.ctx, hset := f.hset } with
        | none => some stProtocol
        | some h =>
          if !streamsMatch img h ∨ h.rootCount ≠ p.roots.length ∨ h.rootIndex ≠ rootPlace p (me s) ∨ h.stripeLog2 ≠ 12 + f.chunk.toNat ∨
              updBase f % (chunkLen f * p.roots.length) ≠ 0 ∨ h.elements < updBase f + f.count.toNat then some stProtocol
          else if !takesWriter s h (updStep f) then some stStateRejected
          else if !harbourKeyOk s c.key.ctx then some stKeyInvalid
          else none

/-- The chunks of a root below the combined prefix: their COMMIT alone is sent (R269, step 4). The spec does not say what OVERFLOW it
carries: the model sends 0 (DESIGN CHOICE, log 207). -/
def commitPrefix (s : State) (p : Plan) (c : Coll) : State :=
  (ownChunks p (me s) (min c.prefixLen (chunkCount c.fields p.members.length))).foldl (fun s k =>
    let s := updColl s c.key (fun c => { c with committed := c.committed ++ [k] })
    tellKids s p c (kidsOf p (me s)) k 0 0 (.commit false)) s

/-- The start of a collective at a root (R258, step 4): its checks, the step of a REDUCE_UPDATE opened, the prefix
committed, and its chunks begun. BARRIER commits at once. -/
def startRoot (s : State) (p : Plan) (c : Coll) : State := match startRefusal s p c with
  | some st => abortUp s p c.key st
  | none =>
    let s := match updShard s c with
      | none => s
      | some h => setShard s (openStep h)
    let s := updColl s c.key (fun c => { c with started := true })
    let s := commitPrefix s p c
    if c.fields.op = coBarrier then
      (ownChunks p (me s) 1).foldl (fun s k => match collOf s c.key with
        | none => s
        | some c => if k ∈ c.committed then s else commitChunk s p c k) s |> (rootDone · p c.key)
    else pumpColl (rootDone s p c.key) c.key

/-- READY passed up by a module (R258, step 3). -/
def readyUp (s : State) (p : Plan) (c : Coll) : State :=
  let s := updColl s c.key (fun c => { c with readySent := true })
  let ups := match planEntry p (me s) with
    | none => []
    | some e => if e.parent = fidAnyRoot then p.roots else if e.parent = fidRoot then [] else [e.parent]
  ups.foldl (fun s f => sendCtl s p (collMsg p c (me s) f 0 0 0 (.ready c.fields c.prefixLen))) s

/-- Whether a group's plan stands: a READY goes on in it (R241, R268). -/
def planStands (s : State) (g : BitVec 12) : Bool := match groupOf s g with
  | none => false
  | some x => decide (x.state = .active ∨ x.state = .stalled)

/-- Whether a collective waits for no slots: it claims none, or its claim is granted or replaced by the fallback (R258, step 3). -/
def claimOver (s : State) (c : Coll) : Bool := !reduces c.fields || (match claimOf s c.key with
  | none => false
  | some x => x.granted || x.fallback)

/-- What a module does once all its children are ready: a root starts, and a module whose claim is granted or has fallen back passes
READY on. -/
def readyNext (s : State) (key : CollKey) : State := match collOf s key with
  | none => s
  | some c => match planAt s key.group key.epoch with
    | none => s
    | some p =>
      if !planStands s key.group ∨ !(kidsOf p (me s)).all (fun f => c.ready.any (fun r => decide (r.1 = f))) then s
      else
        let s := if reduces c.fields then placeClaim s p c else s
        if me s ∈ p.roots then (if c.started ∨ !mayGo s key.group then s else startRoot s p c)
        else if claimOver s c ∧ !c.readySent then readyUp s p c else s

/-- What a granted claim lets go on. -/
def onGranted (s : State) (key : CollKey) : State := pumpColl (readyNext s key) key

/-- The head claim of a class granted where its slots are free (R254). -/
def grantHead (s : State) (cls : BitVec 3) : State :=
  match s.claims.find? (fun c => decide (c.cls = cls) && !c.granted && !c.fallback) with
  | none => s
  | some c =>
    if poolUsed s cls + c.asked ≤ poolOf s cls then
      onGranted { s with claims := s.claims.map (fun x => if x.key = c.key then { x with granted := true, slots := x.asked } else x) } c.key
    else s

/-- The fallback claims granted in the order of their placing, block by block (R256). -/
def grantFallbacks (s : State) : State :=
  (s.claims.filter (fun c => c.fallback && !c.granted)).foldl (fun s c =>
    let b := fallbackBlock s c.key.group
    let ahead := (s.claims.takeWhile (fun x => decide (x.key ≠ c.key))).any (fun x => x.fallback && !x.granted && decide (fallbackBlock s x.key.group = b))
    if !ahead ∧ fallbackUsed s b + c.asked ≤ fallbackSlots then
      onGranted { s with claims := s.claims.map (fun x => if x.key = c.key then { x with granted := true, slots := x.asked } else x) } c.key
    else s) s

/-! ## Stalls (R267, R268) -/

/-- The parents of a module in a plan. -/
def parentsOf (p : Plan) (f : Fid) : List Fid := match planEntry p f with
  | none => []
  | some e => if e.parent = fidAnyRoot then p.roots else if e.parent = fidRoot then [] else [e.parent]

/-- STALLED entered, and STALL sent to the parents and the children. -/
def enterStalled (s : State) (g : Group) (missing : List Fid) : State :=
  let s := setGroup s g.plan.group { g with state := .stalled, missing := missing }
  tellAll s g.plan (parentsOf g.plan (me s) ++ kidsOf g.plan (me s)) (.stall missing)

/-- A stall declared by the module: logged with the fabric IDs that are missing, counted, and passed on with them, which the group keeps
(R267). The DETAIL of R585 has no room for them: the record names them beside it (log 62). -/
def declareStall (s : State) (group : BitVec 12) (collId : Word) (chunk : Nat) (missing : List Fid) : State :=
  match groupOf s group with
  | none => s
  | some g =>
    if g.state ≠ .active then s
    else
      let s := logCollNaming s g.plan.ctx group.toNat g.plan.epoch.toNat collId.toNat chunk 267 missing
      let s := countEvent s (mgBase + 0x330) (mgBase + 0x304) 2
      enterStalled s g missing

end Sys2Proof.Machine
end

