-- ==== Sys2Proof/Machine/CollMsgs.lean ====
section
/-!
DEFINITION. Collectives, third part: what each message does at a module and at a member block (R243 to R245, R258 to R269,
R486, R487), and what the answers to a module's own messages do (R262, R267, R270).
-/
namespace Sys2Proof.Machine

open Sys2Proof

/-! ## Group messages at a module (R243, R244) -/

/-- Whether every member that a module serves has its context defined at its block, and every module whose parent it is has joined;
the modules under 0xFFFE join at the primary root. -/
def joinedAll (s : State) (g : Group) (p : Plan) : Bool :=
  (memberKids p (me s)).all (fun f => match blockOfFid s f with
    | none => false
    | some b => definedAt s p.ctx b && !inTeardown s p.ctx) &&
  (p.modules.filter (fun m => decide (m.parent = me s))).all (fun m => decide (m.fid ∈ g.joined))

/-- Every module of a plan that the primary root waits for: the roots and the modules under 0xFFFE (R243, step 4). -/
def joinsPrimary (p : Plan) : List Fid :=
  (p.modules.filter (fun m => decide (m.parent = fidRoot ∨ m.parent = fidAnyRoot))).map (·.fid)

/-- Where a module's JOIN goes. -/
def joinParent (p : Plan) (f : Fid) : Fid := match planEntry p f with
  | none => primaryOf p
  | some e => if e.parent = fidAnyRoot ∨ e.parent = fidRoot then primaryOf p else e.parent

/-- The plan that a group is joining. -/
def Group.joining (g : Group) : Plan := g.newPlan.getD g.plan

/-- Whether a group waits for ACTIVATE. -/
def Group.waits (g : Group) : Bool := decide (g.state = .forming) || decide (g.state = .regroup)

/-- Whether a collective ends at every member under a REGROUP (R269, step 2). -/
def endsAtRegroup (old new : Plan) (f : LaunchFields) : Bool :=
  decide (f.op = coReduceScatter ∨ f.op = coAllGather ∨ f.op = coReduceUpdate) || f.sumsq || f.prov ||
  (decide (f.op = coBroadcast ∨ f.op = coReduce) && (memberIndex new (old.members.getD f.root.toNat (0, 0)).1).isNone)

/-- The fields of a collective under a new plan: ROOT names the same member. -/
def fieldsUnder (old new : Plan) (f : LaunchFields) : LaunchFields :=
  if f.op = coBroadcast ∨ f.op = coReduce
  then { f with root := BitVec.ofNat 16 ((memberIndex new (old.members.getD f.root.toNat (0, 0)).1).getD 0) } else f

/-- A collective of which a module knows no READY yet. -/
def blankColl (s : State) (key : CollKey) (f : LaunchFields) (resumed : Bool) : Coll where
  key := key
  since := s.now
  resumed := resumed
  fields := f
  ready := []
  readySent := false
  started := false
  chunks := []
  committed := []
  tries := []
  prefixLen := 0
  wide := Wide.zero
  doneSent := false
  dones := []
  provLists := []
  overflow := false
  seen := []

/-- The collective of the old epoch that was under way at this root taken over into the new epoch, where the new plan resumes it here: its
program stays in use (R269, step 3, R301). -/
def resumeColl (old new : Plan) (s : State) (c : Coll) : State :=
  let key := { c.key with epoch := new.epoch }
  if !(c.started || c.resumed) ∨ endsAtRegroup old new c.fields ∨ me s ∉ new.roots then s
  else match collOf s key with
    | some _ => updColl s key (fun c => { c with resumed := true })
    | none => { s with colls := s.colls ++ [blankColl s key (fieldsUnder old new c.fields) true] }

/-- A launch under a new plan: ended with DEST_LOST where R269 says so, else its READY sent afresh. -/
def resumeLaunch (old new : Plan) (s : State) (l : Launch) : State :=
  match memberIndex new (old.members.getD l.member (0, 0)).1 with
  | none => endLaunch s l stDestLost 0 []
  | some i =>
    if endsAtRegroup old new l.fields then endLaunch s l stDestLost 0 []
    else
      let l' := { l with key := { l.key with epoch := new.epoch }, member := i, fields := fieldsUnder old new l.fields,
                         tries := [], seen := [], heldCommits := [] }
      sendReady { s with launches := s.launches.map (fun x => if x.key = l.key ∧ x.block = l.block then l' else x) } new l'

/-- A group made ACTIVE for its epoch: under REGROUP the old epoch's chunks and claims are gone, and its launches end or resume
(R241, R269). -/
def activateGroup (s : State) (g : Group) : State :=
  let p := g.joining
  let no := g.plan.group
  let s := setGroup s no { g with plan := p, newPlan := none, state := .active, joined := [], joinSent := true, missing := [], aborted := [] }
  let s := if g.newPlan.isNone then s
    else
      let old := s.colls.filter (fun c => decide (c.key.group = no) && decide (c.key.epoch ≠ p.epoch))
      let s := old.foldl (resumeColl g.plan p) s
      let s := { s with colls := s.colls.filter (fun c => !(decide (c.key.group = no) && decide (c.key.epoch ≠ p.epoch))),
                        claims := s.claims.filter (fun c => !(decide (c.key.group = no) && decide (c.key.epoch ≠ p.epoch))),
                        collBuilt := s.collBuilt.filter (fun e => !(decide (e.1.group = no) && decide (e.1.epoch ≠ p.epoch))) }
      (launchesOf s no).foldl (resumeLaunch g.plan p) s
  let s := (s.groupCmds.filter (fun c => decide (c.group = no) && decide (c.epoch = p.epoch) && !c.closing)).foldl (fun s c => endGroupCmd s c stOk) s
  ((s.colls.filter (fun c => decide (c.key.group = no))).map (·.key)).foldl readyNext s

/-- ACTIVATE sent by the primary root to every module of the plan and to the issuing module (R243, step 5). -/
def sendActivate (s : State) (g : Group) : State :=
  let p := g.joining
  let others := (p.modules.map (·.fid)).filter (fun f => decide (f ≠ me s))
  let all := if g.issuer ∈ others ∨ g.issuer = me s then others else others ++ [g.issuer]
  activateGroup (tellAll s p all .activate) g

/-- A group that has joined as far as it can: JOIN goes up, or the primary root activates (R243, steps 4 and 5). -/
def tryJoin (s : State) (no : BitVec 12) : State := match groupOf s no with
  | none => s
  | some g =>
    let p := g.joining
    if !g.waits ∨ !joinedAll s g p then s
    else if me s = primaryOf p then
      (if (joinsPrimary p).all (fun f => decide (f = me s) || decide (f ∈ g.joined)) then sendActivate s g else s)
    else if g.joinSent then s
    else tellAll (setGroup s no { g with joinSent := true }) p [joinParent p (me s)] (.join false)

/-- Every waiting group tried again: a context may have been defined since. -/
def tryJoins (s : State) : State := (s.groups.map (·.1)).foldl tryJoin s

/-- CLOSE sent by the primary root to every module of a plan and to the issuing module, and the group closed here. -/
def closeAll (s : State) (g : Group) : State :=
  let p := g.joining
  let others := (p.modules.map (·.fid)).filter (fun f => decide (f ≠ me s))
  let all := if g.issuer ∈ others ∨ g.issuer = me s then others else others ++ [g.issuer]
  closeGroup (tellAll s p all .close) g.plan.group stDestLost

/-- A plan of no module, under whose class what concerns a group's epoch is sent. -/
def stubPlan (ctx : CtxId) (group : BitVec 12) (epoch : BitVec 16) (cls : BitVec 3) : Plan :=
  { ctx := ctx, group := group, epoch := epoch, pipeline := 1, cls := cls, members := [], modules := [], roots := [] }

/-- A refusal sent to an issuing module. -/
def refusePlan (s : State) (p : Plan) (issuer : Fid) (status : Byte) (lost : Bool) : State := tellAll s p [issuer] (.planRefuse status lost)

/-- A plan taken by a module of a group that joins it: what it had heard of another plan is forgotten. -/
def joinPlan (s : State) (g : Group) : State :=
  tryJoin (setGroup s g.plan.group { g with joined := [], joinSent := false, since := s.now }) g.plan.group

/-- A REGROUP plan that lost to another of its epoch: discarded, recorded, and its issuer told (R244). -/
def losePlan (s : State) (b : PlanBuf) : State :=
  refusePlan (logColl s b.ctx b.group.toNat b.epoch.toNat 0 0 244) (stubPlan b.ctx b.group b.epoch b.cls) b.src stStateRejected true

/-- Two plans of one epoch at a group that joins one of them: the one of the lower issuer stays, the other's issuer is told, and a record
logged (R244). -/
def rivalPlan (s : State) (g : Group) (b : PlanBuf) (p : Plan) : State :=
  if b.src.toNat < g.issuer.toNat then
    let s := refusePlan (logColl s b.ctx b.group.toNat b.epoch.toNat 0 0 244) g.joining g.issuer stStateRejected true
    if (planEntry p (me s)).isNone then closeGroup s b.group stDestLost
    else if g.state = .forming then joinPlan s { g with plan := p, issuer := b.src }
    else joinPlan s { g with newPlan := some p, issuer := b.src }
  else losePlan s b

/-- A plan record that has come whole (R243, step 3, R244, R245): none where it waits for the ACTIVATE of the plan before it, for FORMING
and REGROUP end only at ACTIVATE and CLOSE (R241, log 169). A module that a REGROUP plan names first enters FORMING, and a GROUP_DEFINE plan for
a number that the receiver holds for the same context is refused STATE_REJECTED: the spec says neither (DESIGN CHOICE, log 209). -/
def takePlan (s : State) (b : PlanBuf) (bs : Bytes) : Option State :=
  let p := planFrom bs
  let named := (planEntry p (me s)).isSome
  let refuse := fun (st : Byte) => some (refusePlan s (stubPlan b.ctx b.group b.epoch b.cls) b.src st false)
  let bad := !planOk s bs b.ctx b.group || decide (p.epoch ≠ b.epoch) || (named && !leafOk s p)
  match groupOf s b.group with
  | none =>
    if bad then refuse stProtocol
    else if !named then some s
    else some (joinPlan s { plan := p, newPlan := none, state := .forming, issuer := b.src, joined := [], joinSent := false,
                            since := s.now, missing := [], aborted := [] })
  | some g =>
    if g.plan.ctx ≠ b.ctx then refuse stStateRejected
    else if !b.regroup then
      (if g.state = .forming ∧ g.issuer = b.src ∧ g.plan.epoch = b.epoch then some s else refuse stStateRejected)
    else if bad then refuse stProtocol
    else if g.waits ∧ p.epoch = g.joining.epoch then (if g.issuer = b.src then some s else some (rivalPlan s g b p))
    else if p.epoch = g.joining.epoch then (if g.issuer = b.src then some s else some (losePlan s b))
    else if p.epoch ≠ g.joining.epoch + 1 then refuse stProtocol
    else if g.waits then none
    else if !named then some (closeGroup s b.group stDestLost)
    else some (joinPlan s { g with newPlan := some p, state := .regroup, issuer := b.src })

/-- Fragments put together, where they reach from byte 0 to the end. -/
def planWhole (b : PlanBuf) : Option Bytes :=
  match b.total with
  | none => none
  | some n =>
    let rec_ := b.frags.foldl (fun (acc : Bytes) _ => match b.frags.find? (fun f => decide (f.1 = acc.length)) with
      | none => acc
      | some f => acc ++ f.2) []
    if rec_.length = n then some rec_ else none

/-- A fragment of a plan record (R243, R273). All fragments share the duplicate key of R271: the model tells them apart by their start in the
payload (DESIGN CHOICE, log 210). -/
def onFragment (s : State) (m : CollMsg) (start : Nat) (data : Bytes) (last regroup : Bool) : State :=
  let mine := fun (b : PlanBuf) => decide (b.src = m.src) && decide (b.ctx = m.ctx) && decide (b.group = m.group) && decide (b.epoch = m.epoch)
  let b := (s.planBufs.find? mine).getD
    { src := m.src, ctx := m.ctx, group := m.group, epoch := m.epoch, cls := m.hdr.cls, regroup := regroup, frags := [], total := none }
  let b := { b with frags := if b.frags.any (fun f => decide (f.1 = start)) then b.frags else b.frags ++ [(start, data)],
                    total := if last then some (start + data.length) else b.total }
  let others := s.planBufs.filter (fun x => !mine x)
  match (planWhole b).bind (takePlan { s with planBufs := others } b) with
  | none => { s with planBufs := others ++ [b] }
  | some s => s

/-- The whole plan records that wait tried again. -/
def retryPlans (s : State) : State :=
  s.planBufs.foldl (fun s b => match (planWhole b).bind (takePlan { s with planBufs := s.planBufs.filter (fun x => decide (x ≠ b)) } b) with
    | none => s
    | some s => s) s

/-- A refusal at the issuing module: CLOSE for the new epoch to every receiver and the command's end (R243, step 3). Where another plan of
the epoch stands in its place, that one's modules go on: CLOSE goes only to those that no group of the epoch before reaches (R244, log 170). -/
def onRefuse (s : State) (m : CollMsg) (status : Byte) (lost : Bool) : State :=
  match s.groupCmds.find? (fun c => decide (c.group = m.group) && decide (c.epoch = m.epoch) && !c.closing && decide (m.src ∈ c.waiting)) with
  | none => s
  | some c =>
    let named := fun (f : Fid) => (groupOf s c.group).any (fun g => (planEntry g.joining f).isSome)
    let dst := if lost then c.fresh.filter (fun f => !named f) else c.waiting
    endGroupCmd (tellAll s (stubPlan c.ctx c.group c.epoch c.cls) dst .close) c (if lost then stStateRejected else status)

/-- JOIN, and JOIN with REFUSE, at a parent or the primary root (R243, steps 4 to 6). -/
def onJoin (s : State) (m : CollMsg) (refuse : Bool) : State := match groupOf s m.group with
  | none => s
  | some g =>
    let p := g.joining
    if !g.waits ∨ p.epoch ≠ m.epoch ∨ g.plan.ctx ≠ m.ctx ∨ (planEntry p m.src).isNone then s
    else if refuse then
      (if me s = primaryOf p then closeAll s g else tellAll s p [joinParent p (me s)] (.join true))
    else if m.src ∈ g.joined then s
    else tryJoin (setGroup s m.group { g with joined := g.joined ++ [m.src] }) m.group

/-- The stall limit of a joining group past: its parent refuses (R243, step 6). -/
def onJoinTimeout (s : State) (no : BitVec 12) : State := match groupOf s no with
  | none => s
  | some g =>
    let p := g.joining
    if !g.waits ∨ (joinedAll s g p && (decide (me s ≠ primaryOf p) || (joinsPrimary p).all (fun f => decide (f = me s) || decide (f ∈ g.joined)))) then s
    else
      let s := advanceTo s (g.since + us (stallUs s))
      if me s = primaryOf p then closeAll s g else tellAll s p [joinParent p (me s)] (.join true)

/-- ACTIVATE at a module of the plan, and at an issuing module that the plan does not name (R241, R243). -/
def onActivate (s : State) (m : CollMsg) : State :=
  let s := match groupOf s m.group with
    | none => s
    | some g => if g.waits ∧ g.joining.epoch = m.epoch ∧ g.plan.ctx = m.ctx ∧ m.src = primaryOf g.joining then activateGroup s g else s
  (s.groupCmds.filter (fun c => decide (c.group = m.group) && decide (c.ctx = m.ctx) && decide (c.epoch = m.epoch) && !c.closing)).foldl
    (fun s c => endGroupCmd s c stOk) s

/-- CLOSE at a module (R241, R245): of the current epoch, or of the epoch that the group is joining, from the issuer of that plan or its
primary root. -/
def onClose (s : State) (m : CollMsg) : State :=
  let s := match groupOf s m.group with
    | none => s
    | some g => if g.plan.ctx = m.ctx ∧ (g.plan.epoch = m.epoch ∨ (g.joining.epoch = m.epoch ∧ (m.src = g.issuer ∨ m.src = primaryOf g.joining)))
        then closeGroup s m.group stDestLost else s
  (s.groupCmds.filter (fun (c : GroupCmd) => decide (c.group = m.group) && decide (c.ctx = m.ctx) && decide (c.epoch = m.epoch) && !c.closing)).foldl
    (fun s c => endGroupCmd s c stDestLost) s

/-! ## Messages of a collective at a module -/

/-- A collective that a module first hears of; a COLL_ID that starts anew is no longer aborted (R264). -/
def openColl (s : State) (key : CollKey) (f : LaunchFields) : State :=
  if (collOf s key).isSome then s
  else
    let s := match groupOf s key.group with
      | none => s
      | some g => setGroup s key.group { g with aborted := g.aborted.filter (fun i => decide (i ≠ key.collId)) }
    { s with colls := s.colls ++ [blankColl s key f false] }

/-- READY of a child (R258, steps 1 to 4): compared with the first that came. -/
def onReady (s : State) (p : Plan) (m : CollMsg) (f : LaunchFields) (prefixLen : Nat) : State :=
  if m.src ∉ kidsOf p (me s) then s
  else
    let key := keyOf m
    let s := openColl s key f
    let s := updColl s key (fun c => if c.ready.isEmpty then { c with fields := f, since := s.now } else c)
    match collOf s key with
    | none => s
    | some c =>
      if c.fields ≠ f then abortUp s p key stProtocol
      else if !hasKey s m.ctx then abortUp s p key stKeyInvalid
      else readyNext (updColl s key (fun c => { c with ready := c.ready ++ [(m.src, prefixLen)], prefixLen := max c.prefixLen prefixLen })) key

/-- The chunk of a message at the module, under the message's try: made, or reset to a newer try. -/
def chunkFor (s : State) (m : CollMsg) : State :=
  updColl s (keyOf m) (fun c => match c.chunkAt m.chunk with
    | none => if m.chunk ∈ c.committed then c else { c with chunks := c.chunks ++ [blankChunk m.chunk m.tryNo] }
    | some x => if x.tryNo < m.tryNo then
        { c with chunks := c.chunks.map (fun y => if y.chunk = m.chunk then resetChunk false x m.tryNo else y) } else c)

/-- GO at a module (R259, R260, R255). -/
def onGo (s : State) (p : Plan) (c : Coll) (m : CollMsg) (phase : GoPhase) (count : Nat) : State :=
  let s := chunkFor s m
  match phase with
  | .scan =>
    let s := updChunk s c.key m.chunk (fun x => { x with scanGone := true, scanAt := s.now })
    if !mayGo s m.group then s
    else tellKids s p c ((kidsOf p (me s)).filter (fun f => kidGives p c.fields f m.chunk 0 count)) m.chunk 0 m.tryNo (.go .scan count)
  | .data =>
    let s := updChunk s c.key m.chunk (fun x => { x with dataGone := true, ranges := x.ranges ++ [(m.first, count)] })
    cutAll s p c.key

/-- The larger of two exponents of a scan; 0x8000 stands for none. -/
def scanMax (a b : BitVec 16) : BitVec 16 :=
  if a = 0x8000 then b else if b = 0x8000 then a else if a.toInt < b.toInt then b else a

/-- The groups of a chunk, and the words of a child once they are all there. -/
def groupsOf (f : LaunchFields) (n k : Nat) : Nat := ceilDiv (chunkSize f n k) 256
def scanOf (x : ChunkSt) (kid : Fid) (n : Nat) : Option (List (BitVec 16)) :=
  let mine := x.scans.filter (fun p => decide (p.1 = kid))
  let words := (List.range n).map (fun g => (mine.find? (fun p => decide (p.2.1 ≤ g) && decide (g < p.2.1 + p.2.2.length))).bind (fun p => p.2.2[g - p.2.1]?))
  if words.all Option.isSome then some (words.map (·.getD 0x8000)) else none

/-- SCAN of a child: the reports of all children combined by MAX go up, or become the anchors at the root (R259, R46). -/
def onScan (s : State) (p : Plan) (c : Coll) (m : CollMsg) (words : List (BitVec 16)) : State :=
  let s := updChunk s c.key m.chunk (fun x => { x with scans := x.scans ++ [(m.src, m.first / 256, words)] })
  match (collOf s c.key).bind (·.chunkAt m.chunk) with
  | none => s
  | some x =>
    let n := groupsOf c.fields p.members.length m.chunk
    let kids := (kidsOf p (me s)).filter (fun f => kidGives p c.fields f m.chunk 0 (chunkSize c.fields p.members.length m.chunk))
    if x.scanSent ∨ !kids.all (fun f => (scanOf x f n).isSome) then s
    else
      let ws := kids.foldl (fun acc f => List.zipWith scanMax acc ((scanOf x f n).getD [])) (List.replicate n (0x8000 : BitVec 16))
      let s := updChunk s c.key m.chunk (fun x => { x with scanSent := true })
      if rootOfChunk p m.chunk = me s then
        let as_ := ws.map (fun w => if w = 0x8000 then BitVec.ofInt 16 (smallestExp (arithIn c.fields.arith)) else w)
        let s := updChunk s c.key m.chunk (fun x => { x with anchors := as_ })
        let s := (wordPackets as_).foldl (fun s w => tellKids s p c (moduleKids p (me s)) m.chunk w.1 x.tryNo (.anchors w.2)) s
        if mayGo s m.group then cutAll (goData s p c m.chunk) p c.key else goData s p c m.chunk
      else (wordPackets ws).foldl (fun s w => tellUp s p c m.chunk w.1 x.tryNo (.scan w.2)) s

/-- ANCHORS at a module: kept, and passed to its child modules (R259); pieces that waited for them are cut. -/
def onAnchors (s : State) (p : Plan) (c : Coll) (m : CollMsg) (words : List (BitVec 16)) : State :=
  let s := chunkFor s m
  let s := updChunk s c.key m.chunk (fun x =>
    let n := groupsOf c.fields p.members.length m.chunk
    let old := if x.anchors.length = n then x.anchors else List.replicate n 0x8000
    { x with anchors := old.take (m.first / 256) ++ words ++ old.drop (m.first / 256 + words.length) })
  cutAll (tellKids s p c (moduleKids p (me s)) m.chunk m.first m.tryNo (.anchors words)) p c.key

/-- CONTRIB at a module: converted and added, or for an operation that reduces nothing passed on toward the root, which
sends it down as RESULT (R260). One that failed its tag or its CRC makes the piece corrupt (R261). -/
def onContrib (s : State) (p : Plan) (c : Coll) (m : CollMsg) (data : Bytes) (bad : Bool) : State :=
  match c.chunkAt m.chunk with
  | none => s
  | some x => match x.pieceAt m.first with
    | none => s
    | some q =>
      let n := payloadElems (arithIn c.fields.arith) data.length
      if reduces c.fields then
        let ys := contribAccs c.fields x m.first n data
        let s := countArith s (addDie s c.key) 0x404 0 (ys.filter (·.sat)).length
        settlePiece (addToPiece s c x q m.src m.first ys bad) c.key m.chunk m.first
      else
        let s := updPiece s c.key m.chunk q.first (fun q => { q with cover := q.cover ++ [(m.src, n)], corrupt := q.corrupt || bad })
        let s := match parentFor p (me s) m.chunk with
          | none => sendResult s p c m.chunk m.first n x.tryNo data
          | some up => sendColl s (collUnit s c.key m.chunk) p.cls (collMsg p c (me s) up m.chunk m.first x.tryNo (.contrib data))
        settlePiece s c.key m.chunk m.first

/-- PARTIAL at a module (R57, R260, R274). `negZeros` names the elements whose zero sum stands for contributions that were all -0 (R50),
which an integer contribution never is (R60). -/
def onPartial (s : State) (c : Coll) (m : CollMsg) (data : Bytes) (negZeros : List Nat) (bad : Bool) : State :=
  match c.chunkAt m.chunk with
  | none => s
  | some x => match x.pieceAt m.first with
    | none => s
    | some q =>
      let n := partialCount data
      let float := !isInt (arithIn c.fields.arith)
      let ys := (List.range n).map (fun i => partialAcc data n (float && decide (i ∈ negZeros)) i)
      let wrong := badResidues c.fields ys
      let s := countArith s (addDie s c.key) 0x40C 2 wrong
      settlePiece (addToPiece s c x q m.src m.first ys (bad || decide (0 < wrong))) c.key m.chunk m.first

/-- RESULT at a module: replicated toward the children that receive it (R260, step 6). One that overtakes GO finds a module that knows nothing
of the chunk yet. -/
def onResult (s : State) (p : Plan) (c : Coll) (m : CollMsg) (data : Bytes) : State :=
  sendResult (chunkFor s m) p c m.chunk m.first (payloadElems (arithOut c.fields.arith) data.length) m.tryNo data

/-- CHECKED of a child (R262, step 1): a root retracts at one with CORRUPT (R263). -/
def onChecked (s : State) (p : Plan) (c : Coll) (m : CollMsg) (count : Nat) (corrupt overflow : Bool) : State :=
  match c.chunkAt m.chunk with
  | none => s
  | some x =>
    if corrupt ∧ rootOfChunk p m.chunk = me s then retractChunk s p c x
    else match x.pieceAt m.first with
    | none => s
    | some q =>
      settlePiece (updPiece s c.key m.chunk q.first (fun q => { q with
        checked := q.checked ++ [(m.src, count)], corrupt := q.corrupt || corrupt, overflow := q.overflow || overflow })) c.key m.chunk m.first

/-- DELIVERED sent up by a module once all below it is delivered, or the commit tried at the root (R262). -/
def deliveredNext (s : State) (p : Plan) (key : CollKey) (k : Nat) : State := match collOf s key with
  | none => s
  | some c => match c.chunkAt k with
    | none => s
    | some x =>
      if rootOfChunk p k = me s then tryCommit s p key k
      else if x.leafSent ∨ !allDelivered s p c.fields x then s
      else tellUp (updChunk s key k (fun x => { x with leafSent := true })) p c k 0 x.tryNo .delivered

def onDelivered (s : State) (p : Plan) (c : Coll) (m : CollMsg) : State :=
  deliveredNext (updChunk s c.key m.chunk (fun x => { x with delivered := x.delivered ++ [m.src] })) p c.key m.chunk

/-- COMMIT at a module: passed on to its children, which a STALLED module does not do (R268); the collective is over here when every chunk has committed and no FINISH
is to come (R262, R254). -/
def onCommitMsg (s : State) (p : Plan) (c : Coll) (m : CollMsg) (overflow : Bool) : State :=
  if !mayGo s m.group then s
  else
  let s := updColl s c.key (fun c => { c with
    chunks := c.chunks.filter (fun x => decide (x.chunk ≠ m.chunk)), committed := if m.chunk ∈ c.committed then c.committed else c.committed ++ [m.chunk],
    overflow := c.overflow || overflow })
  let s := tellKids s p c (kidsOf p (me s)) m.chunk 0 m.tryNo (.commit overflow)
  match collOf s c.key with
  | none => s
  | some c =>
    if !finishComes c.fields ∧ !isRoot s p ∧ c.committed.length = chunkCount c.fields p.members.length then dropColl s c.key
    else cutAll s p c.key

/-- RETRACT at a module: the chunk's pieces are gone, and the try is known where the module holds nothing of the chunk yet (R263, step 2). -/
def onRetract (s : State) (c : Coll) (m : CollMsg) (newTry : Nat) : State :=
  updColl s c.key (fun c => { c with
    tries := c.tries ++ [(m.chunk, newTry)],
    chunks := c.chunks.map (fun x => if x.chunk = m.chunk ∧ x.tryNo < newTry then resetChunk false x newTry else x) })

/-- ABORT at a module: the primary root passes the first on to everyone, and every module ends the collective (R264). -/
def onAbort_ (s : State) (p : Plan) (m : CollMsg) (status : Byte) (member : Nat) (fault : DWord) : State :=
  if me s = primaryOf p then abortAll s p (keyOf m) status member fault else abortHere s (keyOf m)

/-- DONE at the primary root (R61, R265, step 3). -/
def onDone (s : State) (p : Plan) (c : Coll) (m : CollMsg) (data : Bytes) : State :=
  if c.dones.any (fun d => decide (d.1 = m.src)) ∨ m.src ∉ p.roots then s
  else if !(wideFrom data).checks then wideFails s p c.key
  else tryFinish (updColl s c.key (fun c => { c with dones := c.dones ++ [(m.src, wideFrom data)] })) p c.key

/-- FINISH at a module: its digest record, and the end of the collective there (R487). -/
def onFinish (s : State) (p : Plan) (c : Coll) (digest : Bytes) : State := dropColl (digestRecord s p c digest) c.key

/-- PROV_CRC at the root of a chunk, and PROV_LIST at the primary root (R486). -/
def onProvCrc (s : State) (p : Plan) (c : Coll) (m : CollMsg) (values : List (Nat × DWord)) : State :=
  let s := chunkFor s m
  tryCommit (updChunk s c.key m.chunk (fun x => { x with provs := x.provs ++ values.filter (fun v => !x.provs.any (fun w => decide (w.1 = v.1))) }))
    p c.key m.chunk
def onProvList (s : State) (p : Plan) (c : Coll) (m : CollMsg) (values : List DWord) : State :=
  tryFinish (updColl s c.key (fun c => { c with provLists := c.provLists ++ [(m.chunk, m.first, values)] })) p c.key

/-- STALL at a module (R267). -/
def onStall (s : State) (m : CollMsg) (missing : List Fid) : State := match groupOf s m.group with
  | none => s
  | some g => if g.state = .active ∧ g.plan.ctx = m.ctx ∧ g.plan.epoch = m.epoch then enterStalled s g missing else s

/-! ## Messages at a member block -/

/-- The launch that a message concerns at a block. -/
def launchOf (s : State) (b : Nat) (m : CollMsg) : Option Launch :=
  s.launches.find? (fun l => decide (l.key = keyOf m) && decide (l.block = b))

/-- The SRC operand's bytes of `n` elements from place `at_` on: elements, then the scale bytes of their blocks (R250). -/
def readSrc (s : State) (c : Cmd) (f : LaunchFields) (member at_ n : Nat) : Look (Except LocalFail (Bytes × Bytes)) :=
  let fmt := arithIn f.arith
  lookThen (readLook s c.block c.ctx (localOp c.desc 36) (at_ * elemBits fmt / 8) (elemBytes fmt n)) (fun es =>
    if isMx fmt then
      lookThen (readLook s c.block c.ctx (localOp c.desc 36) (scaleBase fmt (srcElems f member) + at_ / 32) (ceilDiv n 32))
        (fun ss => lookPure (.ok (es, ss)))
    else lookPure (.ok (es, [])))

/-- The largest exponent of each chunk group among a member's finite non-zero inputs; 0x8000 for none (R259). -/
def scanWords (fmt : Nat) (es ss : Bytes) (n : Nat) : List (BitVec 16) :=
  (List.range (ceilDiv n 256)).map (fun g =>
    match (List.range (min 256 (n - g * 256))).foldl (fun acc i => maxExp acc (decodeElem fmt es ss (g * 256 + i)).exp?) none with
    | none => 0x8000
    | some e => BitVec.ofInt 16 e)

/-- The abort of a member whose own access fails: its status, its index and the fault word (R264). -/
def memberAbort (s : State) (p : Plan) (l : Launch) (c : Cmd) (operand : Nat) (e : LocalFail) : State :=
  let s := countLocalFail s c.block e
  let w := if e.status = stFaultUnmapped then faultWord operand e.kind e.addr else 0
  abortFrom s p l.key ((blockFid s l.block).getD 0) e.status l.member w

/-- A message of a member block about a chunk. -/
def memberMsg (s : State) (p : Plan) (l : Launch) (dst : Fid) (k first t : Nat) (body : CollBody) : CollMsg :=
  chunkMsg p ((blockFid s l.block).getD 0) dst l.key.collId k first t body

/-- A message sent by a member block. -/
def memberSend (s : State) (p : Plan) (l : Launch) (m : CollMsg) : State := sendColl s (unitOfBlock s l.block) p.cls m

/-- GO of phase SCAN at a member block: SCAN for the chunk. -/
def memberScan (s : State) (p : Plan) (l : Launch) (c : Cmd) (m : CollMsg) : State :=
  let f := l.fields
  let g := givesIn f p.members.length l.member m.chunk 0 (chunkSize f p.members.length m.chunk)
  let r := readSrc s c f l.member (g.1 - (inputOf f p.members.length l.member).1) g.2
  let s := warm s c.block r
  match r.out with
  | .error e => memberAbort s p l c 0 e
  | .ok (es, ss) =>
    (wordPackets (scanWords (arithIn f.arith) es ss g.2)).foldl (fun s w =>
      memberSend s p l (memberMsg s p l m.src m.chunk w.1 m.tryNo (.scan w.2))) s

/-- The place in DST, and the elements there, of a range of a chunk. -/
def dstPlace (f : LaunchFields) (n i k first m : Nat) : Nat × Nat :=
  let t := takesIn f n i k first m
  (t.1 - (outputOf f n i).1, t.2)

/-- The translation check of a member's results range (R260, step 2). -/
def dstCheck (s : State) (c : Cmd) (f : LaunchFields) (n i k first m : Nat) : Look (Except LocalFail Unit) :=
  let o := localOp c.desc 48
  let fmt := arithOut f.arith
  let t := dstPlace f n i k first m
  if o.zero ∨ t.2 = 0 then lookPure (.ok ())
  else lookThen (localLook s c.block c.ctx o (t.1 * elemBits fmt / 8) (elemBytes fmt t.2) accWrite) (fun _ =>
    if isMx fmt then
      lookThen (localLook s c.block c.ctx o (scaleBase fmt (dstElems f n i) + t.1 / 32) (ceilDiv t.2 32) accWrite) (fun _ => lookPure (.ok ()))
    else lookPure (.ok ()))

/-- The packets that cover a range of a chunk, cut at multiples of E within the chunk (R272), where a segment of ALL_GATHER starts off one too:
the spec does not say where its cuts fall (DESIGN CHOICE, log 211). -/
def contribCuts (e : Nat) : Nat → Nat → Nat → List (Nat × Nat)
  | 0, _, _ => []
  | fuel + 1, first, n =>
    if n = 0 then []
    else
      let k := min n (e - first % e)
      (first, k) :: contribCuts e fuel (first + k) (n - k)

/-- PROV_CRC of a chunk's try, with the first data of it (R485, R486). -/
def sendProvCrc (s : State) (p : Plan) (l : Launch) (c : Cmd) (m : CollMsg) : State :=
  let f := l.fields
  let n := p.members.length
  let g := givesIn f n l.member m.chunk 0 (chunkSize f n m.chunk)
  match (readSrc s c f l.member (g.1 - (inputOf f n l.member).1) g.2).out with
  | .error _ => s
  | .ok (es, ss) => memberSend s p l (memberMsg s p l (rootOfChunk p m.chunk) m.chunk 0 m.tryNo (.provCrc [(l.member, crc64 (es ++ ss))]))

/-- GO of phase DATA at a member block: the translations are checked, and CONTRIB packets go to the module (R260, step 2). -/
def memberData (s : State) (p : Plan) (l : Launch) (c : Cmd) (m : CollMsg) (count : Nat) : State :=
  let f := l.fields
  let n := p.members.length
  let fmt := arithIn f.arith
  let g := givesIn f n l.member m.chunk m.first count
  let at_ := g.1 - (inputOf f n l.member).1
  let r := lookThen (lookFail (readSrc s c f l.member at_ g.2) (fun e => (0, e))) (fun b =>
    lookThen (lookFail (dstCheck s c f n l.member m.chunk m.first count) (fun e => (1, e))) (fun _ => lookPure (.ok b)))
  let s := warm s c.block r
  match r.out with
  | .error e => memberAbort s p l c e.1 e.2
  | .ok (es, ss) =>
    let s := if f.prov ∧ m.first = 0 ∧ l.member ∈ contributors f n m.chunk then sendProvCrc s p l c m else s
    let start := g.1 - m.chunk * chunkLen f
    let e := perPacket fmt
    (contribCuts e (g.2 / e + 2) start g.2).foldl (fun s q =>
      let off := q.1 - start
      let data := slice es (off * elemBits fmt / 8) (elemBytes fmt q.2) ++ (if isMx fmt then slice ss (off / 32) (ceilDiv q.2 32) else [])
      memberSend s p l (memberMsg s p l m.src m.chunk q.1 m.tryNo (.contrib data))) s

/-- The RESULT message that an attach request serves. -/
def resultOf : AttachUse → Option CollMsg
  | .result _ m _ => some m
  | _ => none

/-- RESULT at a member block: written speculatively, and acknowledged once the accelerator has it (R140, R156, R260). -/
def memberResult (s : State) (p : Plan) (l : Launch) (c : Cmd) (m : CollMsg) (data : Bytes) : State :=
  let f := l.fields
  let n := p.members.length
  let fmt := arithOut f.arith
  let o := localOp c.desc 48
  let cnt := payloadElems fmt data.length
  let t := takesIn f n l.member m.chunk m.first cnt
  let u := unitOfBlock s l.block
  if o.zero ∨ t.2 = 0 then sendAck s u m.hdr
  else
    let off := t.1 - (m.chunk * chunkLen f + m.first)
    let at_ := t.1 - (outputOf f n l.member).1
    let es := slice data (off * elemBits fmt / 8) (elemBytes fmt t.2)
    let ss := if isMx fmt then slice data (elemBytes fmt cnt + off / 32) (ceilDiv t.2 32) else []
    let use := AttachUse.result c.id m
    let eAt := at_ * elemBits fmt / 8
    let sAt := scaleBase fmt (dstElems f n l.member) + at_ / 32
    let r := lookThen (localLook s c.block c.ctx o eAt es.length accWrite) (fun a =>
      lookThen (if ss.isEmpty then lookPure (.ok []) else localLook s c.block c.ctx o sAt ss.length accWrite) (fun b =>
        lookPure (.ok (placeRuns eAt a ++ placeRuns sAt b))))
    let s := warm s c.block r
    match r.out.bind (fun runs =>
        let h := holdRuns s c o runs r.pages false
        (localWriteAs h.1 h.2 use o eAt es).bind (fun s => if ss.isEmpty then .ok s else localWriteAs s h.2 use o sAt ss)) with
    | .error e => memberAbort (sendAck s u m.hdr) p l c 1 e
    | .ok s => if s.attReqs.any (fun r => decide (resultOf r.use = some m)) then s else sendAck s u m.hdr

/-- Whether a member waits for FINISH: a program that the module holds and that uses no ACC has nothing to wait for. -/
def waitsFinish (s : State) (l : Launch) : Bool :=
  l.fields.prov || l.fields.sumsq || (decide (l.fields.program ≠ 0) && (match programOf s l.key.ctx l.fields.program with
    | none => true
    | some p => pgAcc p.image))

/-- The completion of a launch (R265, steps 2 to 5, R487). -/
def memberDone (s : State) (p : Plan) (l : Launch) : State :=
  if l.committed < chunkCount l.fields p.members.length then s
  else if waitsFinish s l ∧ l.finish.isNone then s
  else
    let v := (l.finish.map (·.1)).getD 0
    let aux := if l.fields.prov then ((l.finish.map (·.2)).getD []).take 14 else []
    endLaunch s l (if l.overflow then stOverflow else stOk)
      (if l.fields.sumsq ∨ l.fields.program ≠ 0 then v else 0) aux

/-- The try of a chunk at a member block. -/
def launchTry (l : Launch) (k : Nat) : Nat := ((l.tries.filter (fun t => decide (t.1 = k))).map (·.2)).foldl max 0

/-- The RESULT packets of a chunk of which a member receives any, by first element. -/
def memberResults (f : LaunchFields) (n i k : Nat) : List Nat :=
  let e := perPacket (arithOut f.arith)
  let m := chunkSize f n k
  ((List.range (ceilDiv m e)).map (· * e)).filter (fun first => decide (0 < (takesIn f n i k first (min e (m - first))).2))

/-- Whether a member's block has overwritten a retracted chunk: every byte that it receives of it has come again under the current try, and
the accelerator has it (R156). A REDUCE_UPDATE that delivered nothing before its retraction has nothing to overwrite. -/
def redelivered (s : State) (p : Plan) (l : Launch) (c : Cmd) (k : Nat) : Bool :=
  let t := launchTry l k
  let code : Byte := 0x80 ||| coResult
  let came := fun (t : Nat) => l.seen.any (fun e => decide (e.1 = code) && decide (e.2.1 = k) && decide (e.2.2.1 ≤ t))
  let pending := s.attReqs.any (fun r => (resultOf r.use).any (fun m => decide (keyOf m = l.key) && decide (m.chunk = k) &&
    decide (blockOfFid s m.dst = some l.block)))
  decide (t = 0) || (localOp c.desc 48).zero || (decide (l.fields.op = coReduceUpdate) && !came t) ||
  ((memberResults l.fields p.members.length l.member k).all (fun first => l.seen.any (fun e => decide (e = (code, k, t, first)))) && !pending)

/-- The commits that a member block holds applied in chunk order: under CHUNK_SIGNAL each adds the signal (R262, R265). -/
def applyCommits (p : Plan) (c : Cmd) : Nat → State → Launch → State × Launch
  | 0, s, l => (s, l)
  | fuel + 1, s, l => match l.heldCommits.find? (fun h => decide (h.1 = l.committed)) with
    | none => (s, l)
    | some h =>
      if !redelivered s p l c h.1 then (s, l)
      else
      let d := descHdr c.desc
      let s := if l.fields.chunkSignal ∧ d.sigEn then addCounter s c.block c.ctx d.sigCtr d.sigAdd else s
      applyCommits p c fuel s { l with committed := l.committed + 1, overflow := l.overflow || h.2,
                                       heldCommits := l.heldCommits.filter (fun x => decide (x.1 ≠ h.1)) }

/-- The commits of a launch applied as far as they may be, and the launch's end. -/
def commitMore (s : State) (p : Plan) (l : Launch) (c : Cmd) : State :=
  let r := applyCommits p c (l.heldCommits.length + 1) s l
  memberDone (setLaunch r.1 r.2) p r.2

/-- COMMIT at a member block: held until it may be applied. -/
def memberCommit (s : State) (p : Plan) (l : Launch) (c : Cmd) (m : CollMsg) (overflow : Bool) : State :=
  if m.chunk < l.committed ∨ l.heldCommits.any (fun h => decide (h.1 = m.chunk)) then s
  else commitMore s p { l with heldCommits := l.heldCommits ++ [(m.chunk, overflow)] } c

/-- The commits that wait for a chunk's re-delivery tried again. -/
def retryCommits (s : State) : State :=
  (s.launches.filter (fun l => !l.heldCommits.isEmpty)).foldl (fun s l => match planAt s l.key.group l.key.epoch, cmdOf s l.cmd with
    | some p, some c => commitMore s p l c
    | _, _ => s) s

/-- FINISH at a member block. -/
def memberFinish (s : State) (p : Plan) (l : Launch) (value : DWord) (digest : Bytes) : State :=
  let l := { l with finish := some (value, digest) }
  memberDone (setLaunch s l) p l

/-- ABORT at a member block (R264). -/
def memberEnd (s : State) (l : Launch) (status : Byte) (member : Nat) (fault : DWord) : State :=
  let mine := decide (l.member = member)
  endLaunch s l status (if status = stFaultUnmapped then (if mine then fault else BitVec.ofNat 64 member) else 0) []

/-! ## A packet at its destination (R24, R82, R271, R366, R619) -/

/-- Where a collective packet arrives: at the member block of its DST_FID, or at the module. -/
inductive CollAt where
  | member (block : Nat)
  | module

/-- Where a packet's DST_FID leads: nowhere at this module where it is neither its own nor a block's. -/
def collAt (s : State) (h : Header) : Option CollAt := match blockOfFid s h.dst with
  | some b => some (.member b)
  | none => if ownFid s = some h.dst then some .module else none

/-- The collective that a packet's header names. -/
def hdrKey (h : Header) : CollKey := keyOf { hdr := h, body := .activate }

/-- The unit that a collective packet is steered to (R366): DONE, and a COLL packet that no claim covers, to the die of the chunk. -/
def collUnitAt (s : State) (at_ : CollAt) (h : Header) : Nat := match at_ with
  | .member b => unitOfBlock s b
  | .module =>
    let m : CollMsg := { hdr := h, body := .activate }
    if h.ptype ≠ tyColl then unitMgmt s
    else if h.opcode = coDone then rowUnit s (hdrKey h) 0
    else collUnit s (hdrKey h) m.chunk

/-- Whether step 2 of R82 finds a packet's context: at the block, or defined at the module. What forms and closes a group is taken
without it in clear, for a module joins before a member's context is defined (R243, step 4, log 171). -/
def collKnown (s : State) (at_ : CollAt) (h : Header) : Bool :=
  let forms := decide (h.ptype = tyCollCtrl) && decide (h.opcode = ccPlan ∨ h.opcode = ccJoin ∨ h.opcode = ccActivate ∨ h.opcode = ccClose ∨ h.opcode = ccStall)
  match at_ with
  | .member b => definedAt s (burgeeCtx h) b
  | .module => (ctxOf s (burgeeCtx h)).isSome || (forms && !flagEnc h)

/-- A READY under a key epoch that the module lacks: the collective is aborted with KEY_INVALID (R26, R264). A module that holds no live epoch
of the context can build no ABORT for it, so it answers the READY with NO_CONTEXT in clear, and its sender aborts (DESIGN CHOICE, log 172). -/
def deadReady (s : State) (at_ : CollAt) (h : Header) : State := match at_ with
  | .member _ => s
  | .module =>
    let m : CollMsg := { hdr := h, body := .activate }
    if h.ptype ≠ tyCollCtrl ∨ h.opcode ≠ ccReady ∨ inTeardown s m.ctx then s
    else match planAt s m.group m.epoch with
      | none => s
      | some p =>
        if p.ctx ≠ m.ctx ∨ m.src ∉ kidsOf p (me s) then s
        else if (collEpoch s (unitMgmt s) m.ctx).isSome then abortUp s p (keyOf m) stKeyInvalid
        else sendNak s (collUnitAt s at_ h) h nakNoContext

/-- A collective packet of a row at its destination: steps 1 to 5 of R82 at the unit that it is steered to, then `take` with what it
spells. A reduction die has added the data of a CONTRIB or a PARTIAL before it verifies it, so one that fails its tag or its CRC is taken as
corrupt (R261); any other is answered with the NAK of R82 (log 172). -/
def collPacket (s : State) (p : Packet) (ty : BitVec 4) (opcode : Byte) (take : State → CollAt → Nat → CollMsg → Bool → State) : State :=
  let h := p.hdr
  if !inService s ∨ h.ptype ≠ ty ∨ h.opcode ≠ opcode then s
  else match collAt s h with
    | none => s
    | some at_ =>
      let u := collUnitAt s at_ h
      if (match at_ with
          | .member b => isQuiet s b
          | .module => false) then s
      else match openSteps s u (collKnown s at_ h) p with
        | .over s => s
        | .dead s => deadReady s at_ h
        | .bad s code payload => match at_ with
          | .member _ => sendNak s u h code
          | .module =>
            if ty = tyColl ∧ opcode = coContrib ∧ collFieldsOk h then take s at_ u { hdr := h, body := .contrib payload } true
            else if ty = tyColl ∧ opcode = coPartial ∧ collFieldsOk h then take s at_ u { hdr := h, body := .partialSum payload } true
            else sendNak s u h code
        | .ok payload => match collMsgOf h payload with
          | none => refuseMalformed s u h
          | some m => take s at_ u m false

/-- Whether a message concerns a chunk, so that its TRY may be older than the chunk's (R271). -/
def ofChunk (m : CollMsg) : Bool := match m.body with
  | .ready _ _ => false
  | .abort _ _ _ => false
  | .done _ => false
  | .finish _ _ => false
  | .stall _ => false
  | .planFragment _ _ _ _ => false
  | .planRefuse _ _ => false
  | .join _ => false
  | .activate => false
  | .close => false
  | _ => true

/-- A message that reaches a member block: acknowledged and dropped where it is stale, a duplicate, or of a group in which the block takes
no part (R619), else taken by `k`. -/
def atMember (s : State) (b : Nat) (m : CollMsg) (ackLater : Bool) (k : State → Plan → Launch → Cmd → State) : State :=
  let acked := sendAck s (unitOfBlock s b) m.hdr
  match planAt s m.group m.epoch with
  | none => countStale acked
  | some p => if (memberIndex p m.dst).isNone ∨ p.ctx ≠ m.ctx then countStale acked else match launchOf s b m with
    | none => acked
    | some l => match cmdOf s l.cmd with
      | none => acked
      | some c =>
        let entry := (opCode m, m.chunk, m.tryNo, m.first)
        if ofChunk m ∧ m.tryNo < launchTry l m.chunk then countStale acked
        else if entry ∈ l.seen then (if ackLater ∧ s.attReqs.any (fun r => decide (resultOf r.use = some m)) then s else acked)
        else
          let l := { l with seen := l.seen ++ [entry], tries := if m.tryNo = 0 then l.tries else l.tries ++ [(m.chunk, m.tryNo)] }
          k (setLaunch (if ackLater then s else acked) l) p l c

/-- A message of a collective that reaches the module, likewise; `u` is the unit that answers. -/
def atModule (s : State) (u : Nat) (m : CollMsg) (k : State → Plan → Coll → State) : State :=
  let acked := sendAck s u m.hdr
  match planAt s m.group m.epoch with
  | none => countStale acked
  | some p => if p.ctx ≠ m.ctx then countStale acked else match collOf s (keyOf m) with
    | none => acked
    | some c =>
      let entry := (m.src, opCode m, m.chunk, m.tryNo, m.first)
      if ofChunk m ∧ m.tryNo < c.tryOf m.chunk then countStale acked
      else if entry ∈ c.seen then acked
      else k (updColl acked c.key (fun c => { c with seen := c.seen ++ [entry] })) p { c with seen := c.seen ++ [entry] }

/-- A message of a group that reaches the module: no collective need exist. `current` says whether its epoch is one that the module takes;
another is counted as stale (R271). -/
def atGroup (s : State) (at_ : CollAt) (u : Nat) (m : CollMsg) (current : Bool) (k : State → State) : State :=
  let acked := sendAck s u m.hdr
  match at_ with
  | .member _ => if current then acked else countStale acked
  | .module => if current then k acked else countStale acked

/-- Whether a module holds a group of a message's context under its epoch, current or being joined, or waits as its issuer. -/
def epochHeld (s : State) (m : CollMsg) : Bool :=
  (groupOf s m.group).any (fun g => decide (g.plan.ctx = m.ctx) && (decide (g.plan.epoch = m.epoch) || decide (g.joining.epoch = m.epoch))) ||
  s.groupCmds.any (fun c => decide (c.group = m.group) && decide (c.ctx = m.ctx) && decide (c.epoch = m.epoch))

/-! ## Answers to the module's own messages (R262, R267, R270, R271) -/

/-- Whether a fabric ID is a child, a parent or a root to the module in a plan. -/
def neighbour (s : State) (p : Plan) (f : Fid) : Bool := decide (f ∈ kidsOf p (me s)) || decide (f ∈ parentsOf p (me s)) || decide (f ∈ p.roots)

/-- A CLOSE or another group message answered, or lost: GROUP_CLOSE completes once every module has answered. -/
def groupAnswered (s : State) (m : CollMsg) (status : Byte) : State :=
  match m.body with
  | .close => match s.groupCmds.find? (fun c => c.closing && decide (c.group = m.group) && decide (c.epoch = m.epoch) && decide (m.dst ∈ c.waiting)) with
    | none => s
    | some c =>
      let c := { c with waiting := c.waiting.erase m.dst, status := if c.status = stOk then status else c.status }
      if c.waiting.isEmpty then endGroupCmd s c c.status
      else { s with groupCmds := s.groupCmds.map (fun x => if x.cmd = c.cmd then c else x) }
  | _ => s

/-- The ACK of a collective packet of this module: a RESULT acknowledged by a member block counts toward DELIVERED. -/
def onCollAck (s : State) (m : CollMsg) : State :=
  match m.body with
  | .result data =>
    if m.src ≠ me s then s
    else match planAt s m.group m.epoch, collOf s (keyOf m) with
      | some p, some c =>
        if m.dst ∉ memberKids p (me s) then s
        else
          let n := payloadElems (arithOut c.fields.arith) data.length
          let s := updChunk s c.key m.chunk (fun x => if x.tryNo = m.tryNo then { x with acked := x.acked ++ [(m.dst, n)] } else x)
          deliveredNext s p c.key m.chunk
      | _, _ => s
  | _ => groupAnswered s m stOk

/-- The NAK of a collective packet of this module that is over: a READY that meets no context aborts its collective, since a module of the
plan lacks the key epoch (R26, R264, log 172). -/
def onCollNak (s : State) (m : CollMsg) (code : Byte) : State :=
  match m.body with
  | .ready _ _ => match planAt s m.group m.epoch with
    | some p => if code = nakNoContext then abortFrom s p (keyOf m) m.src stKeyInvalid 0 0 else s
    | none => s
  | _ => s

/-- A collective packet of this module that completed with DEST_LOST or TIMEOUT: a stall where it went to a child, a parent
or a root (R267). -/
def onCollLost (s : State) (m : CollMsg) (status : Byte) : State :=
  let s := groupAnswered s m status
  match groupOf s m.group with
  | none => s
  | some g => if g.plan.epoch = m.epoch ∧ neighbour s g.plan m.dst then declareStall s m.group m.collId m.chunk [m.dst] else s

/-- The groups of which this module is an end of a halyard that failed, its own entry's or a child's, in either direction: STALLED unless
that entry falls back to packets (R270). -/
def halyardLost (s : State) (h : Nat) : State :=
  s.groups.foldl (fun (s : State) (e : BitVec 12 × Group) =>
    let p := e.2.plan
    let n := max p.roots.length 1
    let uses : PlanModule → Bool := fun m =>
      let in_ := fun (base : Nat) => if m.parent = fidAnyRoot then decide (base ≤ h) && decide (h < base + n) else decide (h = base)
      m.halyardEn && (in_ m.halyardUp || in_ m.halyardDn)
    let mine : PlanModule → Bool := fun m => decide (m.fid = me s) || decide (m.fid ∈ moduleKids p (me s))
    if p.modules.any (fun m => mine m && uses m && !m.packetFallback) then declareStall s e.1 0 0 [] else s) s

/-- Slots in service that no granted claim but one holds. -/
def slotsBeside (s : State) (k : CollKey) : Nat :=
  slotsInService s - ((s.claims.filter (fun c => c.granted && !c.fallback && decide (c.key ≠ k))).map (·.slots)).foldl (· + ·) 0

/-- A claim moved off a die that leaves service, shrunk to the slots that are free on the remaining dies, never below one (R257). -/
def moveClaim (s : State) (k : CollKey) : State :=
  let n := slotsBeside s k
  { s with claims := s.claims.map (fun c => if c.key = k then { c with die := dieFor s k 0, slots := if c.granted then max 1 (min c.slots n) else c.slots } else c) }

/-- A chunk whose slots lay on a die that is lost, as one that failed its check (R28): its pieces are corrupt, and a root that keeps its
slots after its last CHECKED (R492) retracts it. -/
def chunkLost (s : State) (k : CollKey) (n : Nat) : State :=
  match (collOf s k).bind (fun c => (planAt s k.group k.epoch).bind (fun p => (c.chunkAt n).map (fun x => (p, c, x)))) with
  | none => s
  | some (p, c, x) =>
    if x.pieces.isEmpty then (if rootOfChunk p n = me s ∧ !x.sums.isEmpty then retractChunk s p c x else s)
    else x.pieces.foldl (fun s q =>
      settlePiece (updPiece s k n q.first (fun q => { q with corrupt := true })) k n q.first) s

/-- What a reduction die takes with it when it leaves service (R28, R257, R303). -/
def collDieLost (s : State) (die : Nat) : State :=
  let keys := (s.claims.filter (fun c => !c.fallback && decide (c.die = die))).map (·.key)
  let held := (s.claims.filter (fun c => c.granted && !c.fallback && decide (c.die = die))).map (·.key)
  let s := keys.foldl moveClaim { s with progStore := Tab.del s.progStore die }
  held.foldl (fun s k => match collOf s k with
    | none => s
    | some c => (c.chunks.map (·.chunk)).foldl (fun s n => chunkLost s k n) s) s

/-- The pools lowered in proportion where the slots in service fall below their sum (R257). -/
def lowerPools (s : State) : State :=
  let pools := (List.range 8).map (fun i => regField s (mgBase + 0x308 + 4 * i) 13 0)
  let sum := pools.foldl (· + ·) 0
  let n := slotsInService s
  if sum ≤ n then s
  else
    let s := (pools.zipIdx).foldl (fun s p =>
      setReg s (mgBase + 0x308 + 4 * p.2) (BitVec.ofNat 32 (if p.1 = 0 then 0 else max 1 (p.1 * n / sum)))) s
    logEvent s .collective wholeModule (zeros 16) 257

/-- The end of a REDUCE_UPDATE whose set is evicted: ABORT with DEST_LOST (R343). -/
def abortUpdate (c : Coll) (s : State) : State := match planAt s c.key.group c.key.epoch with
  | none => dropColl s c.key
  | some p => abortUp s p c.key stDestLost

end Sys2Proof.Machine
end

