-- ==== Sys2Proof/Machine/Requests.lean ====
section
/-!
DEFINITION. The outstanding requests of the module: the completion of what they serve (R83, R87, R116, R209, R212, R427),
re-sends (R87), the checks of an answer (R618), and block generations as their sources meet them (R85).
-/
namespace Sys2Proof.Machine

open Sys2Proof

/-! ## What an answer completes -/

/-- A request that is no longer outstanding. -/
def dropReq (s : State) (id : Nat) : State := { s with reqs := s.reqs.filter (fun r => decide (r.id ≠ id)) }

/-- A packet of a command that did not succeed: the command takes the status where it is the first, keeps the smallest
refused OFFSET where its home refused it, and starts no later tile (R87, R116, R117). -/
def failCmdPart (s : State) (id : Nat) (status : Byte) (off : Nat) : State := match cmdOf s id with
  | none => s
  | some c =>
    let mine := decide (status = stFaultUnmapped) && (goesOn c.status || c.refused.isSome)
    let c' := { failPart c status 0 with sentAll := true, refused := if mine then some (min off (c.refused.getD off)) else c.refused }
    setCmd s c'

/-- The aperture access that waits on a port under a tag. -/
def apertureAt (s : State) (k : Nat × BitVec 16) : Option Aperture :=
  s.apertures.find? (fun a => decide (a.port = k.1) && decide (a.tag = k.2))

/-- An aperture access answered with a status, and a read that succeeded with its data (R427). -/
def endAperture (s : State) (k : Nat × BitVec 16) (status : Byte) : State := match apertureAt s k with
  | none => s
  | some a =>
    let s := { s with apertures := s.apertures.filter (fun x => !(decide (x.port = k.1) && decide (x.tag = k.2))) }
    if portUp s a.port then attachAnswer s a.port a.tag status a.addr.toNat (if a.read && decide (status = stOk) then a.data else [])
    else s

/-- An aperture access answered with OK once every packet of it is answered. -/
def apertureDone (s : State) (k : Nat × BitVec 16) : State :=
  if s.reqs.any (fun r => decide (r.aperture = some k)) || s.stalled.any (fun q => decide (q.aperture = some k)) then s
  else endAperture s k stOk

/-- Read bytes of a region at `off` put into what an aperture read asked for: `len` bytes from `base`. -/
def deliverAperture (s : State) (k : Nat × BitVec 16) (base len off : Nat) (data : Bytes) : State := match apertureAt s k with
  | none => s
  | some a =>
    let lo := max off base
    let hi := min (off + data.length) (base + len)
    if hi ≤ lo then s
    else
      let bs := slice data (lo - off) (hi - lo)
      let a' := { a with data := a.data.take (lo - base) ++ bs ++ a.data.drop (hi - base) }
      { s with apertures := s.apertures.map (fun x => if x.port = k.1 ∧ x.tag = k.2 then a' else x) }

/-- The oldest teardown that passes a test changed. -/
def changeTeardown (s : State) (mine : Teardown → Bool) (f : Teardown → Teardown) : State := match s.teardowns.find? mine with
  | none => s
  | some t => { s with teardowns := s.teardowns.map (fun x => if x.no = t.no then f x else x) }

/-- Whether a teardown of a context waits for a peer. -/
def awaits (ctx : CtxId) (peer : Fid) (t : Teardown) : Bool := decide (t.ctx = ctx) && decide (peer ∈ t.peers)

/-- A peer that has not confirmed a teardown, with the status of the failure (R467). -/
def unconfirmed (s : State) (ctx : CtxId) (peer : Fid) (status : Byte) : State :=
  changeTeardown s (awaits ctx peer) (fun t => { t with peers := t.peers.erase peer, unconfirmed := t.unconfirmed ++ [(peer, status)] })

/-- The ACK of a peer's TD_REQ: the 100 ms in which its TD_DONE is due begin (R467). -/
def tdAcked (s : State) (ctx : CtxId) (peer : Fid) : State :=
  changeTeardown s (fun t => awaits ctx peer t && t.acked.all (fun p => decide (p.1 ≠ peer)))
    (fun t => { t with acked := t.acked ++ [(peer, s.now)] })

/-- MGMT opcodes (R86, R370, R451, R466, R551). -/
def mgBlockRestart : Byte := 0x12
def mgTdReq : Byte := 0x22
def mgTdDone : Byte := 0x23

def mgEnsignFwd : Byte := 0x20
def mgEnsignRsp : Byte := 0x21

/-- The lock-step packets (R489). -/
def mgLsPair : Byte := 0x30
def mgLsRecord : Byte := 0x31
def mgLsDiverge : Byte := 0x32
def mgLsResume : Byte := 0x33
def isLsOpcode (o : Byte) : Bool := decide (0x30 ≤ o.toNat) && decide (o.toNat ≤ 0x33)

/-- The answer to a mailbox slot: carrier status, the answer message and its length; HEAD advances, and the driver is told
where NOTIFY_EN is set (R450). -/
def answerMailbox (s : State) (slot : Nat) (status : Byte) (msg : Bytes) : State :=
  let a := pairBase s (secBase + 8) (secBase + 0xC) 12 + slot * 4096 + 2048
  let s := hostWrite (hostWrite (hostWrite s (a + 8) msg) (a + 2) (toLe 2 msg.length)) a [status]
  let s := setReg s (secBase + 0x14) (BitVec.ofNat 32 (((reg s (secBase + 0x14)).toNat + 1) % 65536))
  if regBit s (secBase + 4) 4 then sendMsix s (regField s (secBase + 4) 15 5) else s

/-- A forwarded ensign message answered, by its target or by the status of its failure (R450, R451). -/
def endForward (s : State) (tag : BitVec 16) (target : Fid) (status : Byte) (msg : Bytes) : State :=
  match s.sec.forwards.find? (fun f => decide (f.tag = tag) && decide (f.target = target)) with
  | none => s
  | some f => answerMailbox { s with sec := { s.sec with forwards := s.sec.forwards.erase f } } f.slot status msg

/-- The context ID of a TD_REQ or TD_DONE payload. -/
def tdCtx (bs : Bytes) : CtxId := BitVec.ofNat 20 (fieldAt bs 0 4)

/-- A request that ends without success: what it serves takes the status (R87, R116, R220, R333, R427, R467). -/
def reqFail (s : State) (r : OutReq) (status : Byte) : State :=
  let s := dropReq s r.id
  match r.kind with
  | .coll m => if status = stDestLost ∨ status = stTimeout then onCollLost s m status else groupAnswered s m status
  | .vote key peer decided => onVoteWrite s key peer decided status
  | .combined _ => logFault s 0 0 r.unit 220
  | .mgmt _ =>
    if r.pkt.hdr.opcode = mgTdReq then unconfirmed s (tdCtx r.pkt.body) r.pkt.hdr.dst status
    else if r.pkt.hdr.opcode = mgEnsignFwd then endForward s r.pkt.hdr.tag r.pkt.hdr.dst status []
    else if isLsOpcode r.pkt.hdr.opcode then lsLinkLost s
    else s
  | _ => match r.aperture with
    | some k => endAperture s k status
    | none => match r.cmd with
      | none => s
      | some id => finishCmd (failCmdPart s id status r.pkt.hdr.offset.toNat) id

/-- What follows the success of one packet of a command or of an aperture access. -/
def partDone (s : State) (r : OutReq) : State := match r.aperture with
  | some k => apertureDone s k
  | none => match r.cmd with
    | none => s
    | some id => finishCmd s id

/-- The lines of a fill put into the cache of the reading block's die (R148); none whose home is the reading block, and none that an
invalidation met while the fill was outstanding (R145, R150). -/
def insertLines (s : State) (r : OutReq) (data : Bytes) : State := match blockOfUnit s r.unit with
  | none => s
  | some b =>
    let h := r.pkt.hdr
    if blockFid s b = some h.dst then s
    else ((List.range (data.length / lineBytes)).filter (fun i => decide (h.offset.toNat + i * lineBytes ∉ r.stale))).foldl (fun s i => cacheInsert s
      { die := epDie s b, ctx := burgeeCtx h, home := h.dst, region := h.region, line := h.offset.toNat + i * lineBytes,
        data := slice data (i * lineBytes) lineBytes }) s

/-- The result of an atomic: the old value in RESULT, and at 128 bits all of it in BUF, whose faults name operand 0 (R210, R212). -/
def atomicDone (s : State) (id : Nat) (buf : Option Nat) (old : Bytes) : State := match cmdOf s id with
  | none => s
  | some c =>
    let c := { c with result := BitVec.ofNat 64 (leNat (old.take 8)) }
    let s := setCmd s c
    match buf with
    | none => s
    | some at_ => match localWrite s c (localOp c.desc 40) at_ old with
      | .error e => (failLocal s c 0 e).1
      | .ok s => s

/-- A request that succeeded: what it serves goes on, with the payload of a RESPONSE (R209, R212, R427). -/
def reqOk (s : State) (r : OutReq) (payload : Bytes) : State :=
  let s := dropReq s r.id
  match r.kind with
  | .coll m => onCollAck s m
  | .vote key peer decided => onVoteWrite s key peer decided stOk
  | .combined merged => merged.foldl (fun s h => sendAck s r.unit h) s
  | .mgmt _ => if r.pkt.hdr.opcode = mgTdReq then tdAcked s (tdCtx r.pkt.body) r.pkt.hdr.dst else s
  | .read dest base len fill =>
    let s := if fill then insertLines s r payload else s
    let off := r.pkt.hdr.offset.toNat
    let s := match r.aperture, r.cmd with
      | some k, _ => deliverAperture s k base len off payload
      | none, some id => deliver s id dest base len off payload
      | none, none => s
    partDone s r
  | .atomic _ fetching buf => match r.cmd with
    | none => s
    | some id => finishCmd (if fetching then atomicDone s id buf payload else s) id
  | .write => partDone s r
  | .ownXfer _ => partDone s r

/-! ## Re-sends (R87) -/

/-- A request sent again, or completed with TIMEOUT where its tries are used up. -/
def retry (s : State) (r : OutReq) : State :=
  if r.tries < cfgTries r.cfg then resend s r else reqFail (countPkt s r.unit .timeout) r stTimeout

/-- A request of a queue's command or an aperture access as the same block would build it again for a range. -/
def reread (r : OutReq) (dest : Option Nat) (base len : Nat) : SendReq :=
  let h := r.pkt.hdr
  { unit := r.unit, src := h.src, dst := h.dst, ctx := burgeeCtx h, cls := h.cls, ptype := tyRead, opcode := 0x01, last := true,
    combinable := false, region := h.region, offset := base, len := len, payload := [], kind := .read dest base len false,
    cmd := r.cmd, aperture := r.aperture }

/-- A line fill that its home refused: the exact range is read uncached, once (R148). -/
def refuseFill (s : State) (r : OutReq) (dest : Option Nat) (base len : Nat) : State :=
  let s := dropReq s r.id
  if s.reqs.any (fun x => decide (x.cmd = r.cmd) && decide (x.aperture = r.aperture) && decide (x.kind = .read dest base len false)) then s
  else (cutRequest base len).foldl (fun s p =>
    sendRequest s { reread r dest base len with offset := p.1, len := p.2, last := decide (p.1 + p.2 = base + len) }) s

/-! ## Block generations at a source and at a receiver (R85) -/

/-- A new generation of a fabric ID taken: its requests complete, its streams restart, and the home-side state of the
streams that it sends is discarded (R29, R85). -/
def restartFid (s : State) (f : Fid) (g : BitVec 4) : State :=
  let mine := s.reqs.filter (fun r => decide (r.pkt.hdr.dst = f))
  let s := { s with gens := Tab.put s.gens f g }
  let s := mine.foldl (fun (s : State) r => if s.reqs.any (fun x => decide (x.id = r.id))
    then reqFail s r (match r.kind with
      | .atomic _ _ _ => stIndeterminate
      | _ => stDestLost) else s) s
  { s with srcStreams := s.srcStreams.map (fun p => if p.1.dst = f then (p.1, { p.2 with next := 0 }) else p),
           homeStreams := s.homeStreams.filter (fun p => decide (p.1.src ≠ f)),
           lostAtomics := s.lostAtomics.filter (fun l => decide (l.key.src ≠ f)),
           ledger := s.ledger.filter (fun e => decide (e.key.src ≠ f)) }

/-! ## Answers (R83, R84, R618) -/

/-- Whether a request travels under a CNONCE. -/
def byNonce (r : OutReq) : Bool := decide (r.pkt.hdr.ptype = tyColl) || decide (r.pkt.hdr.ptype = tyCollCtrl)

/-- Whether an answer's type is one that the request's stream and kind can have. -/
def typeFits (r : OutReq) (h : Header) : Bool :=
  if h.ptype = tyNak then true
  else if h.ptype = tyAck then (match r.kind with
    | .read _ _ _ _ => false
    | .atomic _ fetching _ => !fetching
    | .mgmt _ => decide (r.pkt.hdr.opcode ≠ mgEnsignFwd)
    | _ => true)
  else if h.ptype = tyResponse then (match r.kind with
    | .read _ _ _ _ => decide (h.opcode = 0x01)
    | .atomic _ fetching _ => fetching && decide (h.opcode = 0x02)
    | _ => false)
  else false

/-- Whether an answer matches a request of a unit: by CNONCE, or by stream, SEQUENCE and TAG (R271, R618). -/
def answers (u : Nat) (h : Header) (r : OutReq) : Bool :=
  let q := r.pkt.hdr
  decide (r.unit = u) && decide (q.src = h.dst) && decide (q.dst = h.src) && decide (burgeeCtx q = burgeeCtx h) && typeFits r h &&
  (if byNonce r then decide (q.cnonce = h.cnonce) else decide (h.cnonce = 0) && decide (q.seq = h.seq) && decide (q.tag = h.tag))

/-- The LENGTH that a RESPONSE to a request has (R73). -/
def expectedLen (r : OutReq) : Nat := match r.kind with
  | .read _ _ _ _ => r.pkt.hdr.length.toNat
  | .atomic width _ _ => width
  | _ => 0

/-- What a NAK does to the request that it answers (R83). -/
def onNak (s : State) (u : Nat) (r : OutReq) (h : Header) : State :=
  let code := h.opcode
  if code = nakCrcFail ∨ code = nakTagFail ∨ code = nakBusy then retry s r
  else if code = nakMalformed ∨ code = nakBadSequence then reqFail s r stProtocol
  else if code = nakNoContext then (match r.kind with
    | .coll m => onCollNak (reqFail s r stContextGone) m code
    | _ => reqFail s r stContextGone)
  else if code = nakNoRegion then (match r.kind with
    | .read dest base len true => refuseFill s r dest base len
    | _ => reqFail s r stFaultUnmapped)
  else if code = nakOwnerMismatch then reqFail s r stOwnerMismatch
  else if code = nakStaleGen then restartFid s h.src h.sgen
  else countPkt s u .stray

/-- An answer that reaches its source: the steps of R618, and what the answer does. STALE_GEN itself tells the new
generation, so it is not held to the table's SGEN (log 51). Inside step 3 of R82 the spec gives no order of the burgee and the
generations; the model takes the burgee first here (DESIGN CHOICE, log 173). -/
def takeAnswer (s : State) (u : Nat) (p : Packet) : State :=
  let h := p.hdr
  if tooOld s h then countPkt s u .ageDrop
  else if malformed s p then logBadPacket (countPkt s u .malformed) h
  else match s.reqs.find? (answers u h) with
    | none => countPkt s u .stray
    | some r =>
      if h.ptype = tyResponse ∧ h.length.toNat ≠ expectedLen r then logBadPacket (countPkt s u .malformed) h
      else if burgeeDead s h then countPkt s u .burgeeDrop
      else if h.dgen ≠ genOf s h.dst then s
      else if h.sgen ≠ genOf s h.src ∧ ¬(h.ptype = tyNak ∧ h.opcode = nakStaleGen) then countPkt s u .genDrop
      else match openAs s (byNonce r) p with
        | .tagFail _ => countPkt s u .tagFail
        | .crcFail _ => countPkt s u .crcFail
        | .ok payload => if h.ptype = tyNak then onNak s u r h else reqOk s r payload

end Sys2Proof.Machine
end

