-- ==== Sys2Proof/Machine/Aperture.lean ====
section
/-!
DEFINITION. The fabric aperture (R427, R428): what an access is checked for, the packets it becomes, and how accesses of a
parked context wait.
-/
namespace Sys2Proof.Machine

open Sys2Proof

/-! ## Credit returned (R420) -/

/-- Units of a channel freed, never more than were received. -/
def returnUnits (s : State) (p vc : Nat) (n : Word) : State :=
  let r := portOf s p
  let v := vcOf r vc
  setPort s p (setVc r vc { v with freed := if atOrBefore (v.freed + n) v.rcvd then v.freed + n else v.rcvd })

/-- The credit that the module advertises when a link starts (R421). -/
def initialLimits (attach : Bool) : List Nat := if attach then [512, 256, 512, 32] else [1024, 0, 0, 0]

/-- The LIMIT that a port's channel may advertise now: the buffer's size and what has been freed (R420). A block under a planned
swap withholds the credit of its doorbells and apertures (R534). -/
def limitNow (s : State) (p n : Nat) : Word :=
  if attachMode s p && !blockRuns s (p / 2) && decide (n ≠ 2) then (vcOf (portOf s p) n).advertised
  else BitVec.ofNat 32 ((initialLimits (attachMode s p)).getD n 0) + (vcOf (portOf s p) n).freed

/-- The channels of a port's profile (R419). -/
def vcCount (s : State) (p : Nat) : Nat := if attachMode s p then 4 else 1

/-- A CREDIT frame sent: LIMIT, RCVD and SENT of each channel (R417, R420). -/
def sendCredit (s : State) (p : Nat) : State :=
  let r := portOf s p
  let body := (List.range (vcCount s p)).flatMap (fun n => toLe 4 (limitNow s p n).toNat ++ toLe 4 (vcOf r n).rcvd.toNat ++ toLe 4 (vcOf r n).sent.toNat)
  let vcs := r.vcs.zipIdx.map (fun q => { q.1 with advertised := limitNow s p q.2 })
  sendControl (setPort s p { r with vcs := vcs, lastCreditAt := s.now }) p fkCredit body

/-- CREDIT sent on a port that is UP where a channel has freed an eighth of its buffer since the last one (R420). -/
def maybeCredit (s : State) (p : Nat) : State :=
  let due := (List.range 4).any (fun n =>
    let size := (initialLimits (attachMode s p)).getD n 0
    decide (1 ≤ size) && decide (size ≤ 8 * (limitNow s p n - (vcOf (portOf s p) n).advertised).toNat))
  if portUp s p && due then sendCredit s p else s

/-- The channel of an aperture access, and the units that its frame took. -/
def apVc (a : Aperture) : Nat := if a.read then 1 else 0
def apUnits (a : Aperture) : Word := creditUnits (24 + (if a.read then 0 else a.len))

/-- An access's credits returned (R420). -/
def freeAperture (s : State) (a : Aperture) : State := maybeCredit (returnUnits s a.port (apVc a) (apUnits a)) a.port

/-! ## The access (R427) -/

/-- RANK and OFFSET of an aperture address. -/
def apRank (a : DWord) : Nat := bits a.toNat 63 48
def apOffset (a : DWord) : Nat := bits a.toNat 47 0

/-- The region that a window names. -/
def windowHandle (w : BitVec 12) : Word := BitVec.ofNat 32 (2 ^ 31 + w.toNat)

/-- Whether an access keeps R424: its length, and no 4,096-byte boundary of its OFFSET crossed. -/
def apLegal (addr : DWord) (len : Nat) : Bool :=
  decide (1 ≤ len) && decide (len ≤ 4096) && decide (apOffset addr % 4096 + len ≤ 4096)

/-- A request of an access. -/
def apRequest (s : State) (a : Aperture) (dst : Fid) (off len : Nat) (payload : Bytes) (last : Bool) (kind : ReqKind) : SendReq :=
  let b := a.port / 2
  { unit := unitOfBlock s b, src := (blockFid s b).getD 0, dst := dst, ctx := a.ctx, cls := 0,
    ptype := if a.read then tyRead else tyOrdered, opcode := if a.read && a.vol then 0x02 else 0x01, last := last,
    combinable := false, region := windowHandle a.window, offset := off, len := len, payload := payload, kind := kind,
    cmd := none, aperture := some (a.port, a.tag) }

/-- The read of an access: hits of the line cache are delivered at once, and one READ packet goes out for what is missing: no access
crosses a multiple of 4,096 (R148, R149, R427). -/
def apReads (s : State) (a : Aperture) (dst : Fid) : State :=
  let b := a.port / 2
  let off := apOffset a.addr
  let send := fun (s : State) (o n : Nat) (fill : Bool) => sendRequest s (apRequest s a dst o n [] true (.read none off a.len fill))
  if a.vol || !cached s b dst then send s off a.len false
  else
    let p := splitLines s b a.ctx dst (windowHandle a.window) off a.len false
    let s := countLines s b p.1.length p.2.length
    let s := p.1.foldl (fun s l => deliverAperture s (a.port, a.tag) off a.len l.line l.data) s
    match p.2 with
    | [] => apertureDone s (a.port, a.tag)
    | l :: _ => send s l (p.2.length * lineBytes) true

/-- An access answered with a status before it became a packet. -/
def refuseAperture (s : State) (a : Aperture) (status : Byte) : State := endAperture (freeAperture s a) (a.port, a.tag) status

/-- An access of a resident context: its rank is resolved, and its packet is sent. -/
def issueAperture (s : State) (a : Aperture) : State :=
  match resolveRank s (a.port / 2) a.ctx 0 (apRank a.addr) with
  | (s, .reject status _) => refuseAperture s a status
  | (s, .go dst) =>
    let s := freeAperture s a
    let s := { s with apertures := s.apertures.map (fun x => if x.port = a.port ∧ x.tag = a.tag then { x with sent := true, rankNo := s.fresh } else x), fresh := s.fresh + 1 }
    if a.read then apReads s a dst
    else sendRequest s (apRequest s a dst (apOffset a.addr) a.len a.data true .write)

/-- Whether an access may become a packet: its context is resident at a block that is not quiet, and every earlier write of its
port has left before a write (R85, R427, R428). -/
def mayIssue (s : State) (a : Aperture) : Bool :=
  let before := s.apertures.takeWhile (fun x => !(decide (x.port = a.port) && decide (x.tag = a.tag)))
  inService s && mayRun s (a.port / 2) a.ctx && !isQuiet s (a.port / 2) &&
  (a.read || before.all (fun x => x.read || decide (x.port ≠ a.port) ||
    (x.sent && !s.stalled.any (fun q => decide (q.aperture = some (x.port, x.tag))))))

/-- The accesses that wait, each issued where it may be; a parked context becomes a candidate (R194). -/
def pumpApertures (s : State) : State :=
  s.apertures.foldl (fun s a =>
    match apertureAt s (a.port, a.tag) with
    | none => s
    | some a =>
      if a.sent then s
      else if mayIssue s a then issueAperture s a
      else makeCandidate s (a.port / 2) a.ctx) s

/-- An access that arrives at a block (R427). -/
def takeAperture (s : State) (a : Aperture) : State :=
  let b := a.port / 2
  let s := { s with apertures := s.apertures ++ [a] }
  if !apLegal a.addr a.len then refuseAperture s a stProtocol
  else if !definedAt s a.ctx b ∨ inTeardown s a.ctx then refuseAperture s a stContextGone
  else pumpApertures s

end Sys2Proof.Machine
end

