-- ==== Sys2Proof/Machine/Bunting.lean ====
section
/-!
DEFINITION. The bunting: the states of the units and their records (R531), which spare replaces a unit (R15, R16), and what
happens when a kind has none left (R536).
-/
namespace Sys2Proof.Machine

open Sys2Proof

/-! ## Units -/

/-- The die ordinal under which a unit's records stand (R526, R584); 0xFF for a unit that is no die. -/
def unitOrd (s : State) (k : UnitKind) (n : Nat) : Nat := match k with
  | .lane => ordPort n
  | .plane => ordPlane n
  | .reduction => ordAri n
  | .epb => ordEp (epDieOf s.variant n)
  | .mgmt => ordMgmt n
  | .clock => ordClock n
  | .memory => ordMem (n / 2)
  | .fwSlot => wholeModule
  | .hostPort => wholeModule

/-- A UNIT record: kind, unit, old state, new state (R531, R585). -/
def logUnit (s : State) (k : UnitKind) (n old new rule : Nat) : State :=
  logEvent s .unit (unitOrd s k n) [BitVec.ofNat 8 (kindCode k), BitVec.ofNat 8 n, BitVec.ofNat 8 old, BitVec.ofNat 8 new] rule

/-- The record of a unit that has one in the bunting: a die, or a physical block. -/
def unitRec (s : State) (k : UnitKind) (n : Nat) : UnitRec :=
  let none_ : UnitRec := { state := .absent, before := .absent, testedAt := none }
  match k with
  | .epb => s.age.blocks.getD n none_
  | .plane => s.age.dies.getD (ordPlane n) none_
  | .reduction => s.age.dies.getD (ordAri n) none_
  | .mgmt => s.age.dies.getD (ordMgmt n) none_
  | .clock => s.age.dies.getD (ordClock n) none_
  | _ => none_

/-- The state of such a unit. -/
def unitState (s : State) (k : UnitKind) (n : Nat) : UnitState := (unitRec s k n).state

/-- The state with such a unit's record replaced. -/
def putUnit (s : State) (k : UnitKind) (n : Nat) (u : UnitRec) : State :=
  let die := fun (o : Nat) => { s with age := { s.age with dies := s.age.dies.set o u } }
  match k with
  | .epb => { s with age := { s.age with blocks := s.age.blocks.set n u } }
  | .plane => die (ordPlane n)
  | .reduction => die (ordAri n)
  | .mgmt => die (ordMgmt n)
  | .clock => die (ordClock n)
  | _ => s

/-- A unit that changes its state, with the record of it (R531). -/
def setUnit (s : State) (k : UnitKind) (n : Nat) (st : UnitState) (rule : Nat) : State :=
  let u := unitRec s k n
  if u.state = st then s
  else logUnit (putUnit s k n { u with state := st, before := u.state }) k n (unitCode u.state) (unitCode st) rule

/-- The units that a kind has in the bunting. -/
def unitsOf (s : State) (k : UnitKind) : List Nat := match k with
  | .epb => List.range s.age.blocks.length
  | .plane => List.range 18
  | .reduction => List.range 26
  | .mgmt => List.range 2
  | .clock => List.range 2
  | _ => []

/-- Whether a state is that of a spare that firmware may bring into service: tested first, and never one whose last test
failed (R15). A running test is ended for one whose previous test passed (R532). -/
def usable (u : UnitRec) : Bool :=
  decide (u.state = .spareTested) || decide (u.state = .standby) || (decide (u.state = .testing) && decide (u.before = .spareTested))

/-- Whether a unit is the spare of the swap in progress, which no other unit takes (R533, R534). -/
def reserved (s : State) (k : UnitKind) (n : Nat) : Bool := match s.age.swap with
  | some (k', _, spare) => decide (k' = k) && decide (spare = n)
  | none => false

/-- Whether a swap runs on the module: of a unit, or one of a lane that this end began (R533). -/
def swapRuns (s : State) : Bool :=
  s.age.swap.isSome || (List.range (portCount s.variant)).any (fun p => match (portOf s p).swap with
    | none => false
    | some w => w.initiator)

/-- The spare that replaces a unit of a kind: an untested one where no tested one is left (log 55); a block's spare is that of
its own die (R16). -/
def spareFor (s : State) (k : UnitKind) (n : Nat) : Option Nat :=
  let mine := (unitsOf s k).filter (fun i => (k ≠ .epb ∨ epDieOf s.variant i = epDieOf s.variant n) && !reserved s k i)
  match mine.find? (fun i => usable (unitRec s k i)) with
  | some i => some i
  | none => mine.find? (fun i => decide (unitState s k i = .spareUntested))

/-! ## Degraded behaviour (R536) -/

/-- The "replace tray" advisory (R31, R406). -/
def raiseTray (s : State) : State := setRegField s (mgBase + 0x600) 31 31 1

/-- The states that the record of a kind's degraded entry names: a die, a block or a lane has its own record where it changes its state; for a
memory device, a firmware slot and a host port this is the one (R531, R536). -/
def degradeStates (s : State) (k : UnitKind) (n : Nat) : UnitState × UnitState := match k with
  | .memory => (.active, .failed)
  | .fwSlot => (.active, .failed)
  | .hostPort => (.active, .failed)
  | .lane => (.failed, .failed)
  | _ => (unitState s k n, unitState s k n)

/-- A unit that leaves service beyond the spares of its kind. -/
def degrade (s : State) (k : UnitKind) (n : Nat) : State :=
  let s := { s with age := { s.age with degraded := s.age.degraded ||| (1 <<< kindCode k) },
                    degraded := s.degraded || inService s }
  let c := degradeStates s k n
  logUnit (raiseTray (countEvent s (mgBase + 0x614) (mgBase + 0x608) 2)) k n (unitCode c.1) (unitCode c.2) 536

/-- A swap counted, with its flags (R533). -/
def countSwap (s : State) : State := detBreak (countEvent s (mgBase + 0x60C) (mgBase + 0x608) 0) detTopology

end Sys2Proof.Machine
end

