-- ==== Sys2Proof/Machine/Teardown.lean ====
section
/-!
DEFINITION. Teardown of a context at the module that is asked for it and at its peers (R465 to R468).
-/
namespace Sys2Proof.Machine

open Sys2Proof

/-! ## What a teardown ends -/

/-- The outstanding requests that pass a test given up: atomics with one status, everything else with another (R218,
R461). -/
def abandonReqs (s : State) (mine : OutReq → Bool) (atomicSt other : Byte) : State :=
  (s.reqs.filter mine).foldl (fun (s : State) r => if s.reqs.any (fun x => decide (x.id = r.id))
    then reqFail s r (match r.kind with
      | .atomic _ _ _ => atomicSt
      | _ => other) else s) s

/-- Whether a command is an ATOMIC whose packet is still unanswered: one that has its answer and waits for the write of its BUF is none
(R218). -/
def openAtomic (s : State) (c : Cmd) : Bool :=
  isOp 0x10 c.desc && (s.reqs.any (fun r => decide (r.cmd = some c.id)) || s.stalled.any (fun q => decide (q.cmd = some c.id)))

/-- A command of a torn-down context ended: abandoned where it had not started, INDETERMINATE for an atomic without an
answer, else CONTEXT_GONE (R218, R232). -/
def endGone (s : State) (id : Nat) : State := match cmdOf s id with
  | none => s
  | some c =>
    if c.phase = .accepted then goneCmd s c
    else
      let c' := failPart c (if openAtomic s c then stIndeterminate else stContextGone) 0
      completeCmd { s with stalled := s.stalled.filter (fun q => decide (q.cmd ≠ some id)) } c' c'.status (finalResult c') c'.aux false

/-- The halyard watches of commands that are gone removed (R375). -/
def dropWatches (s : State) : State :=
  { s with switch := { s.switch with watches := s.switch.watches.filter (fun w => (cmdOf s w.2).isSome) } }

/-- The sweeps and commit votes of a context ended with CONTEXT_GONE (R466, step 2). -/
def endHarbourWork (s : State) (ctx : CtxId) : State :=
  let sweeps := (s.hb.sweeps.filter (fun w => decide (w.key.ctx = ctx))).map (·.cmd)
  let votes := (s.hb.votes.filter (fun v => decide (v.key.ctx = ctx))).filterMap (·.cmd)
  let s := { s with hb := { s.hb with sweeps := s.hb.sweeps.filter (fun w => decide (w.key.ctx ≠ ctx)),
                                      votes := s.hb.votes.filter (fun v => decide (v.key.ctx ≠ ctx)) } }
  (sweeps ++ votes).foldl (fun s id => match cmdOf s id with
    | none => s
    | some c => endCmd s c stContextGone 0) s

/-- The aperture accesses of a context answered with CONTEXT_GONE (R466, step 1). -/
def endApertures (s : State) (ctx : CtxId) : State :=
  (s.apertures.filter (fun a => decide (a.ctx = ctx))).foldl (fun s a => endAperture s (a.port, a.tag) stContextGone) s

/-- Whether a command acts on a context: it is the context's own, or one of context 0 that names it (R232, R302, R313). -/
def actsOn (ctx : CtxId) (c : Cmd) : Bool :=
  let o := (descHdr c.desc).opcode
  decide (c.ctx = ctx) || (decide (c.ctx = 0) && (decide (o = 0x65 ∨ o = 0x66) || (decide (0x70 ≤ o) && decide (o ≤ 0x77))) &&
    decide (targetCtx c = ctx))

/-- The group commands of a context that still wait for answers ended with CONTEXT_GONE (R245, R466). -/
def endGroupCmds (s : State) (ctx : CtxId) : State :=
  (s.groupCmds.filter (fun g => decide (g.ctx = ctx))).foldl (fun s g => endGroupCmd s g stContextGone) s

/-- Steps 1 and 2 of R466. -/
def stopCtx (s : State) (ctx : CtxId) : State :=
  let s := { s with ctxs := s.ctxs.map (fun e => if e.1 = ctx then (e.1, { e.2 with teardown := true }) else e),
                    sec := { s.sec with sessions := s.sec.sessions.filter (fun e => decide (e.2.ctx ≠ ctx)) } }
  let s := endApertures s ctx
  let s := (s.cmds.filter (fun c => actsOn ctx c && decide (c.phase = .accepted))).foldl (fun s c => endGone s c.id) s
  let s := (s.groups.filter (fun e => decide (e.2.plan.ctx = ctx))).foldl (fun s e => closeGroup s e.1 stContextGone) s
  let s := endHarbourWork s ctx
  let s := abandonReqs s (fun r => decide (burgeeCtx r.pkt.hdr = ctx) && decide (r.pkt.hdr.ptype ≠ tyMgmt)) stIndeterminate stContextGone
  let s := (s.cmds.filter (actsOn ctx)).foldl (fun s c => endGone s c.id) (endGroupCmds s ctx)
  dropWatches { s with stalled := s.stalled.filter (fun q => decide (q.ctx ≠ ctx)),
                       collWait := s.collWait.filter (fun w => decide (w.msg.ctx ≠ ctx)),
                       ownWait := s.ownWait.filter (fun w => decide (burgeeCtx w.2.hdr ≠ ctx)),
                       answerWait := s.answerWait.filter (fun w => decide (burgeeCtx w.req ≠ ctx)),
                       collBuilt := s.collBuilt.filter (fun w => decide (w.1.ctx ≠ ctx)),
                       planBufs := s.planBufs.filter (fun b => decide (b.ctx ≠ ctx)) }

/-- The shards of a context zeroised and its ports unbound (R344): in the floor state, where no write burst may start, they wait (R342). -/
def freeShards (s : State) (ctx : CtxId) : State :=
  if s.power.floor then s
  else (s.hb.shards.filter (fun h => decide (h.key.ctx = ctx))).foldl (fun s h => freeShard s h.key) s

/-- The lines of a context's contexts at each block dropped (R150). -/
def dropLines (s : State) (ctx : CtxId) : State :=
  ((List.range (blockCount s.variant)).filter (definedAt s ctx)).foldl
    (fun s b => cacheInval s b (fun l => decide (l.die = epDie s b) && decide (l.ctx = ctx))) s

/-- The save records of a context zeroised (R466, step 4). -/
def zeroRecords (s : State) (ctx : CtxId) : State := match ctxOf s ctx with
  | none => s
  | some x => ((List.range (blockCount s.variant)).filter (definedAt s ctx)).foldl
      (fun s b => writeRecord s b x.slot (zeros recordBytes)) s

/-- The combining windows under an epoch discarded, with a record where there were any (R461). -/
def discardWindows (s : State) (c : CtxId) (e : BitVec 4) : State :=
  let mine := fun (w : Window) => w.pkts.any (fun p => decide (burgeeCtx p.hdr = c) && decide (burgeeEpoch p.hdr = e))
  if s.windows.any mine then logSecurity { s with windows := s.windows.filter (fun w => !mine w) } c 0 0 e.toNat 461 else s

/-- The live epochs of a context (R437). -/
def liveEpochs (s : State) (c : CtxId) : List (BitVec 4) := match Tab.get? s.sec.keys c with
  | none => []
  | some k => k.live.map (·.1)

/-- The windows of a context discarded as step 3 of R466 retires every live epoch; those of a context in clear go too. -/
def dropCtxWindows (s : State) (ctx : CtxId) : State :=
  let s := (liveEpochs s ctx).foldl (fun s e => discardWindows s ctx e) s
  { s with windows := s.windows.filter (fun w => w.pkts.all (fun p => decide (burgeeCtx p.hdr ≠ ctx))) }

/-- Steps 3 and 4 of R466: keys, shards, programs, ledger entries, lines, channels, counters and save records go. -/
def zeroCtx (s : State) (ctx : CtxId) : State :=
  let s := zeroRecords (dropLines (freeShards (dropCtxWindows s ctx) ctx) ctx) ctx
  let s := dropStored s (fun k => decide (k.1 = ctx))
  { s with
    sec := { s.sec with keys := Tab.del s.sec.keys ctx, unitKeys := s.sec.unitKeys.filter (fun x => decide (x.2.1 ≠ ctx)) }
    programs := s.programs.filter (fun p => decide (p.1.1 ≠ ctx))
    ledger := s.ledger.filter (fun e => decide (e.key.ctx ≠ ctx))
    lostAtomics := s.lostAtomics.filter (fun l => decide (l.key.ctx ≠ ctx))
    cache := s.cache.filter (fun l => decide (l.ctx ≠ ctx))
    tables := s.tables.filter (fun e => decide (e.tag.ctx ≠ ctx) || decide (e.tag.kind = .entry))
    homeStreams := s.homeStreams.map (fun p => if p.1.ctx = ctx then (p.1, { p.2 with held := [], applying := false }) else p)
    ctxBlocks := s.ctxBlocks.map (fun e => if e.1.2 = ctx
      then (e.1, { e.2 with counters := e.2.counters.map (fun _ => 0), channels := e.2.channels.map (fun _ => 0), resident := false }) else e)
    admitNext := s.admitNext.map (fun e => (e.1, e.2.filter (fun c => decide (c ≠ ctx)))) }

/-- Steps 1 to 4 of R466: the module's stop time is now. -/
def beginTeardown (s : State) (ctx : CtxId) (cmd : Option Nat) (requesters peers : List Fid) : State :=
  let s := zeroCtx (stopCtx s ctx) ctx
  { s with fresh := s.fresh + 1,
           teardowns := s.teardowns ++ [{ no := s.fresh, ctx := ctx, cmd := cmd, requesters := requesters, stopAt := s.now, quiet := false,
                                          peers := peers, acked := [], unconfirmed := [] }] }

/-- The shards that the floor state kept a teardown from zeroising (R342, R344, R466). -/
def retryZeroise (s : State) : State := s.teardowns.foldl (fun s t => if t.quiet then s else freeShards s t.ctx) s

/-- Whether step 4 of R466 still waits at the harbour. -/
def stillHolds (s : State) (ctx : CtxId) : Bool := s.hb.shards.any (fun h => decide (h.key.ctx = ctx))

/-- Step 6 of R466 at the module: the context is undefined at every block, and its queues are disabled. -/
def undefineCtx (s : State) (ctx : CtxId) : State :=
  let mine := s.queues.filter (fun e => decide (e.2.entry.ctx = ctx))
  let s := mine.foldl (fun s e => closeQueue (disableQueue s e.1.1 e.1.2 none 0) e.1.1 e.1.2) s
  { s with
    ctxs := Tab.del s.ctxs ctx
    ctxBlocks := s.ctxBlocks.filter (fun e => decide (e.1.2 ≠ ctx))
    srcStreams := s.srcStreams.filter (fun p => decide (p.1.ctx ≠ ctx))
    homeStreams := s.homeStreams.filter (fun p => decide (p.1.ctx ≠ ctx))
    nonces := s.nonces.filter (fun p => decide (p.1.2.1 ≠ ctx))
    collUnder := s.collUnder.filter (fun p => decide (p.1.2 ≠ ctx)) }

/-- TD_REQ or TD_DONE sent to a module (R466). -/
def sendTd (s : State) (opcode : Byte) (ctx : CtxId) (f : Fid) : State := sendMgmt s (me s) f opcode (toLe 4 ctx.toNat) none

/-! ## Receiving MGMT packets (R82, R86, R619) -/

/-- The ACK of the management die to an MGMT packet (R86). -/
def ackMgmt (s : State) (h : Header) : State := sendAck s (unitMgmt s) h

/-- An MGMT packet of an opcode at the module: at a block's fabric ID it is dropped and counted (R619), whatever its AGE: the spec does not
order this before or after the age check of R80 (DESIGN CHOICE, log 200); at the module's own it takes steps 1 to 5 of R82, its payload is
held to its layout, and `k` goes on with the payload. -/
def takeMgmt (s : State) (opcode : Byte) (p : Packet) (laidOut : Bytes → Bool) (k : State → Bytes → State) : State :=
  let h := p.hdr
  let u := unitMgmt s
  if h.ptype ≠ tyMgmt ∨ h.opcode ≠ opcode then s
  else match blockOfFid s h.dst with
    | some b => countPkt s (unitOfBlock s b) .stray
    | none =>
      if me s ≠ h.dst then s
      else match openSteps s u true p with
        | .over s => s
        | .dead s => s
        | .bad s code _ => sendNak s u h code
        | .ok bs => if laidOut bs then k s bs else refuseMalformed s u h

/-- The one record of the peers that did not confirm a teardown, which names each of them (R467). The DETAIL of R585 has no bytes for them:
in its bytes 25 to 31 stand how many they are and the first three (DESIGN CHOICE, log 165). -/
def logUnconfirmed (s : State) (t : Teardown) : State := match t.unconfirmed with
  | [] => s
  | p :: _ => logNaming s .security wholeModule (toLe 3 t.ctx.toNat ++ [p.2] ++ zeros 5 ++ [BitVec.ofNat 8 t.unconfirmed.length] ++
      fit 6 ((t.unconfirmed.take 3).flatMap (fun q => toLe 2 q.1.toNat))) 467 (t.unconfirmed.map (·.1))

/-- A teardown that is over here and at every peer that answers: the pennant, the record of the unconfirmed peers, and the count (R467). -/
def finishTeardown (s : State) (t : Teardown) : State :=
  if !t.quiet ∨ !t.peers.isEmpty then s
  else
    let s := { s with teardowns := s.teardowns.filter (fun x => decide (x.no ≠ t.no)) }
    let s := countEvent (logUnconfirmed s t) (secBase + 0x3C) secBase 2
    match t.cmd.bind (cmdOf s) with
    | none => s
    | some c => completeCmd s c (match t.unconfirmed with
        | [] => stOk
        | p :: _ => p.2) (BitVec.ofNat 64 t.unconfirmed.length) [] false

/-- Every teardown that may finish. -/
def finishTeardowns (s : State) : State := s.teardowns.foldl finishTeardown s

/-! ## The command (R465) -/

def tdTarget (d : Bytes) : CtxId := BitVec.ofNat 20 (bits (fieldAt d 24 3) 19 0)
def tdCount (d : Bytes) : Nat := bits (fieldAt d 40 2) 12 0

/-- The acceptance check of TEARDOWN. -/
def checkTeardown (s : State) (c : Cmd) : State × Verdict :=
  let d := c.desc
  let clean := decide (bits (fieldAt d 24 3) 23 20 = 0) && reservedZero d 27 28 && (localOp d 28).legal false &&
    decide (bits (fieldAt d 40 2) 15 13 = 0) && reservedZero d 42 64 && decide (tdCount d ≤ 4096) &&
    (decide (tdCount d = 0) || !(localOp d 28).zero)
  if c.ctx ≠ 0 ∨ !clean then (s, protocolV)
  else match ctxOf s (tdTarget d) with
    | none => (s, stateV)
    | some x => if x.teardown then (s, stateV) else (s, .go 0)

/-- The fabric IDs of a peer list. -/
def peerList (bs : Bytes) (n : Nat) : List Fid := (List.range n).map (fun i => BitVec.ofNat 16 (fieldAt bs (2 * i) 2))

/-- The start of TEARDOWN: the list is read and checked, a module without an own fabric ID can ask no peer (R593), TD_REQ goes to every peer, and the steps of R466 begin. -/
def startTeardown (s : State) (c : Cmd) : State :=
  let ctx := tdTarget c.desc
  let n := tdCount c.desc
  match ctxOf s ctx with
  | none => endCmd s c stStateRejected 0
  | some x =>
    if x.teardown then endCmd s c stStateRejected 0
    else match (if n = 0 then Except.ok [] else hostData s (localOp c.desc 28).addr (2 * n)) with
      | .error e => endCmd (noteHostRead s (hostAddr (localOp c.desc 28).addr) (2 * n)) c e.status (if e.status = stFaultUnmapped then faultWord 0 e.kind e.addr else 0)
      | .ok bs =>
        let peers := peerList bs n
        if (ownFid s).any (fun f => peers.contains f) ∨ ¬ peers.Nodup then endCmd s c stProtocol 0
        else if (ownFid s).isNone ∧ peers ≠ [] then endCmd s c stDestLost 0
        else
          let s := setCmd s { c with sentAll := true, tilesLeft := 1 }
          beginTeardown (peers.foldl (fun s f => sendTd s mgTdReq ctx f) s) ctx (some c.id) [] peers

end Sys2Proof.Machine
end

