-- ==== Sys2Proof/Machine/Halyards.lean ====
section
/-!
DEFINITION. Crossbar ports and the shared buffer (R352, R357, R358), and halyards: their admission, clearing and failure,
and the command that watches one (R372 to R375).
-/
namespace Sys2Proof.Machine

open Sys2Proof

/-! ## Crossbar ports (R352) -/

/-- The width of a crossbar port. -/
def portWidth (p : Nat) : Nat := if p < 144 then 1 else if p < 178 then 8 else if p < 186 then 2 else 1

/-- The die of an internal crossbar port, by ordinal. -/
def internalOrd (p : Nat) : Nat :=
  if p < 170 then ordAri (p - 144) else if p < 178 then ordEp (p - 170) else if p < 186 then ordMem (p - 178) else ordMgmt (p - 186)

/-- Whether a crossbar port exists in the variant. -/
def portExists (s : State) (p : Nat) : Bool :=
  if p < 144 then decide (p < portCount s.variant) else decide (p < 188) && decide (dieState s (internalOrd p) ≠ .absent)

/-- Whether a crossbar port takes packets: an UP external port, or an internal port of a die in service (R352, R372). -/
def portServes (s : State) (p : Nat) : Bool :=
  if p < 144 then portUp s p
  else decide (p < 188) && (serves (dieState s (internalOrd p)) || (decide (186 ≤ p) && decide (dieState s (internalOrd p) = .standby)))

/-! ## The buffer (R357, R358, R373) -/

/-- Cells of one plane's buffer. -/
def cellsPerPlane : Nat := 98304

/-- The number of planes in service. -/
def planeCount (s : State) : Nat := (planesInService s).length

/-- The cells of a packet of a length in bytes (R78). -/
def cellsOf (len : Nat) : Nat := ceilDiv len 240

/-- RESERVE of MG_BUF_CFG. -/
def reserveCells (s : State) : Nat := regField s (mgBase + 0x400) 7 0

/-- The cells that an egress port's queue of a class holds. -/
def queueCells (s : State) (p cls : Nat) : Nat :=
  ((s.switch.transits.filter (fun t => decide (t.egress = p) && decide (t.pkt.hdr.cls.toNat = cls) && t.halyard.isNone)).map (·.cells)).foldl (· + ·) 0

/-- The queues that packets of the module stand in. -/
def usedQueues (s : State) : List (Nat × Nat) :=
  (s.switch.transits.filter (fun t => t.halyard.isNone)).foldl (fun l t =>
    if (t.egress, t.pkt.hdr.cls.toNat) ∈ l then l else (t.egress, t.pkt.hdr.cls.toNat) :: l) []

/-- The cells of the shared pool that all queues hold above their reservations. -/
def sharedUsed (s : State) : Nat :=
  ((usedQueues s).map (fun q => queueCells s q.1 q.2 - reserveCells s)).foldl (· + ·) 0

/-- The cells of each plane that one halyard sets aside. -/
def halyardAside (s : State) : Nat := ceilDiv 36 (max (planeCount s) 1)

/-! ## Halyard entries (R390) -/

/-- The ACTIVE halyards. -/
def activeHalyards (s : State) : List Nat :=
  s.regs.filterMap (fun r =>
    if mgBase + 0x90000 ≤ r.1 ∧ r.1 < mgBase + 0xA0000 ∧ r.1 % 16 = 8 ∧ bits r.2.toNat 3 0 = 1 then some ((r.1 - (mgBase + 0x90000)) / 16) else none)

def halyardActive (s : State) (h : Nat) : Bool := decide (regField s (halyardOff h + 8) 3 0 = 1)
def halyardIn (s : State) (h : Nat) : Nat := regField s (halyardOff h + 4) 7 0
def halyardEg (s : State) (h : Nat) : Nat := regField s (halyardOff h + 4) 15 8
def halyardSlots (s : State) (h : Nat) : Nat := regField s (halyardOff h) 26 20
def halyardCtx (s : State) (h : Nat) : CtxId := BitVec.ofNat 20 (regField s (halyardOff h) 19 0)
def halyardFallback (s : State) (h : Nat) : Bool := regBit s (halyardOff h) 30

/-- The free cells of the shared pool (R357, R358, R373). -/
def sharedFree (s : State) : Nat :=
  let p := planeCount s
  let queues := 8 * ((List.range 188).filter (portExists s)).length
  p * cellsPerPlane - p * ceilDiv (reserveCells s) (max p 1) * queues - p * halyardAside s * (activeHalyards s).length - sharedUsed s

/-- The state with a halyard's STATE register set. -/
def setHalyardState (s : State) (h state cause : Nat) : State := setReg s (halyardOff h + 8) (BitVec.ofNat 32 (cause % 16 * 16 + state))

/-- Slots that the ACTIVE halyards of a list take on an end. -/
def slotsOn (s : State) (end_ : Nat → Nat) (p : Nat) (l : List Nat) : Nat :=
  ((l.filter (fun h => decide (end_ h = p))).map (halyardSlots s)).foldl (· + ·) 0

/-- The conditions of R372 for an entry as it would stand; SLOTS outside 1 to 64 is refused (log 52), and so is the lock-step port as EGRESS,
which carries lock-step packets only (DESIGN CHOICE, log 205; R489). -/
def mayAdmit (s : State) (h : Nat) : Bool :=
  let i := halyardIn s h
  let e := halyardEg s h
  let l := (activeHalyards s).filter (fun x => decide (x ≠ h))
  let most := regField s (mgBase + 0x404) 31 24
  inService s && accepted s 5 && portServes s i && portServes s e && !isLsPort s e && decide (1 ≤ halyardSlots s h) && decide (halyardSlots s h ≤ 64) &&
  decide (slotsOn s (halyardIn s) i l + halyardSlots s h ≤ most * portWidth i) &&
  decide (slotsOn s (halyardEg s) e l + halyardSlots s h ≤ most * portWidth e) &&
  decide (planeCount s * halyardAside s ≤ sharedFree s)

/-- A record of a halyard: its number and its egress port. -/
def logHalyard (s : State) (h rule : Nat) : State := logRoute s h (halyardEg s h) rule

/-! ## Watches (R375) -/

/-- RESULT of a watch: the halyard's number and the cause of R378. -/
def watchResult (h cause : Nat) : DWord := BitVec.ofNat 64 (h % 4096 + cause % 16 * 4096)

/-- The watches of a halyard completed with a status. -/
def endWatches (s : State) (h : Nat) (status : Byte) (cause : Nat) : State :=
  let mine := (s.switch.watches.filter (fun w => decide (w.1 = h))).map (·.2)
  let s := { s with switch := { s.switch with watches := s.switch.watches.filter (fun w => decide (w.1 ≠ h)) } }
  mine.foldl (fun s id => match cmdOf s id with
    | none => s
    | some c => completeCmd s c status (watchResult h cause) [] false) s

def hwHalyard (d : Bytes) : Nat := bits (fieldAt d 24 2) 11 0

/-- Whether a watch of a context may begin. -/
def mayWatch (s : State) (ctx : CtxId) (h : Nat) : Bool :=
  halyardActive s h && (decide (ctx = 0) || decide (halyardCtx s h = ctx)) &&
  decide ((s.switch.watches.filter (fun w => decide (w.1 = h))).length < 4)

/-- The acceptance check of HALYARD_WATCH. From context 0 it is legal in a host queue only. -/
def checkWatch (s : State) (c : Cmd) : State × Verdict :=
  if bits (fieldAt c.desc 24 2) 15 12 ≠ 0 ∨ !reservedZero c.desc 26 64 ∨ (c.ctx = 0 ∧ c.queue < 512) ∨ !accepted s 5 then (s, protocolV)
  else if mayWatch s c.ctx (hwHalyard c.desc) then (s, .go 0) else (s, stateV)

/-- The start of HALYARD_WATCH: it sends no packet and waits; `tilesLeft` 1 says so. -/
def startWatch (s : State) (c : Cmd) : State :=
  let h := hwHalyard c.desc
  if !mayWatch s c.ctx h then endCmd s c stStateRejected 0
  else
    let s := setCmd s { c with sentAll := true, tilesLeft := 1 }
    { s with switch := { s.switch with watches := s.switch.watches ++ [(h, c.id)] } }

/-! ## Admission, clearing, failure (R372, R374) -/

/-- A halyard that fails with a cause: its slots and reservation are free, its watches complete, and the collectives that
need it stall (R270, R374). -/
def failHalyard (s : State) (cause h : Nat) : State :=
  halyardLost (endWatches (logHalyard (detBreak (setHalyardState s h 2 cause) detTopology) h 374) h stDestLost cause) h

/-- The halyards of a port that leaves UP, or of an internal port whose die leaves service. -/
def failHalyardsAt (s : State) (p : Nat) : State :=
  (activeHalyards s).foldl (fun s h =>
    if halyardIn s h = p then failHalyard s (if p < 144 then 1 else 3) h
    else if halyardEg s h = p then failHalyard s (if p < 144 then 2 else 3) h
    else s) s

/-- A write of a halyard's CFG. An admission that a condition stops leaves ENABLE 0 and STATE REFUSED; a write of ENABLE 0
clears the halyard; while ENABLE is 1 the other fields keep their values (R372). -/
def writeHalyardCfg (s : State) (h : Nat) (v : Word) : State :=
  let off := halyardOff h
  let v := v &&& 0xC7FFFFFF
  let old := reg s off
  if old.getLsbD 31 then
    let s' := if v &&& 0x47FFFFFF = old &&& 0x47FFFFFF then s else logRegWrite s off v.toNat
    if v.getLsbD 31 then s'
    else endWatches (setHalyardState (setReg s' off (old &&& 0x7FFFFFFF)) h 0 0) h stOk 0
  else if !v.getLsbD 31 then setHalyardState (setReg s off v) h 0 0
  else
    let s := setReg s off (v &&& 0x7FFFFFFF)
    if mayAdmit s h then setHalyardState (setReg s off v) h 1 0
    else logHalyard (setHalyardState s h 3 0) h 372

/-- A write of a halyard's PORTS: discarded while ENABLE is 1. -/
def writeHalyardPorts (s : State) (h : Nat) (v : Word) : State :=
  if regBit s (halyardOff h) 31 then logRegWrite s (halyardOff h + 4) v.toNat
  else setReg s (halyardOff h + 4) (v &&& 0xFFFF)

/-- HALYARD_WATCH (R375). -/
def execHalyardWatch (block queue : Nat) (s : State) : Result := .next (acceptRun s block queue (isOp 0x67) checkWatch startWatch)
/-- A write of ENABLE 1 to MG_HALYARD[h].CFG (R372). -/
def execHalyardEnable (h : Nat) (cfg : Word) (s : State) : Result :=
  .next (if configurable s ∧ h < 4096 then unlessRecovery s (halyardOff h) (cfg ||| 0x80000000) (writeHalyardCfg s h (cfg ||| 0x80000000)) else s)
/-- A write of ENABLE 0 to MG_HALYARD[h].CFG (R372). -/
def execHalyardClear (h : Nat) (s : State) : Result :=
  .next (if configurable s ∧ h < 4096 then
      unlessRecovery s (halyardOff h) (reg s (halyardOff h) &&& 0x7FFFFFFF) (writeHalyardCfg s h (reg s (halyardOff h) &&& 0x7FFFFFFF))
    else s)

end Sys2Proof.Machine
end

