-- ==== Sys2Proof/Machine/Swaps.lean ====
section
/-!
DEFINITION. The end of a planned swap of a crossbar plane, a reduction die or an end-point block: the worn unit leaves service
when it holds nothing any more (R160, R533, R534).
-/
namespace Sys2Proof.Machine

open Sys2Proof

/-! ## When a worn unit has drained -/

/-- A plane that holds no cell. -/
def planeDrained (s : State) (d : Nat) : Bool := s.switch.transits.all (fun t => t.planes.all (fun x => decide (x ≠ d)))

/-- A reduction die whose pieces are CHECKED, whose windows are closed and whose packets are answered. -/
def dieDrained (s : State) (d : Nat) : Bool :=
  s.windows.all (fun w => decide (w.die ≠ d)) && s.reqs.all (fun r => decide (r.unit ≠ unitAri d)) &&
  s.colls.all (fun c => !(s.claims.any (fun x => decide (x.key = c.key) && x.granted && !x.fallback && decide (x.die = d))) ||
    c.chunks.all (fun k => k.pieces.isEmpty))

/-- A block whose contexts are parked, and whose requests, to the fabric and to its accelerator, have all ended (R534, steps 1 and 2). -/
def blockDrained (s : State) (b n : Nat) : Bool :=
  s.ctxBlocks.all (fun e => decide (e.1.1 ≠ b) || !e.2.resident) &&
  s.reqs.all (fun r => decide (r.unit ≠ unitBlock n)) && s.attReqs.all (fun r => decide (r.port / 2 ≠ b))

/-! ## Leaving -/

/-- The contents of a scratch window are gone, the window is offered with ENABLE 0 and OWNER_CTX 0 (R160), and ARM is clear
(R67). -/
def clearScratch (s : State) (d : Nat) : State :=
  setReg (setReg (memZero s (scratchAddr d 0) 8388608) (ariBase d + 0x500) 0) (ariBase d + 0x414) 0

/-- The counters and flags of a block start again when a spare takes its number (R589). -/
def resetEpCounts (s : State) (b : Nat) : State :=
  ((epRegs.filter (fun r => decide (r.w1c ≠ 0) || decide (r.rc ≠ 0))).flatMap
    (fun r => (List.range r.count).map (fun i => r.off + r.stride * i))).foldl (fun s o => setReg s (epBase b + o) 0) s

/-- The claims of a worn die moved to its spare, and their pieces cut again (R533). -/
def moveClaims (s : State) (worn spare : Nat) : State :=
  let s : State := { s with claims := s.claims.map (fun (c : Claim) => if !c.fallback ∧ c.die = worn then { c with die := spare } else c) }
  s.colls.foldl (fun (s : State) (c : Coll) => match planAt s c.key.group c.key.epoch with
    | none => s
    | some p => cutAll s p c.key) s

/-- The spare takes a worn block's number, with its ports, its fabric ID, its streams and its ledger; every context there is
parked, and the die's lines of its contexts go (R534, steps 1, 4 and 5). -/
def moveBlock (s : State) (b spare : Nat) : State :=
  let s := (s.ctxBlocks.filter (fun e => decide (e.1.1 = b) && e.2.resident)).foldl (fun s e => park s b e.1.2) s
  let s := dropKeyCopies s (fun x => decide (x.1 = unitOfBlock s b))
  let s := { s with stalled := s.stalled.map (fun q => if q.unit = unitOfBlock s b then { q with unit := unitBlock spare } else q) }
  let mine := (s.ctxBlocks.filter (fun e => decide (e.1.1 = b))).map (·.1.2)
  let s := cacheInval s b (fun l => decide (l.die = epDie s b) && mine.contains l.ctx)
  let s := dropTables s (fun e => decide (e.block = b))
  resetEpCounts { s with age := { s.age with serving := s.age.serving.set b (some spare) } } b

/-- A swap over: the worn unit is FAILED, and the swap is counted (R531, R533). -/
def endSwap (s : State) (k : UnitKind) (worn : Nat) : State :=
  countSwap (setUnit { s with age := { s.age with swap := none } } k worn .failed 533)

/-- The block number that a physical block serves. -/
def numberOf (s : State) (n : Nat) : Option Nat :=
  (List.range s.age.serving.length).find? (fun b => decide (servedBy s b = some n))

/-- The swap in progress ended where its worn unit has drained. -/
def finishSwap (s : State) : State := match s.age.swap with
  | none => s
  | some (.plane, worn, _) => if planeDrained s worn then endSwap s .plane worn else s
  | some (.reduction, worn, spare) =>
    if dieDrained s worn then
      let s := moveClaims (clearScratch (endSwap s .reduction worn) worn) worn
        (if dieState s (ordAri spare) = .active then spare else (ariInService s).headD spare)
      failHalyardsAt { s with progStore := Tab.del s.progStore worn } (144 + worn)
    else s
  | some (.epb, worn, spare) => (match numberOf s worn with
    | none => endSwap s .epb worn
    | some b => if blockDrained s b worn then endSwap (setUnit (moveBlock s b spare) .epb spare .active 534) .epb worn else s)
  | some _ => s

end Sys2Proof.Machine
end

