-- ==== Sys2Proof/Machine/LockStep.lean ====
section
/-!
DEFINITION. Lock-step (R489 to R495): pairing, the exchange and matching of records, divergence, its capture, and RESUME.
-/
namespace Sys2Proof.Machine

open Sys2Proof

/-! ## What is sent to the partner -/

/-- A lock-step packet on the lock-step port. -/
def sendLs (s : State) (opcode : Byte) (payload : Bytes) : State := match lsPort s with
  | none => s
  | some p => sendMgmt s (me s) (partnerFid s p) opcode payload (some p)

/-- The bytes of a record (R491). -/
def lsRecBytes (r : LsRec) : Bytes := [r.kind] ++ zeros 7 ++ toLe 8 r.key.toNat ++ toLe 8 r.value.toNat

/-- The features that the driver has accepted. -/
def acceptedWords (s : State) : List Word := (List.range 4).map (fun i => reg s (glbBase + 0x20 + 4 * i))

/-- LS_PAIR: the fabric ID, GLB_FEAT_ACCEPTED0 to 3, GLB_ID and ROLE (R490). -/
def sendPair (s : State) : State :=
  sendLs s mgLsPair (toLe 2 (me s).toNat ++ zeros 2 ++ (acceptedWords s).flatMap (fun w => toLe 4 w.toNat) ++
    toLe 4 (reg s glbBase).toNat ++ [BitVec.ofNat 8 s.role.toNat] ++ zeros 7)

/-- Pairing begun, with no record of before kept (R490). -/
def beginPairing (s : State) : State :=
  sendPair { s with ls := { s.ls with state := .pairing, localRecs := [], unsent := [], peerRecs := [], captured := false } }

/-- Records cut into packets of at most 170; `fuel` bounds them. -/
def sendRecords : Nat → List LsRec → State → State
  | 0, _, s => s
  | fuel + 1, l, s =>
    if l.isEmpty then s else sendRecords fuel (l.drop 170) (sendLs s mgLsRecord ((l.take 170).flatMap lsRecBytes))

/-- The records that wait to be sent. -/
def flushRecords (s : State) : State :=
  sendRecords (s.ls.unsent.length + 1) s.ls.unsent { s with ls := { s.ls with unsent := [] } }

/-! ## Capture (R494) -/

/-- The capture buffer in bytes. -/
def capRoom (s : State) : Nat := regField s (mgBase + 0x534) 19 0 * 4096

/-- The IV of a sealed capture, laid out as that of packets (log 14). -/
def capIv (s : State) : Bytes :=
  toLe 12 ((me s).toNat * 2 ^ 80 + 0xFFFF * 2 ^ 64 + 0xF * 2 ^ 60 + s.ls.captures % 2 ^ 32 * 2 ^ 28)

/-- The header of a capture. -/
def capHeader (kind : Byte) (flags : Nat) (ctx : CtxId) (key mine theirs : DWord) (epoch : BitVec 4) (iv : Bytes) (n : Nat) : Bytes :=
  [kind, BitVec.ofNat 8 flags, 0, 0] ++ toLe 4 ctx.toNat ++ toLe 8 key.toNat ++ toLe 8 mine.toNat ++ toLe 8 theirs.toNat ++
    [BitVec.ofNat 8 epoch.toNat, 0, 0, 0] ++ fit 12 iv ++ toLe 8 n ++ zeros 72

/-- The key that seals a capture of a context: that of its send epoch. -/
def capKey (s : State) (c : CtxId) : Option (BitVec 4 × Bytes) :=
  (sendEpoch s c).bind (fun e => (packetKey s c e).map (fun k => (e, k)))

/-- The whole capture of a divergence. Of an ENC context that holds no send epoch no data is captured. -/
def captureBytes (s : State) (kind : Byte) (ctx : CtxId) (key mine theirs : DWord) (data : Bytes) : Bytes :=
  let room := capRoom s
  if ctxEnc s ctx then
    match capKey s ctx with
    | none => capHeader kind (b01 (decide (room < 128))) ctx key mine theirs 0 [] 0
    | some (e, k) =>
      let cut := decide (room < 128 + data.length + 16)
      let h := capHeader kind (b01 cut + 2) ctx key mine theirs e (capIv s) data.length
      h ++ gcmSeal k (capIv s) h data
  else capHeader kind (b01 (decide (room < 128 + data.length))) ctx key mine theirs 0 [] data.length ++ data

/-- The first divergence captured in the host buffer, cut at its end; none is written into a buffer of no pages. -/
def capture (s : State) (kind : Byte) (ctx : CtxId) (key mine theirs : DWord) (data : Bytes) : State :=
  if s.ls.captured then s
  else
    let s' := if capRoom s = 0 then s
      else hostWrite s (pairBase s (mgBase + 0x52C) (mgBase + 0x530) 12) ((captureBytes s kind ctx key mine theirs data).take (capRoom s))
    { s' with ls := { s'.ls with captured := true, captures := s'.ls.captures + 1 } }

/-! ## Divergence (R492, R493) -/

/-- Collectives whose slots lock-step held go on. -/
def pumpAll (s : State) : State := s.colls.foldl (fun s c => pumpColl s c.key) s

/-- A divergence counted: DIVERGE, MG_LS_DIVERGE_CNT and MG_DET_BREAK_CNT (R493, R497). -/
def countDiverge (s : State) : State := detBreak (bump s (mgBase + 0x538)) 4

/-- The local record with a KIND and KEY. -/
def localRec (s : State) (kind : Byte) (key : DWord) : Option LsLocal :=
  s.ls.localRecs.find? (fun x => decide (x.what.kind = kind) && decide (x.what.key = key))

/-- A local record that is matched, or that has diverged, gone: what owned its slots may go on. -/
def dropRec (s : State) (x : LsLocal) : State :=
  let s := { s with ls := { s.ls with localRecs := s.ls.localRecs.erase x } }
  match x.owner with
  | none => s
  | some k => pumpColl s k

/-- What a first divergence brings: FROZEN with a cause, the count, the record, the capture, and every held slot free. -/
def freezeOn (s : State) (cause : BitVec 4) (kind : Byte) (key mine theirs : DWord) : State :=
  let x := localRec s kind key
  let s := countDiverge (lsFreeze s cause)
  let s := logFault s 2 cause.toNat 0 493
  let s := capture s kind ((x.map (·.ctx)).getD 0) key mine theirs ((x.map (·.data)).getD [])
  let s := { s with ls := { s.ls with localRecs := s.ls.localRecs.filter (fun y => decide (some y ≠ x)) } }
  pumpAll (lsRelease s)

/-- A divergence that this module detects: the partner is told (R493, step 1). -/
def diverge (s : State) (cause : BitVec 4) (kind : Byte) (key mine theirs : DWord) : State :=
  freezeOn (sendLs s mgLsDiverge (lsRecBytes { kind := kind, key := key, value := mine } ++ toLe 8 theirs.toNat)) cause kind key mine theirs

/-- A record of the partner that matches a local one, or differs from it: a later divergence is counted only (R492, R493). -/
def matchRec (s : State) (x : LsLocal) (r : LsRec) : State :=
  let s := { s with ls := { s.ls with peerRecs := s.ls.peerRecs.erase r } }
  if x.what.value = r.value then dropRec s x
  else if s.ls.state = .frozen then countDiverge (dropRec s x)
  else diverge s (if x.what.kind = 1 then 1 else 2) x.what.kind x.what.key x.what.value r.value

/-- The local records matched with what the partner has sent. -/
def matchAll (s : State) : State :=
  s.ls.localRecs.foldl (fun s x =>
    if s.ls.state ≠ .comparing ∧ s.ls.state ≠ .frozen then s
    else match s.ls.peerRecs.find? (fun r => decide (r.kind = x.what.kind) && decide (r.key = x.what.key)) with
      | none => s
      | some r => matchRec s x r) s

/-- What lock-step has to do: records sent, and records matched. -/
def lsWork (s : State) : State :=
  if s.ls.state = .comparing then matchAll (flushRecords s) else if s.ls.state = .frozen then matchAll s else s

end Sys2Proof.Machine
end

