-- ==== Sys2Proof/Machine/Start.lean ====
section
/-!
DEFINITION. The start of a held command by its opcode (R176, R179), and what follows any event that may let held work go on.
-/
namespace Sys2Proof.Machine

open Sys2Proof

/-- What starting a command of an opcode does. -/
def startByOpcode (s : State) (c : Cmd) : State :=
  let o := (descHdr c.desc).opcode
  if o = 0x01 then startWrite s c
  else if o = 0x02 ∨ o = 0x03 then startRead s c
  else if o = 0x10 then startAtomic s c
  else if o = 0x20 ∨ o = 0x21 ∨ o = 0x22 then startCopy s c
  else if o = 0x30 then startFence s c
  else if o = 0x31 then startCheck s c
  else if o = 0x40 then startXfer s c
  else if o = 0x41 then startInval s c
  else if o = 0x60 then startLaunch s c
  else if o = 0x61 then startRegroup s c
  else if o = 0x63 then startDefineGroup s c
  else if o = 0x64 then startCloseGroup s c
  else if o = 0x65 then startLoad s c
  else if o = 0x66 then startUnload s c
  else if o = 0x67 then startWatch s c
  else if o = 0x70 then startCreate s c
  else if o = 0x71 then startDestroy s c
  else if o = 0x72 then startBind s c
  else if o = 0x73 then startUnbind s c
  else if o = 0x74 then startSweep s c
  else if o = 0x75 then startCommit s c
  else if o = 0x76 then startAbort s c
  else if o = 0x77 then startQuota s c
  else if o = 0xE0 then startDefine s c
  else if o = 0xE1 then startEnable s c
  else if o = 0xE2 then startDisable s c
  else if o = 0xE4 then startCtrWrite s c
  else if o = 0xE5 then startCtrAdd s c
  else if o = 0xE6 then startCtrRead s c
  else if o = 0xE8 then startTeardown s c
  else startNop s c

/-- A held command started, and completed where it can be at once. One whose rank an invalidate has named since its acceptance resolves
it anew (R123). -/
def startHeld (s : State) (c : Cmd) : State :=
  let r := if c.stale then resolveRank s c.block c.ctx (remoteIsDst (descHdr c.desc).opcode) ((rankOfCmd c.desc).getD 0) else (s, .go c.dst)
  match r.2 with
  | .reject st w => rejectCmd r.1 c st w
  | .go f =>
    let p := markStarted r.1 { c with dst := f, stale := false, rankNo := if c.stale then s.fresh else c.rankNo }
    finishCmd (startByOpcode p.1 p.2) c.id

/-- The requests of a command or an access that were not sent and pass a test given up with a status. -/
def loseStalled (s : State) (mine : SendReq → Bool) (status : Byte) : State :=
  (s.stalled.filter mine).foldl (fun s q =>
    if q ∈ s.stalled then
      reqFail { s with stalled := s.stalled.erase q }
        { id := s.fresh, unit := q.unit, pkt := { hdr := requestHdr s q 0 0, body := [] }, kind := q.kind, cmd := q.cmd,
          aperture := q.aperture, tries := 0, timerUs := 0, deadline := 0, cfg := 0, stale := [] } status
    else s) s

/-- The requests to fabric IDs that are unreachable completed with DEST_LOST, those not yet sent with them (R553). A packet that leaves on a
named port is none of them. -/
def loseUnreachable (s : State) : State :=
  let onPort := fun (r : OutReq) => match r.kind with
    | .mgmt (some _) => true
    | _ => false
  loseStalled (abandonReqs s (fun r => !onPort r && unreachable s r.pkt.hdr.dst) stDestLost stDestLost)
    (fun q => unreachable s q.dst) stDestLost

/-- The requests that wait for a key of a context that has none left completed with KEY_INVALID (R232, R461). -/
def loseKeyless (s : State) : State :=
  loseStalled s (fun q => !keyOk s q.ctx && (srcStream s (reqStream q)).under.isNone) stKeyInvalid

/-- Whether a header travels under an epoch of a context. -/
def underEpoch (c : CtxId) (e : BitVec 4) (h : Header) : Bool := decide (burgeeCtx h = c) && decide (burgeeEpoch h = e)

/-- Whether a packet under an epoch has passed step 3 of R82 and is still to be finished: it is held for order, at the accelerator, or its
answer waits (R462). -/
def finishes (s : State) (c : CtxId) (e : BitVec 4) : Bool :=
  s.homeStreams.any (fun x => x.2.held.any (fun p => underEpoch c e p.hdr)) ||
  s.combIn.any (fun x => underEpoch c e x.1) || s.answerWait.any (fun w => underEpoch c e w.req) ||
  s.attReqs.any (fun r => match r.use with
    | .homeWrite _ _ p => underEpoch c e p.hdr
    | .homeAtomic _ _ p => underEpoch c e p.hdr
    | .homeRead _ p => underEpoch c e p.hdr
    | .result _ m _ => underEpoch c e m.hdr
    | .ownOwner _ m _ => underEpoch c e m.hdr
    | _ => false) || s.ownWait.any (fun w => underEpoch c e w.2.hdr)

/-- The keys of retired epochs that no packet needs any more zeroised (R461, R462). -/
def zeroiseFinished (s : State) : State :=
  { s with sec := { s.sec with keys := s.sec.keys.map (fun p =>
      (p.1, { p.2 with finishing := p.2.finishing.filter (fun k => finishes s p.1 k.1) })) } }

/-- A started command that waits for others: FENCE, XLATE_INVAL, HB_PORT_UNBIND, HB_SET_DESTROY. -/
def wake (s : State) (id : Nat) : State := match cmdOf s id with
  | none => s
  | some c =>
    if c.phase ≠ .started then s
    else if isOp 0x30 c.desc then (if !c.sentAll ∧ fenceMet s c then finishCmd (setCmd s { c with sentAll := true }) id else s)
    else if isOp 0x41 c.desc then (if 0 < c.tilesLeft ∧ invalMet s c then finishCmd (setCmd s { c with tilesLeft := 0 }) id else s)
    else if isOp 0x73 c.desc then (if 0 < c.tilesLeft ∧ unbindMet s c then endUnbind s c else s)
    else if isOp 0x71 c.desc then (if 0 < c.tilesLeft ∧ !s.power.floor then startDestroy s { c with tilesLeft := 0 } else s)
    else s

/-- A held command whose wait is over started where nothing else holds it. A wait that its counter now meets is taken by
COUNTER_WAIT_SATISFIED. -/
def startReady (s : State) (id : Nat) : State := match cmdOf s id with
  | none => s
  | some c => if (!(descHdr c.desc).waitEn || c.waitDone) && mayStart s c then startHeld s c else s

/-- The contexts that are parked with a satisfied wait pending, or with a copy between two tiles, made candidates (R194, log 157). -/
def callParked (s : State) : State :=
  s.cmds.foldl (fun s c =>
    let h := descHdr c.desc
    let wants := betweenTiles c ||
      (decide (c.phase = .accepted) && (!h.waitEn || c.waitDone || decide (h.waitValue ≤ (counterOf s c.block c.ctx h.waitCtr).toNat)))
    if wants && !isResident s c.block c.ctx then makeCandidate s c.block c.ctx else s) s

/-- One round of what an event may have let go on. -/
def settleOnce (s : State) : State :=
  let s := releaseLimited (zeroiseFinished (loseKeyless (loseUnreachable s)))
  let ids := s.cmds.map (·.id)
  let s := ids.foldl wake s
  let s := ids.foldl startReady s
  let s := pumpApertures (s.queues.foldl (fun s e => closeQueue s e.1.1 e.1.2) s)
  let s := retryPrepares (retryZeroise (callParked (finishParks s)))
  let s := retryCommits (resumePieces (retryPlans (tryJoins s)))
  lsWork (finishSwap (finishTeardowns (grantFallbacks s)))

/-- Rounds enough for every command that waits on another. -/
def settleRounds : Nat → State → State
  | 0, s => s
  | n + 1, s => settleRounds n (settleOnce s)

/-- What follows an event that may have let held commands and messages go on, where the module runs (R507, R554). -/
def settle (s : State) : State := if configurable s then settleRounds (s.cmds.length + 1) s else s

/-! ## The rows of queues that let commands go on -/

/-- COUNTER_WAIT_SATISFIED: the counter that the accepted command of a queue waits for has reached its value (R179). -/
def execCounterWaitSatisfied (block queue : Nat) (s : State) : Result :=
  .next (match (cmdsOf s block queue).find? (fun c => decide (c.phase = .accepted) && (descHdr c.desc).waitEn && !c.waitDone) with
    | none => s
    | some c =>
      if !inService s ∨ !waitMet s c then s
      else
        let c := { c with waitDone := true }
        let s := setCmd s c
        settle (if mayStart s c then startHeld s c else s))

/-- TILE_START: the next tile of the copy that a queue has started, where its context is resident and the block admits the tile
(R113, R195). -/
def execTileStart (block queue : Nat) (s : State) : Result :=
  .next (match (cmdsOf s block queue).find? (fun c => betweenTiles c && mayRun s block c.ctx && admitsTile s c) with
    | none => s
    | some c => if inService s ∧ blockRuns s block ∧ !isQuiet s block then settle (finishCmd (nextTileOf s c) c.id) else s)

/-- PENNANT_WRITE: the next pennant of a queue (R186, R187), one that is being disabled at entry to MAINT included (R579). -/
def execPennantWrite (block queue : Nat) (s : State) : Result := .next (if configurable s then settle (writePennant s block queue) else s)

/-- DESCRIPTOR_FETCH: the next hoist of a queue (R173). -/
def execDescriptorFetch (block queue : Nat) (s : State) : Result := .next (if inService s then settle (fetchHoist s block queue) else s)

/-- CONTEXT_ADMIT: the scheduler's attempt at a block's head candidate (R194, R195). -/
def execContextAdmit (block : Nat) (s : State) : Result := .next (if inService s ∧ blockRuns s block then settle (admitContext s block) else s)

/-- A context's quantum at a block expires: it may now be a victim (R194, log 6). -/
def execContextQuantumExpiry (block : Nat) (ctx : CtxId) (s : State) : Result :=
  .next (match atBlock s ctx block with
    | none => s
    | some x => if inService s ∧ blockRuns s block ∧ x.resident then settle (admitContext (advanceTo s (x.admittedAt + quantum s block ctx + 1)) block) else s)

/-! ## Teardown (R465 to R468) -/

/-- TEARDOWN (R465). -/
def execTeardown (block queue : Nat) (s : State) : Result :=
  .next (settle (acceptRun s block queue (isOp 0xE8) checkTeardown startTeardown))

/-- The 400 µs after the stop time are over: step 6 of R466 (log 6). It waits for the zeroising of step 4 (R342). -/
def execTeardownQuietExpiry (ctx : CtxId) (s : State) : Result :=
  .next (match s.teardowns.find? (fun t => inService s && decide (t.ctx = ctx) && !t.quiet && !stillHolds s ctx) with
    | none => s
    | some t =>
      let s := undefineCtx (advanceTo s (t.stopAt + us 400)) ctx
      let s := changeTeardown s (fun x => decide (x.no = t.no)) (fun x => { x with quiet := true })
      settle (t.requesters.foldl (fun s f => sendTd s mgTdDone ctx f) s))

/-- Whether the payload of TD_REQ or TD_DONE keeps its reserved bits zero (R8, R466). -/
def tdOk (bs : Bytes) : Bool := decide (bits (fieldAt bs 0 4) 31 20 = 0)

/-- TD_REQ from a module (R466, R468). -/
def execTdReq (pkt : Packet) (s : State) : Result :=
  .next (if !inService s then s
    else takeMgmt s mgTdReq pkt tdOk (fun s bs =>
      let s := ackMgmt s pkt.hdr
      let ctx := tdCtx bs
      let src := pkt.hdr.src
      match ctxOf s ctx with
      | none => sendTd s mgTdDone ctx src
      | some x =>
        if x.teardown then
          changeTeardown s (fun t => decide (t.ctx = ctx) && !t.quiet && decide (src ∉ t.requesters))
            (fun t => { t with requesters := t.requesters ++ [src] })
        else settle (beginTeardown s ctx none [src] [])))

/-- TD_DONE from a peer (R466, R467). -/
def execTdDone (pkt : Packet) (s : State) : Result :=
  .next (if !inService s then s
    else takeMgmt s mgTdDone pkt tdOk (fun s bs =>
      let s := ackMgmt s pkt.hdr
      settle (changeTeardown s (awaits (tdCtx bs) pkt.hdr.src) (fun t => { t with peers := t.peers.erase pkt.hdr.src }))))

/-- TD_DONE of a peer has not come 100 ms after its ACK (R467, log 6). -/
def execTdDoneTimeout (peer : Fid) (ctx : CtxId) (s : State) : Result :=
  .next (match s.teardowns.find? (fun t => inService s && awaits ctx peer t) with
    | none => s
    | some t => match t.acked.find? (fun p => decide (p.1 = peer)) with
      | none => s
      | some p => settle (unconfirmed (advanceTo s (p.2 + us 100000)) ctx peer stTimeout))

/-! ## Answers and re-sends (R87, R618) -/

/-- An ACK, NAK or RESPONSE that reaches the unit that its TAG names (R618). -/
def execAnswerReceive (unit : Nat) (pkt : Packet) (s : State) : Result :=
  .next (if inService s then settle (takeAnswer s unit pkt) else s)

/-- A request's timer expires (R87, log 6). -/
def execResendTimeout (request : Nat) (s : State) : Result :=
  .next (match s.reqs.find? (fun r => decide (r.id = request)) with
    | none => s
    | some r => if configurable s then settle (retry (advanceTo s r.deadline) r) else s)

end Sys2Proof.Machine
end

