-- ==== Sys2Proof/Machine/Home.lean ====
section
/-!
DEFINITION. The home of packets: steering at the destination (R366), the steps of R82, the sequence rule (R81), atomics
(R212), the ledger (R214 to R217), the homes that are dies (R159, R331, R333, R620), and combined constituents (R220).
-/
namespace Sys2Proof.Machine

open Sys2Proof

/-! ## Which unit is the home (R366) -/

/-- A unit that answers as home. -/
inductive HomeUnit where
  | block (b : Nat)
  | ari (d : Nat)
  | mem (d : Nat)
  | mgmt
  deriving DecidableEq, Repr

/-- INDEX of the first scratch window, of the vote handle and of the first harbour port (R159, R330, R333). -/
def ixScratch : Nat := 0xFFF00
def ixVote : Nat := 0xFFE00
def ixPort : Nat := 0xFF000

/-- The unit for a handle at the module's own fabric ID; a die that is not in service leaves it to the management die. -/
def ownUnit (s : State) (region : Word) : HomeUnit :=
  let i := regionIndex region
  if isWindow region then .mgmt
  else if ixScratch ≤ i then (if ariServes s (i - ixScratch) then .ari (i - ixScratch) else .mgmt)
  else if i = ixVote then (if 0 ∈ memInService s then .mem 0 else .mgmt)
  else if ixPort ≤ i ∧ i < ixPort + 256 then (match (memInService s)[(i - ixPort) % max (memInService s).length 1]? with
    | none => .mgmt
    | some d => .mem d)
  else .mgmt

/-- The home of an ORDERED_REQ or READ_REQ in the module, if it is addressed to the module or one of its blocks. -/
def homeOf (s : State) (h : Header) : Option HomeUnit := match blockOfFid s h.dst with
  | some b => some (.block b)
  | none => if ownFid s = some h.dst then some (ownUnit s h.region) else none

/-- The sending unit number of a home. -/
def homeUnitNo (s : State) : HomeUnit → Nat
  | .block b => unitOfBlock s b
  | .ari d => unitAri d
  | .mem d => unitMem d
  | .mgmt => unitMgmt s

/-- The number under which a home keeps its ledger entries: a block's own, and one beyond all blocks for a die. -/
def ledgerNo : HomeUnit → Nat
  | .block b => b
  | .ari d => 0x100 + d
  | .mem d => 0x200 + d
  | .mgmt => 0x300

/-- Whether a context is defined at a home. -/
def knownAt (s : State) (hu : HomeUnit) (c : CtxId) : Bool := match hu with
  | .block b => definedAt s c b
  | _ => (ctxOf s c).isSome

/-! ## Atomics (R212) -/

/-- The value that an atomic writes for an old value, from its payload; `w` is the operand width in bytes. -/
def atomicNew (op w old : Nat) (payload : Bytes) : Nat :=
  let n := 2 ^ (8 * w)
  let a := leNat (payload.take w)
  if op ≤ 1 then (old + a) % n
  else if op = 2 then a
  else if op = 3 then (if old = a then leNat (slice payload w w) else old)
  else if op = 4 then (if signed (8 * w) a < signed (8 * w) old then a else old)
  else if op = 5 then (if signed (8 * w) old < signed (8 * w) a then a else old)
  else if op = 6 then Nat.land old a
  else if op = 7 then Nat.lor old a
  else if op = 8 then Nat.xor old a
  else fp32Add old a

/-- Operation and operand width of an ordered packet: none for a WRITE. -/
def opOf (h : Header) : Option (Nat × Nat) := if h.opcode = 0x01 then none else (atomicOf h.opcode).map (fun a => (a.1, a.2.1))

/-- Whether an ordered packet is an atomic, and whether it fetches. -/
def isAtomic (h : Header) : Bool := (opOf h).isSome
def isFetching (h : Header) : Bool := match opOf h with
  | none => false
  | some a => fetches a.1

/-- The bytes that a packet touches (R102, step 4). -/
def touched (h : Header) : Nat := match opOf h with
  | none => h.length.toNat
  | some a => if h.ptype = tyRead then h.length.toNat else a.2

/-! ## The ledger (R214 to R217) -/

/-- Entries of a ledger. -/
def ledgerSize : Nat := 65536

/-- Cell-clock cycles of a count of 64 ns units, rounded up. -/
def ageCycles (n : Nat) : Nat := ceilDiv (n * 832) 5

/-- Whether an attach request applies a fetching atomic at a block, whose entry is then to come. -/
def fetchInFlight (b : Nat) (r : AttachReq) : Bool := match r.use with
  | .homeAtomic _ b' p => decide (b' = b) && isFetching p.hdr
  | _ => false

/-- Whether a home's ledger has no entry left, those of atomics in flight and of lost ones that wait counted. -/
def ledgerFull (s : State) (hu : HomeUnit) : Bool :=
  decide (ledgerSize ≤ ledgerUsed s (ledgerNo hu) + (s.attReqs.filter (fetchInFlight (ledgerNo hu))).length +
    (s.lostAtomics.filter (fun l => decide (l.block = ledgerNo hu))).length)

/-- The entry of a packet in a home's ledger. -/
def ledgerFind (s : State) (hu : HomeUnit) (k : StreamKey) (seq : Word) : Option LedgerEntry :=
  s.ledger.find? (fun e => decide (e.block = ledgerNo hu) && decide (e.key = k) && decide (e.seq = seq))

/-- An entry written: kept for 4,000 µs plus the age limit (R215). What finds no entry waits for one before it comes here (R217). -/
def ledgerPut (s : State) (hu : HomeUnit) (k : StreamKey) (seq : Word) (a : LedgerAnswer) : State :=
  { s with ledger := s.ledger ++ [{ block := ledgerNo hu, key := k, seq := seq, answer := a,
                                    freeAt := s.now + us 4000 + ageCycles (regField s (mgBase + 0x200) 15 0) }] }

/-! ## Streams at the home (R81) -/

/-- The key of a packet's ordered stream. -/
def streamOf (h : Header) : StreamKey := { src := h.src, ctx := burgeeCtx h, dst := h.dst, read := false }

/-- A stream at its home; one that the home has not met expects 0. -/
def homeStream (s : State) (k : StreamKey) : HomeStream := Tab.getD s.homeStreams k { expect := 0, held := [], applying := false }

/-- The state with a home's stream replaced. -/
def setHomeStream (s : State) (k : StreamKey) (x : HomeStream) : State := { s with homeStreams := Tab.put s.homeStreams k x }

/-- The bytes that a destination's hold buffer keeps, and its size (R82). The spec does not say what a held packet takes of it: the model
counts its header of 48 B and its payload (DESIGN CHOICE, log 179). -/
def heldBytes (s : State) (dst : Fid) : Nat :=
  ((s.homeStreams.filter (fun e => decide (e.1.dst = dst))).map (fun e => (e.2.held.map (fun p => 48 + p.body.length)).foldl (· + ·) 0)).foldl (· + ·) 0
def holdBuffer : Nat := 4 * 2 ^ 20

/-- A packet of a stream answered: a constituent of a combined packet counts toward the die's ACK (R220). -/
def markAnswered (s : State) (k : StreamKey) (seq : Word) : State :=
  let l := s.combIn.map (fun e => (e.1, e.2.filter (fun c => !(decide (c.1 = k) && decide (c.2 = seq)))))
  let done := (s.combIn.zip l).filter (fun p => !p.1.2.isEmpty && p.2.2.isEmpty)
  let s := { s with combIn := l.filter (fun e => !e.2.isEmpty) }
  done.foldl (fun (s : State) p => match blockOfFid s p.1.1.dst with
    | some b => sendAck s (unitOfBlock s b) p.1.1
    | none => sendAck s (homeUnitNo s (ownUnit s p.1.1.region)) p.1.1) s

/-- The head of a stream gone, applied or refused: E passes it (R81, R138). -/
def passHead (s : State) (k : StreamKey) : State :=
  let x := homeStream s k
  setHomeStream s k { expect := x.expect + 1, held := x.held.filter (fun p => decide (p.hdr.seq ≠ x.expect)), applying := false }

/-- The head of a stream dropped without an answer: E stays (R433). -/
def dropHead (s : State) (k : StreamKey) : State :=
  let x := homeStream s k
  setHomeStream s k { x with held := x.held.filter (fun p => decide (p.hdr.seq ≠ x.expect)), applying := false }

/-- The head of a stream under way. -/
def holdHead (s : State) (k : StreamKey) : State := setHomeStream s k { homeStream s k with applying := true }

/-! ## Step 7 (R102, R159, R331, R333) -/

/-- What step 7 finds: a NAK code, or where the packet applies. -/
inductive Target where
  | refuse (code : Byte)
  | bytes (addr : Nat)
  | attach (block addr : Nat)
  | vote
  | port (p : Nat)
  deriving DecidableEq, Repr

/-- A malformed region or window entry that a packet meets, counted and recorded (R102, step 3, R585). -/
def logTable (s : State) (b : Nat) (h : Header) (code : Byte) : State := logEntry s b (burgeeCtx h) h.region h.src code

/-- Step 7 at a block; the state counts what R102 and R130 count. -/
def checkBlock (s : State) (b : Nat) (h : Header) (acc : Access) (plain : Bool) : State × Target :=
  let l := regionLook s b (burgeeCtx h) h.region h.offset.toNat (touched h) acc plain
  let s := warm s b l
  match l.out with
  | .error .noRegion => (countRegionRefuse (forgetOwner s b h.region) b, .refuse nakNoRegion)
  | .error .unread => (countRegionRefuse s b, .refuse nakNoRegion)
  | .error .malformed => (logTable (countRegionRefuse s b) b h nakNoRegion, .refuse nakNoRegion)
  | .error .owner => (s, .refuse nakOwnerMismatch)
  | .error (.page k) => (if k = .badEntry then countBadEntry (countRegionRefuse s b) b else countRegionRefuse s b, .refuse nakNoRegion)
  | .ok a => (s, if spineRole s then .bytes (hostAddr a) else .attach b (accAddr b a))

/-- Bytes of a scratch window. -/
def scratchBytes : Nat := 8388608

/-- Step 7 at a scratch window (R159). -/
def checkScratch (s : State) (d : Nat) (h : Header) (plain : Bool) : State × Target :=
  let cfg := ariBase d + 0x500
  if !inService s ∨ !regBit s cfg 21 ∨ regionGen h.region ≠ 0 ∨ scratchBytes < h.offset.toNat + touched h then
    (countRefuse s (unitAri d), .refuse nakNoRegion)
  else if regField s cfg 19 0 ≠ (burgeeCtx h).toNat ∧ !(plain && regBit s cfg 20) then (s, .refuse nakOwnerMismatch)
  else (s, .bytes (scratchAddr d h.offset.toNat))

/-- Step 7 at the vote handle (R333): 64 bytes written by a memory die of another module, to a harbour that the driver turned on
(R313). -/
def voteOk (s : State) (h : Header) : Bool :=
  harbourOn s && decide (h.ptype = tyOrdered) && decide (h.opcode = 0x01) && decide (h.length = 64) && decide (h.region = voteHandle) &&
  decide (ownFid s ≠ some h.src) && decide (0x50 ≤ h.tag.toNat / 512) && decide (h.tag.toNat / 512 < 0x58)

/-- Step 7 at a harbour port (R331). -/
def checkPort (s : State) (p : Nat) (h : Header) : Target :=
  let x := hbPortOf s p
  match x.bound.bind (shardOf s) with
  | none => .refuse nakNoRegion
  | some sh =>
    let w := arrayWidth sh x.array
    let off := h.offset.toNat
    let n := touched h
    if !inService s ∨ !harbourOn s ∨ h.region.toNat ≠ portHandle p x.binds then .refuse nakNoRegion
    else if off % w ≠ 0 ∨ sh.elements * w < off + n then .refuse nakNoRegion
    else if !(List.range (ceilDiv n w)).all (fun i => onShard sh (off / w + i)) then .refuse nakNoRegion
    else if burgeeCtx h ≠ sh.key.ctx then .refuse nakOwnerMismatch
    else if (if x.unload then decide (h.ptype = tyRead) else decide (h.ptype = tyOrdered) && decide (h.opcode = 0x01)) then .port p
    else .refuse nakNoRegion

/-- Step 7 of R82 at a home. -/
def checkHome (s : State) (hu : HomeUnit) (h : Header) (acc : Access) (plain : Bool) : State × Target :=
  match hu with
  | .block b => checkBlock s b h acc plain
  | .ari d => checkScratch s d h plain
  | .mem d =>
    let t := if regionIndex h.region = ixVote then (if voteOk s h then Target.vote else .refuse nakNoRegion)
      else checkPort s (regionIndex h.region - ixPort) h
    (if t = .refuse nakNoRegion then countRefuse s (unitMem d) else s, t)
  | .mgmt => (s, .refuse nakNoRegion)

/-! ## Applying an ordered packet -/

/-- What applying the head of a stream comes to: it is over, it is under way, it waits for a ledger entry
or for a busy line, or it is dropped unanswered. -/
inductive Applied where
  | over (s : State)
  | under (s : State)
  | waits
  | busy
  | dropped (s : State)

/-- The refusal of an ordered packet: an atomic's takes a ledger entry (R138, R214). -/
def refuseOrdered (s : State) (hu : HomeUnit) (k : StreamKey) (h : Header) (code : Byte) : State :=
  let s := if isAtomic h then ledgerPut s hu k h.seq (.nak code) else s
  markAnswered (passHead (sendNak s (homeUnitNo s hu) h code) k) k h.seq

/-- An ordered packet that was performed: the answer, and a ledger entry where it fetched (R82, R214). -/
def answerOrdered (s : State) (hu : HomeUnit) (k : StreamKey) (h : Header) (old : Bytes) : State :=
  let u := homeUnitNo s hu
  let s := if isFetching h then sendResponse (ledgerPut s hu k h.seq (.response old)) u h 0x02 old else sendAck s u h
  markAnswered (passHead s k) k h.seq

/-- An ordered packet applied to memory that the home reaches at once. -/
def applyBytes (s : State) (hu : HomeUnit) (k : StreamKey) (p : Packet) (a : Nat) : State := match opOf p.hdr with
  | none => answerOrdered (memWrite s a p.body) hu k p.hdr []
  | some (op, w) =>
    let old := memRead s a w
    answerOrdered (memWrite s a (toLe w (atomicNew op w (leNat old) p.body))) hu k p.hdr old

/-- An ordered packet applied to host memory in the spine role: writes are posted, and an atomic reads first (R431, R567). -/
def applyHost (s : State) (hu : HomeUnit) (k : StreamKey) (p : Packet) (a : Nat) : State := match opOf p.hdr with
  | none => answerOrdered (if hostLinkOk s then memWrite s a p.body else s) hu k p.hdr []
  | some (_, w) => match hostRead s a w with
    | .error _ => refuseOrdered (countRefuse (noteHostRead s a w) (homeUnitNo s hu)) hu k p.hdr nakNoRegion
    | .ok _ => applyBytes s hu k p a

/-- A vote record whose reserved bytes are not zero refused as malformed (R8, R333). -/
def refuseRecord (s : State) (hu : HomeUnit) (k : StreamKey) (h : Header) : State :=
  refuseOrdered (logBadPacket (countPkt s (homeUnitNo s hu) .malformed) h) hu k h nakMalformed

/-- Whether an atomic at host memory meets a read error, which refuses it (R431, R567). -/
def hostReadFails (s : State) (h : Header) (a : Nat) : Bool := spineRole s && decide (a < spaceSize) && isAtomic h &&
  (match hostRead s a (touched h) with
   | .error _ => true
   | .ok _ => false)

/-- The translations that a packet's access comes through at a block: its entry, and the page (R123). -/
def pagesUsed (s : State) (b : Nat) (h : Header) (acc : Access) (plain : Bool) : List CacheTag :=
  entryTag h.region :: (regionLook s b (burgeeCtx h) h.region h.offset.toNat (touched h) acc plain).pages

/-- The last attach request sent notes the translations that it came through. -/
def noteUse (s : State) (pages : List CacheTag) : State :=
  { s with attReqs := s.attReqs.dropLast ++ (s.attReqs.getLast?.map (fun r => { r with pages := pages })).toList }

/-- Whether a write or an atomic of a packet is outstanding on the attach link for a 256 B line that `n` bytes at `a` touch (R221). -/
def lineBusy (s : State) (a n : Nat) : Bool := s.attReqs.any (fun r =>
  (match r.use with
   | .homeWrite _ _ _ => true
   | .homeAtomic _ _ _ => true
   | _ => false) &&
  decide (r.addr / 256 ≤ (a + n - 1) / 256) && decide (a / 256 ≤ (r.addr + r.len - 1) / 256))

/-- The head of a stream taken through steps 7 and 8 of R82. What would write a ledger entry waits while there is none (R217). A packet that finds one of its lines busy waits until all of them are
free: the serializer works on whole packets (R221; DESIGN CHOICE, log 192). -/
def applyHead (s : State) (hu : HomeUnit) (k : StreamKey) (p : Packet) : Applied :=
  let h := p.hdr
  let t := checkHome s hu h (if isAtomic h then accBoth else accWrite) false
  let full := isAtomic h && ledgerFull s hu
  match t.2 with
  | .refuse code => if full then .waits else .over (refuseOrdered t.1 hu k h code)
  | .bytes a =>
    if full && (isFetching h || hostReadFails s h a) then .waits
    else .over (if spineRole s ∧ a < spaceSize then applyHost t.1 hu k p a else applyBytes t.1 hu k p a)
  | .attach b a =>
    if full && isFetching h then .waits
    else if lineBusy s a (touched h) then .busy
    else
      let r := match opOf h with
        | none => attachSend t.1 b opMwr 0 a p.body p.body.length (.homeWrite k b p)
        | some (op, w) => attachSend t.1 b opMatomic (BitVec.ofNat 8 (op + 16 * (Nat.log2 w - 2))) a p.body w (.homeAtomic k b p)
      (match r with
       | none => .dropped t.1
       | some s' => .under (noteUse s' (pagesUsed s b h (if isAtomic h then accBoth else accWrite) false)))
  | .vote =>
    if !voteRecordOk p.body then .over (refuseRecord t.1 hu k h)
    else
      let m := voteMsgOf h.src (h.tag.toNat / 512) (burgeeCtx h) p.body
      let s := answerOrdered t.1 hu k h []
      .over (if voteLegal s m then onVoteRecord s m else s)
  | .port q =>
    if s.power.floor then .under t.1
    else
      let x := hbPortOf s q
      (match x.bound.bind (shardOf s) with
       | none => .over (refuseOrdered t.1 hu k h nakNoRegion)
       | some sh =>
         let w := arrayWidth sh x.array
         .over (answerOrdered (writeStep t.1 sh x.array (localOf sh (h.offset.toNat / w)) p.body) hu k h []))

/-- The packets of a stream applied in order as far as they go (R81); `fuel` bounds how many. -/
def advance (k : StreamKey) : Nat → State → State
  | 0, s => s
  | fuel + 1, s =>
    let x := homeStream s k
    if x.applying then s
    else match x.held.find? (fun p => decide (p.hdr.seq = x.expect)) with
      | none => s
      | some p => match homeOf s p.hdr with
        | none => dropHead s k
        | some hu => match applyHead s hu k p with
          | .over s => advance k fuel s
          | .under s => holdHead s k
          | .waits => s
          | .busy => if k ∈ s.lineWait then s else { s with lineWait := s.lineWait ++ [k] }
          | .dropped s => dropHead s k

/-- A stream advanced over everything that it holds. -/
def advanceAll (s : State) (k : StreamKey) : State := advance k ((homeStream s k).held.length + 1) s

/-- The streams whose next packet waited for a line tried again, in the order in which they reached it (R221). -/
def resumeLines (s : State) : State := s.lineWait.foldl advanceAll { s with lineWait := [] }

/-! ## The sequence rule (R81, R216, R217) -/

/-- An atomic that arrives as a duplicate (R216). -/
def duplicateAtomic (s : State) (hu : HomeUnit) (k : StreamKey) (h : Header) : State :=
  let u := homeUnitNo s hu
  match ledgerFind s hu k h.seq with
  | some e => (match e.answer with
    | .response old => sendResponse s u h 0x02 old
    | .nak code => sendNak s u h code
    | .silent => s)
  | none =>
    if !isFetching h then sendAck s u h
    else match hu with
      | .block b => logCommand (bump s (epBase b + 0xC08)) b 0 h.opcode 0 h.tag.toNat 0 216
      | _ => s

/-- Step 6 of R82 for a packet whose payload is `p.body`. -/
def sequence (s : State) (hu : HomeUnit) (p : Packet) : State :=
  let h := p.hdr
  let k := streamOf h
  let u := homeUnitNo s hu
  let x := homeStream s k
  let d := (h.seq - x.expect).toNat
  if 2 ^ 31 ≤ d then
    let s := countPkt s u .dup
    markAnswered (if isAtomic h then duplicateAtomic s hu k h else sendAck s u h) k h.seq
  else if 256 ≤ d then markAnswered (logBadPacket (sendNak s u h nakBadSequence) h) k h.seq
  else if x.held.any (fun q => decide (q.hdr.seq = h.seq)) then s
  else if 1 ≤ d ∧ isFetching h ∧ ledgerFull s hu then
    (match hu with
     | .block b => markAnswered (sendNak (bump s (epBase b + 0xC04)) u h nakBusy) k h.seq
     | _ => markAnswered (sendNak s u h nakBusy) k h.seq)
  else if 1 ≤ d ∧ holdBuffer < heldBytes s h.dst + 48 + p.body.length then markAnswered (sendNak s u h nakBusy) k h.seq
  else advanceAll (setHomeStream s k { x with held := x.held ++ [p] }) k

/-! ## Steps 1 to 5 of R82 -/

/-- A request taken through the steps of R82 before the sequence rule; `k` goes on with its payload. A block that took a
fabric ID over drops everything until its quiet time is over (R85). -/
def openRequest (s : State) (hu : HomeUnit) (p : Packet) (k : State → Bytes → State) : State :=
  let h := p.hdr
  let u := homeUnitNo s hu
  let quiet := match hu with
    | .block b => isQuiet s b
    | _ => false
  if quiet then s
  else match openSteps s u (knownAt s hu (burgeeCtx h)) p with
    | .over s => s
    | .dead s => s
    | .bad s code _ => sendNak s u h code
    | .ok payload => k s payload

/-- An ORDERED_REQ at its home. -/
def orderedAt (s : State) (p : Packet) : State := match homeOf s p.hdr with
  | none => s
  | some hu => openRequest s hu p (fun s payload => sequence s hu { p with body := payload })

/-! ## Reads (R82, R149) -/

/-- READ_DATA of a harbour port: NO_REGION where a line is poisoned (R317). -/
def readPort (s : State) (u : Nat) (h : Header) (q : Nat) : State :=
  let x := hbPortOf s q
  match x.bound.bind (shardOf s) with
  | none => sendNak s u h nakNoRegion
  | some sh =>
    let w := arrayWidth sh x.array
    let n := h.length.toNat
    match readLocal s sh x.array x.version (n / segLen + 2) (localOf sh (h.offset.toNat / w)) (ceilDiv n w) with
    | none => sendNak (countRefuse (countPoisonRead s) u) u h nakNoRegion
    | some bs => sendResponse s u h 0x01 (bs.take n)

/-- A READ or VREAD served. -/
def serveRead (s : State) (hu : HomeUnit) (p : Packet) : State :=
  let h := p.hdr
  let u := homeUnitNo s hu
  let t := checkHome s hu h accRead true
  match t.2 with
  | .refuse code => sendNak t.1 u h code
  | .bytes a =>
    if spineRole s ∧ a < spaceSize then (match hostRead t.1 a h.length.toNat with
      | .error _ => sendNak (countRefuse (noteHostRead t.1 a h.length.toNat) u) u h nakNoRegion
      | .ok bs => sendResponse t.1 u h 0x01 bs)
    else sendResponse t.1 u h 0x01 (memRead t.1 a h.length.toNat)
  | .attach b a => match attachSend t.1 b opMrd 0 a [] h.length.toNat (.homeRead b p) with
    | none => t.1
    | some s' => noteUse s' (pagesUsed s b h accRead true)
  | .vote => sendNak t.1 u h nakNoRegion
  | .port q => readPort t.1 u h q

/-- A READ_REQ at its home. -/
def readAt (s : State) (p : Packet) : State := match homeOf s p.hdr with
  | none => s
  | some hu => openRequest s hu p (fun s _ => serveRead s hu p)

/-! ## Held work let go on -/

/-- The atomics whose ports were lost and that wait for an entry take those that are free, in order: each holds no answer, and E passes
it (R433, log 176). -/
def enterLost (s : State) : State :=
  s.lostAtomics.foldl (fun s l =>
    if ledgerSize ≤ ledgerUsed s l.block then { s with lostAtomics := s.lostAtomics ++ [l] }
    else passHead (ledgerPut s (.block l.block) l.key l.seq .silent) l.key) { s with lostAtomics := [] }

/-- Every stream tried again: where a ledger entry has freed, or the floor state has ended (R217, R342). -/
def resumeStreams (s : State) : State := s.homeStreams.foldl (fun s e => advanceAll s e.1) (enterLost s)

/-- The port writes that the floor state held applied (R342). -/
def releasePorts (s : State) : State :=
  s.homeStreams.foldl (fun s e =>
    let x := homeStream s e.1
    let isPort := x.held.any (fun p => decide (p.hdr.seq = x.expect) && decide (ixPort ≤ regionIndex p.hdr.region) &&
      decide (regionIndex p.hdr.region < ixPort + 256) && decide (ownFid s = some p.hdr.dst))
    if x.applying && isPort then advanceAll (setHomeStream s e.1 { x with applying := false }) e.1 else s) s

/-! ## The combined addition (R219, R220) -/

/-- Constituent `i` of a COMBINED_ADD payload as the packet that its source sent. -/
def constituent (h : Header) (payload : Bytes) (i : Nat) : Packet :=
  let wide := decide (bits (fieldAt payload 2 1) 3 0 = 1)
  let at_ := 16 * i + 16
  let w := if wide then 8 else 4
  { hdr := { h with ptype := tyOrdered, opcode := if wide then 0x30 else 0x20, length := BitVec.ofNat 13 w,
                    flags := flagsOf true (flagEnc h) false false true false,
                    src := BitVec.ofNat 16 (fieldAt payload (at_ + 8) 2), tag := BitVec.ofNat 16 (fieldAt payload (at_ + 10) 2),
                    seq := BitVec.ofNat 32 (fieldAt payload (at_ + 12) 4), cnonce := 0 },
    body := slice payload at_ w }

/-- Whether a COMBINED_ADD's payload is laid out as R219 gives it. -/
def combinedOk (h : Header) (payload : Bytes) : Bool :=
  let n := fieldAt payload 0 2
  decide (h.ptype = tyColl) && decide (h.opcode = 0x10) && decide (2 ≤ n) && decide (n ≤ 255) &&
  decide (payload.length = 16 + 16 * n) && decide (fieldAt payload 2 1 ≤ 1) && reservedZero payload 3 16

/-- A COMBINED_ADD at its home: each constituent takes steps 6 to 8 of R82 as its own packet, and the die's ACK follows the
last answer (R220). -/
def combinedAt (s : State) (p : Packet) : State :=
  let h := p.hdr
  match homeOf s { h with ptype := tyOrdered } with
  | none => s
  | some hu => openRequest s hu p (fun s payload =>
    let u := homeUnitNo s hu
    if !combinedOk h payload then refuseMalformed s u h
    else
      let l := (List.range (fieldAt payload 0 2)).map (constituent h payload)
      let others := s.combIn.filter (fun e => decide (invariantHdr e.1 ≠ invariantHdr h))
      let s := { s with combIn := others ++ [(h, l.map (fun q => (streamOf q.hdr, q.hdr.seq)))] }
      l.foldl (fun s q => sequence s hu q) s)

/-! ## The rows -/

/-- An ORDERED_REQ reaches its home (R82). -/
def execOrderedReqReceive (pkt : Packet) (s : State) : Result :=
  .next (if configurable s ∧ pkt.hdr.ptype = tyOrdered then settle (orderedAt s pkt) else s)
/-- A READ_REQ reaches its home (R82). -/
def execReadReqReceive (pkt : Packet) (s : State) : Result :=
  .next (if configurable s ∧ pkt.hdr.ptype = tyRead then settle (readAt s pkt) else s)
/-- A COMBINED_ADD reaches its home (R220). -/
def execCombinedAdd (pkt : Packet) (s : State) : Result :=
  .next (if configurable s ∧ pkt.hdr.ptype = tyColl ∧ pkt.hdr.opcode = 0x10 then settle (combinedAt s pkt) else s)
/-- A ledger entry's time is over: it is free, and what waited for an entry goes on (R215, R217, log 6). -/
def execLedgerEntryExpiry (block : Nat) (key : StreamKey) (seq : Word) (s : State) : Result :=
  let mine := fun (e : LedgerEntry) => inService s && decide (e.block = block) && decide (e.key = key) && decide (e.seq = seq)
  .next (match s.ledger.find? mine with
    | none => s
    | some e =>
      let s := advanceTo s e.freeAt
      settle (resumeStreams { s with ledger := s.ledger.filter (fun x => !mine x) }))

end Sys2Proof.Machine
end

