-- ==== Sys2Proof/Machine/Attach.lean ====
section
/-!
DEFINITION. What completions of the accelerator and the loss of an attach port do to the work they serve (R424, R431, R433,
R623), and ownership transfers at their home (R153 to R155, R159).
-/
namespace Sys2Proof.Machine

open Sys2Proof

/-! ## Bytes in the accelerator's memory -/

/-- The bytes of a write that failed: an undefined mix of old and new values (R424). -/
def mixBytes (n : Nat) (old new : Bytes) : Bytes :=
  (old.zip new).zipIdx.map (fun p => if (Config.freeByte n p.2).getLsbD 0 then p.1.2 else p.1.1)

/-- The memory that a failed MWR leaves. -/
def mixWrite (s : State) (a : Nat) (bs : Bytes) : State :=
  let f := takeFresh s
  memWrite f.2 a (mixBytes f.1 (memRead s a bs.length) bs)

/-- How a completion's status says that a request failed: a reserved status counts as ABORT (R431). -/
def cplFail (status : Byte) : Option MemFaultKind :=
  if status = 0 then none else if status = 1 then some .unmapped else if status = 2 then some .poison else some .abort

/-- A request that is no longer outstanding. -/
def dropAtt (s : State) (p : Nat) (t : BitVec 16) : State :=
  { s with attReqs := s.attReqs.filter (fun r => !(decide (r.port = p) && decide (r.tag = t))) }

/-! ## The home side (R82, R431, R433) -/

/-- Whether the packet is the one that its home is applying. -/
def isHead (s : State) (k : StreamKey) (p : Packet) : Bool :=
  let x := homeStream s k
  x.applying && decide (x.expect = p.hdr.seq) && x.held.any (fun q => decide (q.hdr = p.hdr))

/-- The refusal of a packet that its home was applying. An atomic that finds the ledger full is taken up again when an entry frees
(R214, R217). -/
def failHead (s : State) (b : Nat) (k : StreamKey) (p : Packet) : State :=
  if isAtomic p.hdr ∧ ledgerSize ≤ ledgerUsed s b then
    resumeLines (if isHead s k p then setHomeStream s k { homeStream s k with applying := false } else s)
  else if isHead s k p then advanceAll (resumeLines (refuseOrdered (countRegionRefuse s b) (.block b) k p.hdr nakNoRegion)) k
  else resumeLines s

/-- The answer to a packet that its home has applied; what waited for its lines comes before the rest of its stream (R221). -/
def doneHead (s : State) (b : Nat) (k : StreamKey) (p : Packet) (old : Bytes) : State :=
  if isHead s k p then advanceAll (resumeLines (answerOrdered s (.block b) k p.hdr old)) k else resumeLines s

/-- What an atomic writes for an old value, as bytes. -/
def atomicBytes (p : Packet) (old : Bytes) : Bytes := match opOf p.hdr with
  | none => old
  | some (op, w) => toLe w (atomicNew op w (leNat old) p.body)

/-! ## Local data of a command, RESULTs -/

/-- A write of a command that failed: it starts no later tile (R116). The write of an atomic's BUF names operand 0 (R210). -/
def failWrite (s : State) (id va : Nat) (k : MemFaultKind) : State := match cmdOf s id with
  | none => s
  | some c =>
    let p := failLocal s c (if isOp 0x10 c.desc then 0 else 1) (localDataFail va k)
    finishCmd (setCmd p.1 { p.2 with sentAll := true }) id

/-- A RESULT acknowledged once the accelerator has all of it (R140, R260). -/
def resultDone (s : State) (id : Nat) (m : CollMsg) : State := match cmdOf s id with
  | none => s
  | some c => if s.attReqs.any (fun r => decide (resultOf r.use = some m)) then s else sendAck s (unitOfBlock s c.block) m.hdr

/-- A RESULT that cannot be written ends the launch. -/
def resultFail (s : State) (id va : Nat) (m : CollMsg) (k : MemFaultKind) : State :=
  match cmdOf s id, s.launches.find? (fun l => decide (l.cmd = id)), groupOf s m.group with
  | some c, some l, some g => memberAbort (sendAck s (unitOfBlock s c.block) m.hdr) g.plan l c 1 (localDataFail va k)
  | _, _, _ => s

/-- A queue's notification, once every pennant that it covers is in the accelerator's memory (R187, R430). -/
def pennantDone (s : State) (b q : Nat) : State := match queueOf s b q with
  | none => s
  | some x => if s.attReqs.any (writesPennant b q) then s else notify s b q x

/-! ## Ownership transfers (R154) -/

/-- The sender's context and the region of a transfer. -/
def ownCtx (m : OwnMsg) : CtxId := burgeeCtx m.hdr
def ownRegion (m : OwnMsg) : Word := m.hdr.region

/-- The bytes of OWNER_CTX in an entry, and where they stand (R101). -/
def ownerAt : Nat := 2
def ownerBytes (c : CtxId) : Bytes := toLe 3 c.toNat

/-- The region-cache entry of a handle dropped at its block: the next check reads the new owner (R154, step 5). -/
def dropEntry (s : State) (b : Nat) (region : Word) : State :=
  dropTables s (fun e => decide (e.block = b) && decide (e.tag = entryTag region))

/-- Whether a transfer of a region waits for the accelerator at a block. -/
def ownInFlight (s : State) (b : Nat) (region : Word) : Bool := s.attReqs.any (fun r => match r.use with
  | .ownOwner b' x _ => decide (b' = b) && decide (ownRegion x = region)
  | _ => false)

/-- Whether a block already has a transfer under its source and TAG: a re-send of it is answered with it. -/
def ownHeld (s : State) (b : Nat) (m : OwnMsg) : Bool :=
  let same := fun (x : OwnMsg) => decide (x.hdr.src = m.hdr.src) && decide (x.hdr.tag = m.hdr.tag)
  s.ownWait.any (fun w => decide (w.1 = b) && same w.2) || s.attReqs.any (fun r => match r.use with
    | .ownOwner b' x _ => decide (b' = b) && same x
    | _ => false)

/-- The owner that a block holds for a region from a transfer on (R104, R154). -/
def holdOwner (s : State) (b : Nat) (region : Word) (o : Option CtxId) : State :=
  { s with owners := match o with
      | none => Tab.del s.owners (b, region)
      | some c => Tab.put s.owners (b, region) c }

/-- A transfer whose write of OWNER_CTX succeeded: the new owner stands, the region-cache entry goes, and the ACK (R154, step 5). -/
def ownWritten (s : State) (b : Nat) (m : OwnMsg) : State :=
  sendAck (dropEntry (holdOwner s b (ownRegion m) none) b (ownRegion m)) (unitOfBlock s b) m.hdr

/-- A transfer to a region or a window of a block; one that finds another under way for its region waits its turn (R155). The spec
gives the transfer no rule for duplicates: a re-send that comes while the first is held is answered with it, and one that comes later is
a new transfer, which the old owner's then meets OWNER_MISMATCH (DESIGN CHOICE, log 177). -/
def ownBlock (s : State) (b : Nat) (m : OwnMsg) : State :=
  let u := unitOfBlock s b
  let region := ownRegion m
  let no := sendNak (countRegionRefuse s b) u m.hdr nakNoRegion
  if ownHeld s b m then s
  else if ownInFlight s b region then { s with ownWait := s.ownWait ++ [(b, m)] }
  else match entryPlace s b region with
    | none => no
    | some (host, a) => match (entryLook s b region).out with
      | .error .malformed => sendNak (logTable (countRegionRefuse s b) b m.hdr nakNoRegion) u m.hdr nakNoRegion
      | .error .noRegion => sendNak (countRegionRefuse (forgetOwner s b region) b) u m.hdr nakNoRegion
      | .error _ => no
      | .ok e =>
        if !m.forced ∧ e.owner ≠ ownCtx m then sendNak s u m.hdr nakOwnerMismatch
        else if host then
          (if hostLinkOk s then ownWritten (hostWrite s (a + ownerAt) (ownerBytes m.newOwner)) b m else no)
        else (attachSend s b opMwr 0 (accAddr b (a + ownerAt)) (ownerBytes m.newOwner) 3 (.ownOwner b m e.owner)).getD no

/-- The transfers of a region that waited for the one that has ended, in the order in which they came (R155). -/
def ownNext (s : State) (b : Nat) (region : Word) : State :=
  let mine := fun (w : Nat × OwnMsg) => decide (w.1 = b) && decide (ownRegion w.2 = region)
  (s.ownWait.filter mine).foldl (fun s w => ownBlock s b w.2) { s with ownWait := s.ownWait.filter (fun w => !mine w) }

/-- A transfer whose write of OWNER_CTX failed: the block keeps the old owner and answers NO_REGION (R154, step 5). -/
def ownFailed (s : State) (b : Nat) (m : OwnMsg) (old : CtxId) : State :=
  sendNak (countRegionRefuse (holdOwner s b (ownRegion m) (some old)) b) (unitOfBlock s b) m.hdr nakNoRegion

/-- A transfer of a scratch window (R159): a forced one also sets ENABLE. -/
def ownScratch (s : State) (d : Nat) (m : OwnMsg) : State :=
  let cfg := ariBase d + 0x500
  let u := unitAri d
  if !inService s ∨ regionGen (ownRegion m) ≠ 0 ∨ (!regBit s cfg 21 ∧ !m.forced) then sendNak (countRefuse s u) u m.hdr nakNoRegion
  else if !m.forced ∧ regField s cfg 19 0 ≠ (ownCtx m).toNat then sendNak s u m.hdr nakOwnerMismatch
  else
    let s := setRegField s cfg 19 0 m.newOwner.toNat
    sendAck (if m.forced then setRegField s cfg 21 21 1 else s) u m.hdr

/-- Whether the header of a transfer breaks R74; its type, its opcode and its length the spec does not give (log 40). -/
def ownMalformed (s : State) (h : Header) : Bool :=
  !(decide (h.version = 1) && decide (h.rsvd = 0) && !h.flags.getLsbD 6 &&
    ((ctxOf s (burgeeCtx h)).isNone || flagEnc h == ctxEnc s (burgeeCtx h)))

/-- A transfer at its home: the steps of R82 but the sequence rule, for it is no packet of a stream (log 40), and what its home does (R153,
R154, R159). -/
def ownAt (s : State) (hu : HomeUnit) (m : OwnMsg) : State :=
  let u := homeUnitNo s hu
  match headSteps s u (decide (ownCtx m = 0) || knownAt s hu (ownCtx m)) (ownMalformed s m.hdr) m.hdr with
  | some (.over s) => s
  | some (.dead s) => s
  | some _ => s
  | none =>
    if flagEnc m.hdr ∧ !m.tagOk then sendNak (countPkt s u .tagFail) u m.hdr nakTagFail
    else if !m.crcOk then sendNak (countPkt s u .crcFail) u m.hdr nakCrcFail
    else match hu with
      | .block b => ownBlock s b m
      | .ari d => ownScratch s d m
      | .mem d => sendNak (countRefuse s (unitMem d)) (unitMem d) m.hdr nakNoRegion
      | .mgmt => sendNak s (unitMgmt s) m.hdr nakNoRegion

/-- OWNERSHIP_TRANSFER_APPLY: a block that took a fabric ID over drops it until its quiet time is over (R85). -/
def execOwnershipTransferApply (msg : OwnMsg) (s : State) : Result :=
  .next (match (if configurable s then homeOf s msg.hdr else none) with
    | none => s
    | some hu =>
      let quiet := match hu with
        | .block b => isQuiet s b
        | _ => false
      if quiet then s else settle (ownAt s hu msg))

/-! ## Completions -/

/-- What a request's completion does, the request no longer outstanding: a status, and the data of a read or an atomic. -/
def complete (s : State) (r : AttachReq) (status : Byte) (data : Bytes) : State :=
  let s := dropAtt s r.port r.tag
  match cplFail status with
  | none =>
    let w := memWrite s r.addr r.data
    (match r.use with
     | .homeWrite k b p => doneHead w b k p []
     | .homeAtomic k b p => doneHead (memWrite s r.addr (atomicBytes p data)) b k p data
     | .homeRead b p => sendResponse s (unitOfBlock s b) p.hdr 0x01 data
     | .localWrite id _ => finishCmd w id
     | .result id m _ => resultDone w id m
     | .pennant b q _ => closeQueue (pennantDone w b q) b q
     | .spent b q => closeQueue (pennantDone w b q) b q
     | .headWb b q => closeQueue w b q
     | .ownOwner b m _ => ownNext (ownWritten w b m) b (ownRegion m)
     | .lostRead _ => s)
  | some k =>
    let w := if r.op = opMwr then mixWrite s r.addr r.data else s
    (match r.use with
     | .homeWrite key b p => failHead w b key p
     | .homeAtomic key b p => failHead w b key p
     | .homeRead b p => sendNak (countRegionRefuse s b) (unitOfBlock s b) p.hdr nakNoRegion
     | .localWrite id va => failWrite w id va k
     | .result id m va => resultFail w id va m k
     | .pennant b q no => failQueue (pennantDone (spendPennant w b q no) b q) b q 623
     | .spent b q => closeQueue (pennantDone w b q) b q
     | .headWb b q => failQueue w b q 623
     | .ownOwner b m old => ownNext (ownFailed w b m old) b (ownRegion m)
     | .lostRead _ => s)

/-! ## The loss of a port (R433) -/

/-- What happens to one request whose port left UP. A write at the home is not performed and E stays; an atomic was applied
once or not at all, and its ledger entry holds no answer; local data takes the ABORT column. -/
def loseAtt (s : State) (r : AttachReq) : State := match r.use with
  | .homeWrite k _ p => resumeLines (if isHead s k p then dropHead (dropAtt s r.port r.tag) k else dropAtt s r.port r.tag)
  | .homeAtomic k b p =>
    let f := takeFresh (dropAtt s r.port r.tag)
    let old := memRead s r.addr r.len
    let s := memWrite f.2 r.addr (if (Config.freeByte f.1 0).getLsbD 0 then atomicBytes p old else old)
    if !isHead s k p then resumeLines s
    else if ledgerFull s (.block b) then
      resumeLines { s with lostAtomics := s.lostAtomics ++ [{ block := b, key := k, seq := p.hdr.seq }] }
    else advanceAll (resumeLines (passHead (ledgerPut s (.block b) k p.hdr.seq .silent) k)) k
  | .homeRead _ _ => dropAtt s r.port r.tag
  | _ => complete s r 3 []

/-- The requests outstanding on a port that left UP. -/
def loseRequests (s : State) (p : Nat) : State :=
  (s.attReqs.filter (fun r => decide (r.port = p))).foldl
    (fun s r => if s.attReqs.any (fun x => decide (x.port = p) && decide (x.tag = r.tag)) then loseAtt s r else s) s

end Sys2Proof.Machine
end

