-- ==== Sys2Proof/Machine/Switch.lean ====
section
/-!
DEFINITION. The switch core: steering and routing (R363 to R367), meters and admission (R357 to R361), spray and reassembly
(R354 to R356), egress order (R362), the age and hop rules (R80), hotspots and rate limits (R369 to R371), halyard packets
(R373, R374) and sampling (R376, R377).
-/
namespace Sys2Proof.Machine

open Sys2Proof

/-! ## Packets on the crossbar -/

/-- Bytes of a packet, and those that LENGTH and ENC promise (R68). -/
def packetLen (p : Packet) : Nat := 48 + p.body.length
def promisedLen (h : Header) : Nat := 48 + payloadLen h + 8 + 16 * b01 (flagEnc h)

/-- The plane number of a cell that is not on its way. -/
def noPlane : Nat := 255

/-- The class of a packet, as a number. -/
def clsOf (h : Header) : Nat := h.cls.toNat

/-- The flow of a packet, one of the 4,096 that an ingress port tells apart (R365). -/
def flowNo (h : Header) : Nat := Config.flowHash h.src.toNat h.dst.toNat (burgeeCtx h).toNat % 4096

/-- Whether a packet follows its flow. -/
def followsFlow (h : Header) : Bool := decide (h.ptype = tyOrdered) || decide (h.ptype = tyAck) || decide (h.ptype = tyNak)

/-- The state with the switch core's record replaced. -/
def setSwitch (s : State) (w : Switch) : State := { s with switch := w }

/-- A packet that has left the module: its flow's idle gap begins (R365). -/
def leaveTransit (s : State) (t : Transit) : State :=
  let same := fun (x : Transit) => decide (x.ingress = t.ingress) && decide (x.packetId = t.packetId)
  let flows := if followsFlow t.pkt.hdr
    then s.switch.flows.map (fun f => if f.ingress = t.ingress ∧ f.hash = flowNo t.pkt.hdr then { f with lastAt := s.now } else f)
    else s.switch.flows
  setSwitch s { s.switch with transits := s.switch.transits.filter (fun x => !same x), flows := flows }

/-- A packet's record replaced. -/
def setTransit (s : State) (t : Transit) : State :=
  setSwitch s { s.switch with transits := s.switch.transits.map (fun x =>
    if x.ingress = t.ingress ∧ x.packetId = t.packetId then t else x) }

/-! ## Meters (R360) -/

/-- The tokens that a bucket gains in a cycle for each 64th of the link rate: 200 GB/s is 1,000/13 bytes a cycle. -/
def tokenRate (s : State) (p : Nat) : Nat := 1000 * (if p < 144 ∧ runsX4 (portOf s p) then 1 else 2) * portWidth p

/-- A port's meter of a class as it stands now; buckets that never metered are full. -/
def meterNow (s : State) (p cls : Nat) : Meter :=
  let w := reg s (ptBase p + 0x720 + 4 * cls)
  let depth := bits w.toNat 16 8 * 1024 * 1664
  match s.switch.meters.find? (fun m => decide (m.port = p) && decide (m.cls = cls)) with
  | none => { port := p, cls := cls, cir := depth, pir := depth, at_ := s.now }
  | some m =>
    let gain := fun (rate : Nat) => (s.now - m.at_) * tokenRate s p * rate
    { m with cir := min depth (m.cir + gain (bits w.toNat 23 17)), pir := min depth (m.pir + gain (bits w.toNat 30 24)), at_ := s.now }

/-- A packet metered: the state, and its colour. -/
def meter (s : State) (p : Nat) (pkt : Packet) : State × BitVec 2 :=
  let cls := clsOf pkt.hdr
  let arrived : BitVec 2 := if pkt.hdr.colour = 3 then 2 else pkt.hdr.colour
  if !regBit s (ptBase p + 0x720 + 4 * cls) 31 then (s, arrived)
  else
    let m := meterNow s p cls
    let n := packetLen pkt * 1664
    let c := decide (n ≤ m.cir)
    let q := decide (n ≤ m.pir)
    let found : BitVec 2 := if c && q then 0 else if q then 1 else 2
    let m' := { m with cir := if c then m.cir - n else m.cir, pir := if q then m.pir - n else m.pir }
    let others := s.switch.meters.filter (fun x => !(decide (x.port = p) && decide (x.cls = cls)))
    (setSwitch s { s.switch with meters := m' :: others }, if arrived.toNat < found.toNat then found else arrived)

/-! ## Steering (R219, R366) and routing (R363 to R365, R367) -/

/-- Where a packet goes: a crossbar port, or nowhere. -/
inductive Route where
  | to (port : Nat)
  | noRoute
  deriving DecidableEq, Repr

/-- The port of the management die that owns the host interface. -/
def mgmtPort (s : State) : Nat := 186 + s.host.owner % 2

/-- An internal port, or the management die's where its die is not in service. -/
def internal (s : State) (p : Nat) : Nat := if portServes s p then p else mgmtPort s

/-- The reduction die at which a COMBINABLE packet meets the others for its target (R219). -/
def combineDie (s : State) (h : Header) : Option Nat :=
  let l := ariInService s
  l[Config.combineHash h.dst.toNat (burgeeCtx h).toNat h.region.toNat h.offset.toNat % max l.length 1]?

/-- Whether a packet is one that R219 combines: it is steered unless it comes from a reduction die. A module without an own fabric ID
could build no COMBINED_ADD (R593). -/
def combines (s : State) (p : Nat) (h : Header) : Bool :=
  accepted s 6 && (ownFid s).isSome && flagCombinable h && !(decide (144 ≤ p) && decide (p < 170))

/-- The internal port for a packet to the module's own fabric ID. -/
def ownRoute (s : State) (h : Header) : Route :=
  let request := decide (h.ptype = tyOrdered) || decide (h.ptype = tyRead) || (decide (h.ptype = tyColl) && decide (h.opcode = 0x10))
  let i := regionIndex h.region
  if request then
    if !isWindow h.region ∧ (i = ixVote ∨ (ixPort ≤ i ∧ i < ixPort + 256)) ∧ memCount s.variant = 0 then .noRoute
    else match ownUnit s h.region with
      | .ari d => .to (internal s (144 + d))
      | .mem d => .to (internal s (178 + d))
      | _ => .to (mgmtPort s)
  else if h.ptype = tyColl then
    let k := hdrKey h
    let chunk := bits h.offset.toNat 39 20
    if h.opcode = coDone then (if (ariInService s).isEmpty then .to (mgmtPort s) else .to (internal s (144 + dieFor s k 0)))
    else if onFallback s k then .to (internal s (170 + epDie s (fallbackBlock s k.group)))
    else if (ariInService s).isEmpty then .to (mgmtPort s)
    else .to (internal s (144 + collDie s k chunk))
  else .to (mgmtPort s)

/-- The cells that a port's queue of a class holds, for the choice of a member. -/
def memberLoad (s : State) (cls p : Nat) : Nat := queueCells s p cls

/-- The member with the fewest cells queued, ties broken by the hash of R365. -/
def leastMember (s : State) (h : Header) (l : List Nat) : Option Nat :=
  let best := (l.map (memberLoad s (clsOf h))).foldl min ((l.map (memberLoad s (clsOf h))).headD 0)
  let tied := l.filter (fun p => decide (memberLoad s (clsOf h) p = best))
  tied[Config.tieHash h.src.toNat h.dst.toNat h.burgee.toNat % max tied.length 1]?

/-- Whether a flow of an ingress port still keeps its member. -/
def flowHolds (s : State) (f : Flow) : Bool :=
  s.switch.transits.any (fun t => decide (t.ingress = f.ingress) && followsFlow t.pkt.hdr && decide (flowNo t.pkt.hdr = f.hash)) ||
  decide (s.now ≤ f.lastAt + us (regField s (mgBase + 0x404) 23 16))

/-- The member of a group that a packet from an ingress port takes. -/
def chooseMember (s : State) (p : Nat) (h : Header) (l : List Nat) : Option Nat :=
  if followsFlow h then
    match s.switch.flows.find? (fun f => decide (f.ingress = p) && decide (f.hash = flowNo h)) with
    | some f => if f.member ∈ l ∧ flowHolds s f then some f.member else leastMember s h l
    | none => leastMember s h l
  else leastMember s h l

/-- The flow's member remembered. -/
def keepFlow (s : State) (p : Nat) (h : Header) (member : Nat) : State :=
  if followsFlow h then
    let others := s.switch.flows.filter (fun f => !(decide (f.ingress = p) && decide (f.hash = flowNo h)))
    setSwitch s { s.switch with flows := others ++ [{ ingress := p, hash := flowNo h, member := member, lastAt := s.now }] }
  else s

/-- The route of a packet from an ingress port (R363, R366, R367). -/
def routeOf (s : State) (p : Nat) (h : Header) : Route :=
  match (if combines s p h then combineDie s h else none) with
  | some d => .to (144 + d)
  | none =>
    if ownFid s = some h.dst then ownRoute s h
    else match blockNamed s h.dst with
      | some b => .to (internal s (170 + epDie s b))
      | none => match (routeMembers s h.dst).bind (fun l => chooseMember s p h (liveMembers s h.dst l)) with
        | none => .noRoute
        | some e => .to e

/-! ## Sampling (R376, R377) -/

/-- The 160 bytes of a sample record, PHASE clear. -/
def sampleBytes (s : State) (i : Nat) (egressDir : Bool) (ingress egress : Nat) (pkt : Packet) (arrived : BitVec 2) (arrival : Nat) : Bytes :=
  fit 128 (headerBytes pkt.hdr ++ pkt.body) ++
  [BitVec.ofNat 8 (i + 4 * b01 egressDir), BitVec.ofNat 8 ingress, BitVec.ofNat 8 egress,
   BitVec.ofNat 8 (clsOf pkt.hdr + 8 * arrived.toNat + 32 * pkt.hdr.colour.toNat)] ++
  toLe 2 (packetLen pkt) ++ toLe 3 (arrival % 2 ^ 24) ++ zeros 7 ++ toLe 8 (s.now - s.serviceAt) ++ zeros 8

/-- The cells of a sample record on its way to the management die, which find room in the shared pool or not. The spec does not say which
room: the model asks the shared pool, and the record then reaches the ring at once (DESIGN CHOICE, log 182). -/
def sampleFits (s : State) : Bool := decide (cellsOf 160 ≤ sharedFree s)

/-- One session counts a packet at a port and a direction, and samples every Nth (R376). -/
def sampleOne (egressDir : Bool) (port ingress egress : Nat) (pkt : Packet) (arrived : BitVec 2) (arrival : Nat) (s : State) (i : Nat) : State :=
  let cfg := reg s (mgBase + 0x4B0 + 8 * i)
  if cfg.getLsbD 31 && (cfg.getLsbD 30 == egressDir) && decide (bits cfg.toNat 23 16 = port) && cfg.getLsbD (clsOf pkt.hdr) then
    let n := regField s (mgBase + 0x4B4 + 8 * i) 23 0 + 1
    let seen := s.switch.mirrorSeen.getD i 0 + 1
    let s := setSwitch s { s.switch with mirrorSeen := s.switch.mirrorSeen.set i (if n ≤ seen then 0 else seen) }
    if seen < n then s
    else if ringOpen s mirrorRing && sampleFits s then ringPut s mirrorRing (sampleBytes s i egressDir ingress egress pkt arrived arrival)
    else countEvent s (mgBase + 0x420) (mgBase + 0x410) 2
  else s

/-- The four sessions at a packet. -/
def sample (s : State) (egressDir : Bool) (port ingress egress : Nat) (pkt : Packet) (arrived : BitVec 2) (arrival : Nat) : State :=
  [0, 1, 2, 3].foldl (sampleOne egressDir port ingress egress pkt arrived arrival) s

/-! ## Hotspots (R369, R370) -/

/-- The cells that a queue holds for a destination. -/
def cellsFor (s : State) (e cls : Nat) (f : Fid) : Nat :=
  ((s.switch.transits.filter (fun t => decide (t.egress = e) && decide (clsOf t.pkt.hdr = cls) && t.halyard.isNone &&
    decide (t.pkt.hdr.dst = f))).map (·.cells)).foldl (· + ·) 0

/-- Whether a fabric ID is hot at a queue. -/
def isHot (s : State) (e cls : Nat) (f : Fid) : Bool :=
  let q := queueCells s e cls
  regBit s (mgBase + 0x408) 31 && decide (regField s (mgBase + 0x408) 15 0 < q) && decide (q ≤ 4 * cellsFor s e cls f)

/-- The notification for a packet that its queue admitted; a module without an own fabric ID sends none (R593). -/
def notifyHot (s : State) (e : Nat) (h : Header) : State :=
  if (ownFid s).isNone then s else
  let gap := us (regField s (mgBase + 0x408) 30 24)
  let early := match Tab.get? s.switch.cnSent (h.src, h.dst) with
    | none => false
    | some t => decide (s.now < t + gap)
  if (!isHot s e (clsOf h) h.dst || early) then s
  else
    let s := setSwitch s { s.switch with cnSent := Tab.put s.switch.cnSent (h.src, h.dst) s.now }
    bump (sendMgmtOnce s (me s) h.src 0x40 (toLe 2 h.dst.toNat ++ toLe 2 (clsOf h) ++ toLe 4 (queueCells s e (clsOf h)))) (mgBase + 0x41C)

/-! ## Admission (R357, R361) -/

/-- What admission decides. -/
inductive Admit where
  | reserved
  | shared
  | refuse
  deriving DecidableEq, Repr

/-- The conditions of R357 for `c` cells in a queue. -/
def admission (s : State) (e cls c : Nat) : Admit :=
  let q := queueCells s e cls
  let r := reserveCells s
  let f := sharedFree s
  if q + c ≤ r then .reserved
  else if (q - r + c) * 8 ≤ 2 ^ regField s (mgBase + 0x400) 10 8 * f ∧ c ≤ f then .shared
  else .refuse

/-- The draw of a drop profile at a queue's depth (R361). -/
def redDrop (s : State) (cls : Nat) (colour : BitVec 2) (depth : Nat) : State × Bool :=
  let w := (reg s (mgBase + 0x448 + 4 * (3 * cls + min colour.toNat 2))).toNat
  let lo := bits w 11 0 * 16
  let hi := bits w 23 12 * 16
  if hi ≤ depth then (s, true)
  else if depth < lo then (s, false)
  else
    let d := draw s 4
    (d.2, decide (leNat d.1 * 256 * (hi - lo) < bits w 31 24 * (depth - lo) * 2 ^ 32))

/-! ## Ingress -/

/-- The planes of a packet's cells (R354). -/
def sprayPlanes (s : State) (h c : Nat) : List Nat :=
  let l := planesInService s
  (List.range c).map (fun i => l.getD ((h + i) % max l.length 1) noPlane)

/-- The cells on a plane of the packets that a test picks. -/
def cellsOn (s : State) (d : Nat) (f : Transit → Bool) : Nat :=
  (((s.switch.transits.filter f).map (fun t => (t.planes.filter (fun x => decide (x = d))).length))).foldl (· + ·) 0

/-- Whether a packet stands in a queue, or travels on a halyard. -/
def sameQueue (e cls : Nat) (hal : Option Nat) (t : Transit) : Bool := match hal with
  | some n => decide (t.halyard = some n)
  | none => decide (t.egress = e) && decide (clsOf t.pkt.hdr = cls) && t.halyard.isNone

/-- The cells that each plane sets aside for each queue (R358). -/
def queueAside (s : State) : Nat := ceilDiv (reserveCells s) (max (planeCount s) 1)

/-- The cells of a plane's shared pool that queues and halyards hold above what the plane sets aside for them. -/
def sharedOn (s : State) (d : Nat) : Nat :=
  ((usedQueues s).map (fun q => cellsOn s d (sameQueue q.1 q.2 none) - queueAside s)).foldl (· + ·) 0 +
  ((activeHalyards s).map (fun n => cellsOn s d (sameQueue 0 0 (some n)) - halyardAside s)).foldl (· + ·) 0

/-- The cells of a plane's shared pool (R358, R373). -/
def sharedPlane (s : State) : Nat :=
  cellsPerPlane - queueAside s * (8 * ((List.range 188).filter (portExists s)).length) - halyardAside s * (activeHalyards s).length

/-- Whether a plane has a free cell for the next cell of a packet, of which it has taken `mine`: one that it sets aside for the packet's
queue or halyard, or one of its shared pool (R358). That a halyard's cells beyond a plane's part of its reservation may take the pool is the
model's choice (DESIGN CHOICE, log 204). -/
def planeRoom (s : State) (e cls : Nat) (hal : Option Nat) (d mine : Nat) : Bool :=
  let aside := if hal.isSome then halyardAside s else queueAside s
  let held := cellsOn s d (sameQueue e cls hal)
  decide (planeCells s d + mine < cellsPerPlane) &&
  (decide (held + mine < aside) || decide (sharedOn s d + (held + mine - max held aside) < sharedPlane s))

/-- The planes of a packet's cells, `noPlane` for each that its plane has no room for; `held` are the planes of the cells before. -/
def placeCells (room : Nat → Nat → Bool) : List Nat → List Nat → List Nat
  | _, [] => []
  | held, d :: l =>
    if d ≠ noPlane ∧ room d (held.filter (fun x => decide (x = d))).length then d :: placeCells room (d :: held) l
    else noPlane :: placeCells room held l

/-- A packet admitted: its PACKET_ID, its cells on their planes, the last one withheld where the tail was bad, and those for which their
plane has no free cell dropped and counted (R354, R356, R358). -/
def launchPacket (s : State) (p e : Nat) (pkt : Packet) (arrived : BitVec 2) (hal : Option Nat) (bad : Bool) : State :=
  let c := cellsOf (promisedLen pkt.hdr)
  let k := Tab.getD s.switch.admitted p 0
  let h := pkt.hdr.hint.toNat + (if hal.isSome then 0 else k)
  let wanted := (sprayPlanes s h c).zipIdx.map (fun q => if bad ∧ q.2 + 1 = c then noPlane else q.1)
  let planes := placeCells (planeRoom s e (clsOf pkt.hdr) hal) [] wanted
  let id := Tab.getD s.switch.nextPid p 0
  let t : Transit :=
    { ingress := p, packetId := id, egress := e, pkt := pkt, cells := c, missing := List.range c, got := [], arrival := s.now,
      firstAt := none, planes := planes, halyard := hal, arrivedColour := arrived, complete := false, doneAt := 0, doneNo := 0 }
  let s := setSwitch s { s.switch with
    nextPid := Tab.put s.switch.nextPid p ((id + 1) % 2 ^ 20)
    admitted := if hal.isSome then s.switch.admitted else Tab.put s.switch.admitted p (k + 1)
    transits := if planes.all (fun d => decide (d = noPlane)) then s.switch.transits else s.switch.transits ++ [t] }
  let s := (wanted.zip planes).foldl (fun s q => if q.1 = q.2 then s else bump s (xbBase q.1 + 0x100)) s
  sample s false p p e pkt arrived s.now

/-- An ordinary packet: metered, routed, and admitted or dropped. -/
def ingressOrdinary (s : State) (p : Nat) (pkt : Packet) (bad : Bool) : State :=
  let m := meter s p pkt
  let s := m.1
  let arrived := pkt.hdr.colour
  let pkt := { pkt with hdr := { pkt.hdr with colour := m.2 } }
  let h := pkt.hdr
  match routeOf s p h with
  | .noRoute => logRoute (countEvent s (mgBase + 0x414) (mgBase + 0x410) 0) h.dst.toNat p 367
  | .to e =>
    let s := if e < 144 then keepFlow s p h e else s
    match admission s e (clsOf h) (cellsOf (promisedLen h)) with
    | .refuse => bumpPort s e 0x60C
    | .reserved => notifyHot (launchPacket s p e pkt arrived none bad) e h
    | .shared =>
      let d := redDrop s (clsOf h) h.colour (queueCells s e (clsOf h))
      if d.2 then bumpPort d.1 e 0x610 else notifyHot (launchPacket d.1 p e pkt arrived none bad) e h

/-- How a packet with flag HALYARD travels (R373, R374). -/
inductive HalPath where
  | on (h : Nat)
  | ordinary
  | drop
  deriving DecidableEq, Repr

def halPath (s : State) (p : Nat) (h : Header) : HalPath :=
  let n := h.halyard.toNat
  if !flagHalyard h then .ordinary
  else if halyardActive s n then (if halyardIn s n = p ∧ halyardCtx s n = burgeeCtx h then .on n else .drop)
  else if halyardFallback s n then .ordinary
  else .drop

/-- The cells that a halyard holds, of its reservation (R373). -/
def halyardCells (s : State) (n : Nat) : Nat :=
  ((s.switch.transits.filter (fun t => decide (t.halyard = some n))).map (·.cells)).foldl (· + ·) 0

/-- A packet at an ingress port, after its HOPS and its length. An internal sender waits where its halyard is full. A port that does not
serve has no slots for what a halyard brings (R352). -/
def ingressPath (s : State) (p : Nat) (pkt : Packet) (bad : Bool) : State := match halPath s p pkt.hdr with
  | .drop => countEvent s (mgBase + 0x418) (mgBase + 0x410) 1
  | .ordinary => ingressOrdinary s p pkt bad
  | .on n =>
    if !portServes s (halyardEg s n) ∨ isLsPort s (halyardEg s n) then s
    else if planeCount s * halyardAside s < halyardCells s n + cellsOf (promisedLen pkt.hdr) then
      (if p < 144 then bumpPort s (halyardEg s n) 0x60C else s)
    else launchPacket s p (halyardEg s n) pkt pkt.hdr.colour (some n) bad

/-- Whether a port takes packets now. -/
def takesPackets (s : State) (p : Nat) : Bool :=
  configurable s && !(planesInService s).isEmpty && portServes s p && !(decide (p < 144) && attachMode s p)

/-- A packet at an ingress port (R80, R356, R399). -/
def ingressPacket (s : State) (p : Nat) (pkt : Packet) : State :=
  if !takesPackets s p then s
  else if 32 ≤ pkt.hdr.hops.toNat then bumpPort s p 0x604
  else if 144 ≤ p then ingressPath s p pkt false
  else if s.mode = .maint ∧ pkt.hdr.ptype ≠ tyMgmt then bumpPort s p 0x618
  else if packetLen pkt = promisedLen pkt.hdr then ingressPath s p pkt false
  else if regBit s (ptBase p + 0x700) (clsOf pkt.hdr) then ingressPath (bumpPort s p 0x618) p pkt true
  else bumpPort s p 0x618

/-! ## Cells (R78) -/

/-- Bits 80:0 of a cell's header. -/
def cellHead (c : CellMsg) : Nat :=
  c.pos.toNat + c.packetId.toNat * 2 ^ 2 + c.index.toNat * 2 ^ 22 + c.ingress.toNat * 2 ^ 27 + c.egress.toNat * 2 ^ 35 +
  c.cls.toNat * 2 ^ 43 + c.colour.toNat * 2 ^ 46 + c.valid.toNat * 2 ^ 48 + b01 c.halyard * 2 ^ 56 + c.arrival.toNat * 2 ^ 57

/-- A cell with the fields that 81 bits spell. -/
def withHead (c : CellMsg) (n : Nat) : CellMsg :=
  { c with pos := BitVec.ofNat 2 (bits n 1 0), packetId := BitVec.ofNat 20 (bits n 21 2), index := BitVec.ofNat 5 (bits n 26 22),
           ingress := BitVec.ofNat 8 (bits n 34 27), egress := BitVec.ofNat 8 (bits n 42 35), cls := BitVec.ofNat 3 (bits n 45 43),
           colour := BitVec.ofNat 2 (bits n 47 46), valid := BitVec.ofNat 8 (bits n 55 48), halyard := decide (bits n 56 56 = 1),
           arrival := BitVec.ofNat 24 (bits n 80 57) }

/-- A cell after its error correction: none where its header shows an uncorrectable error. -/
def correctCell (c : CellMsg) : Option CellMsg :=
  if c.ecc = Config.cellEcc (cellHead c) then some c else (Config.cellFix (cellHead c) c.ecc).map (withHead c)

/-- The POS of cell `i` of `n`. -/
def posOf (i n : Nat) : BitVec 2 := if n = 1 then 0 else if i = 0 then 1 else if i + 1 = n then 3 else 2

/-- Cell `i` of a packet in the module, as its ingress port sends it. -/
def cellOf (t : Transit) (i : Nat) : CellMsg :=
  let bs := ((headerBytes t.pkt.hdr ++ t.pkt.body).drop (240 * i)).take 240
  let c : CellMsg :=
    { plane := t.planes.getD i noPlane, pos := posOf i t.cells, packetId := BitVec.ofNat 20 t.packetId, index := BitVec.ofNat 5 i,
      ingress := BitVec.ofNat 8 t.ingress, egress := BitVec.ofNat 8 t.egress, cls := t.pkt.hdr.cls, colour := t.pkt.hdr.colour,
      valid := BitVec.ofNat 8 bs.length, halyard := flagHalyard t.pkt.hdr, arrival := BitVec.ofNat 24 t.arrival, ecc := 0, rsvd := 0,
      payload := fit 240 bs }
  { c with ecc := Config.cellEcc (cellHead c) }

/-! ## Reassembly (R355, R358) -/

/-- A cell that will not come: a packet of which no cell can come is over. -/
def loseCell (s : State) (t : Transit) (i : Nat) : State :=
  let t := { t with planes := t.planes.set i noPlane, complete := false, got := t.got.filter (fun g => decide (g.1 ≠ i)),
                    missing := if i ∈ t.missing then t.missing else t.missing ++ [i] }
  if t.firstAt.isNone ∧ t.planes.all (fun d => decide (d = noPlane)) then leaveTransit s t else setTransit s t

/-- The packet that a packet's cells spell, the first byte at its ingress as cell 0 gives it modulo 2^24. -/
def assembled (t : Transit) : Packet :=
  let bs := (List.range t.cells).flatMap (fun i => match t.got.find? (fun g => decide (g.1 = i)) with
    | none => []
    | some g => g.2)
  { hdr := headerOf (bs.take 48), body := bs.drop 48 }

/-- The latest time up to now whose low 24 bits are those of a cell's ARRIVAL. -/
def arrivedAt (s : State) (a : BitVec 24) : Nat := s.now - (s.now + 2 ^ 24 - a.toNat) % 2 ^ 24

/-- A cell that its egress port gathers. -/
def gatherCell (s : State) (t : Transit) (c : CellMsg) : State :=
  let i := c.index.toNat
  let missing := t.missing.filter (fun x => decide (x ≠ i))
  let n := s.switch.doneCount
  let t := { t with missing := missing, got := t.got ++ [(i, c.payload.take c.valid.toNat)], firstAt := some (t.firstAt.getD s.now),
                    arrival := if i = 0 then arrivedAt s c.arrival else t.arrival }
  if missing.isEmpty then
    setTransit (setSwitch s { s.switch with doneCount := n + 1 }) { t with pkt := assembled t, complete := true, doneAt := s.now, doneNo := n }
  else setTransit s t

/-- A cell that reaches an egress port through a plane: where its header shows an uncorrectable error it is dropped and counted. A port
that does not serve has no slots (R352). -/
def arriveCell (s : State) (p : Nat) (c : CellMsg) : State :=
  if !portServes s p ∨ c.plane = noPlane then s
  else match correctCell c with
    | none => (match s.switch.transits.find? (fun t => decide (t.egress = p) && decide (t.planes.getD c.index.toNat noPlane = c.plane)
        && decide (t.ingress = c.ingress.toNat) && decide (t.packetId = c.packetId.toNat) && decide (c.index.toNat ∈ t.missing)) with
      | none => bump s (xbBase c.plane + 0x104)
      | some t => loseCell (bump s (xbBase c.plane + 0x104)) t c.index.toNat)
    | some c =>
      let i := c.index.toNat
      if c.egress.toNat ≠ p then s
      else match s.switch.transits.find? (fun t =>
          decide (t.ingress = c.ingress.toNat) && decide (t.packetId = c.packetId.toNat) && decide (t.egress = p)) with
        | none => s
        | some t =>
          if i ∉ t.missing ∨ t.planes.getD i noPlane ≠ c.plane then s
          else gatherCell s t c

/-- The cells that a lost plane held are lost (R353). -/
def planeLost (s : State) (d : Nat) : State :=
  s.switch.transits.foldl (fun s t =>
    (List.range t.cells).foldl (fun s i =>
      match s.switch.transits.find? (fun x => decide (x.ingress = t.ingress) && decide (x.packetId = t.packetId)) with
      | none => s
      | some x => if x.planes.getD i noPlane = d then loseCell s x i else s) s) s

/-- A packet that has not become complete in time (R355, log 6). -/
def reassemblyOver (s : State) (p ingress pid : Nat) : State :=
  match s.switch.transits.find? (fun t => decide (t.ingress = ingress) && decide (t.packetId = pid) && decide (t.egress = p) && !t.complete) with
  | none => s
  | some t => match t.firstAt with
    | none => s
    | some f => bumpPort (leaveTransit (advanceTo s (f + us (regField s (mgBase + 0x404) 5 0))) t) p 0x608

/-! ## Egress (R362, R80) -/

/-- Whether a packet became complete before another: in the same cycle the lower ingress port goes first (R355). -/
def before (t b : Transit) : Bool :=
  decide (t.doneAt < b.doneAt) || (decide (t.doneAt = b.doneAt) &&
    (decide (t.ingress < b.ingress) || (decide (t.ingress = b.ingress) && decide (t.doneNo < b.doneNo))))

/-- The complete packet that leads a list of an egress port's packets. -/
def leader (s : State) (p : Nat) (mine : Transit → Bool) : Option Transit :=
  (s.switch.transits.filter (fun t => decide (t.egress = p) && t.complete && mine t)).foldl (fun best t =>
    match best with
    | none => some t
    | some b => if before t b then some t else some b) none

/-- The head of a port's queue of a class. -/
def classHead (s : State) (p cls : Nat) : Option Transit := leader s p (fun t => t.halyard.isNone && decide (clsOf t.pkt.hdr = cls))

/-- Whether a class is strict, and the quantum of one that is not. -/
def isStrict (s : State) (cls : Nat) : Bool := regBit s (mgBase + 0x428 + 4 * cls) 31
def quantumOf (s : State) (cls : Nat) : Nat := regField s (mgBase + 0x428 + 4 * cls) 7 0 * 256

/-- The deficit round robin from a class on: the class whose head goes, the deficits and the class to look at first; `fuel`
bounds the visits. -/
def roundRobin (s : State) (p : Nat) : Nat → Nat → Tab (Nat × Nat) Nat → Option (Transit × Nat × Tab (Nat × Nat) Nat)
  | 0, _, _ => none
  | fuel + 1, cls, d =>
    let next := (cls + 1) % 8
    let onward := fun (d : Tab (Nat × Nat) Nat) =>
      if isStrict s next then d else Tab.put d (p, next) (Tab.getD d (p, next) 0 + quantumOf s next)
    match (if isStrict s cls then none else classHead s p cls) with
    | none => roundRobin s p fuel next (onward (Tab.del d (p, cls)))
    | some t =>
      if packetLen t.pkt ≤ Tab.getD d (p, cls) 0 then
        some (t, cls, Tab.put d (p, cls) (Tab.getD d (p, cls) 0 - packetLen t.pkt))
      else roundRobin s p fuel next (onward d)

/-- The visits that bring the largest packet its deficit at the smallest weight, over eight classes. -/
def robinFuel : Nat := 8 * 32

/-- The next packet of an egress port, and the state with the round robin advanced. -/
def nextPacket (s : State) (p : Nat) : Option (Transit × State) :=
  match leader s p (fun t => t.halyard.isSome) with
  | some t => some (t, s)
  | none => match [7, 6, 5, 4, 3, 2, 1, 0].findSome? (fun c => if isStrict s c then classHead s p c else none) with
    | some t => some (t, s)
    | none => (roundRobin s p robinFuel (Tab.getD s.switch.rrNext p 0) s.switch.deficits).map (fun r =>
        (r.1, setSwitch s { s.switch with rrNext := Tab.put s.switch.rrNext p r.2.1, deficits := r.2.2 }))

/-- A packet's AGE after a module's residence, in 64 ns units rounded up, and one for the cable it came on (R80). -/
def agedBy (h : Header) (cycles ingress : Nat) : Nat :=
  min 0xFFFF (h.age.toNat + ceilDiv (cycles * 5) 832 + (if ingress < 144 then 1 else 0))

/-- The header that leaves an egress port. HOPS counts a module that the packet passes through (log 53). -/
def leaving (s : State) (p : Nat) (t : Transit) : Header :=
  let h := t.pkt.hdr
  { h with age := BitVec.ofNat 16 (agedBy h (s.now - t.arrival) t.ingress),
           hops := if t.ingress < 144 ∧ p < 144 then BitVec.ofNat 6 (min 63 (h.hops.toNat + 1)) else h.hops }

/-- A packet transmitted at an egress port, or dropped over age. -/
def transmit (s : State) (p : Nat) (t : Transit) : State :=
  let h := leaving s p t
  let pkt := { t.pkt with hdr := h }
  let s' := leaveTransit s t
  if tooOld s h then bumpPort s' p 0x600
  else
    let s' := sample s' true p t.ingress p pkt t.arrivedColour t.arrival
    if p < 144 then wireSend s' p pkt else emit s' (.wire p pkt)

/-- Whether a port can send a packet: an internal port serves (R352), and an external port's link has the credit and nothing waits before
it (R420). -/
def linkFree (s : State) (p : Nat) (t : Transit) : Bool :=
  if 144 ≤ p then portServes s p else (portUp s p && (portOf s p).waitTx.isEmpty && hasCredit (vcOf (portOf s p) 0) (packetLen t.pkt))

/-- The next packet of an egress port goes. -/
def egress (s : State) (p : Nat) : State := match nextPacket s p with
  | none => s
  | some (t, s') => if linkFree s p t then transmit s' p t else s

/-- Every packet for a port that left UP discarded (R368). -/
def flushPort (s : State) (p : Nat) : State :=
  (s.switch.transits.filter (fun t => decide (t.egress = p))).foldl (fun s t => bumpPort (leaveTransit s t) p 0x614) s

/-! ## Rate limits (R371) -/

/-- The state with a block's limit for a fabric ID replaced or, at the link rate, removed. -/
def putLimit (s : State) (b : Nat) (f : Fid) (rate : Nat) : State :=
  let others := s.limits.filter (fun l => !(decide (l.block = b) && decide (l.fid = f)))
  { s with limits := if 64 ≤ rate then others else others ++ [{ block := b, fid := f, rate := rate, since := s.now,
                                                                freeAt := ((limitOf s b f).map (·.freeAt)).getD s.now }] }

/-- A block's limit that is closest to the link rate. -/
def loosest (s : State) (b : Nat) : Option RateLimit :=
  (s.limits.filter (fun l => decide (l.block = b))).foldl (fun best l =>
    match best with
    | none => some l
    | some x => if x.rate < l.rate then some l else some x) none

/-- A limit halved, down to 1/64 of the link rate; with all 256 in use a new one replaces the loosest. -/
def halveLimit (s : State) (b : Nat) (f : Fid) : State := match limitOf s b f with
  | some l => putLimit s b f (max 1 (l.rate / 2))
  | none =>
    let s := if (s.limits.filter (fun l => decide (l.block = b))).length < 256 then s
      else match loosest s b with
        | none => s
        | some l => putLimit s b l.fid 64
    putLimit s b f 32

/-! ## The rows -/

/-- PACKET_INGRESS (R357). -/
def execPacketIngress (port : Nat) (pkt : Packet) (s : State) : Result := .next (ingressPacket s port pkt)
/-- CELL_ARRIVE (R355). -/
def execCellArrive (port : Nat) (cell : CellMsg) (s : State) : Result := .next (if configurable s then finishSwap (arriveCell s port cell) else s)
/-- REASSEMBLY_TIMEOUT (R355). -/
def execReassemblyTimeout (port ingress packetId : Nat) (s : State) : Result := .next (if configurable s then finishSwap (reassemblyOver s port ingress packetId) else s)
/-- EGRESS_TRANSMIT (R362). -/
def execEgressTransmit (port : Nat) (s : State) : Result := .next (if configurable s then egress s port else s)
/-- CONG_NOTIFY at the block of its destination (R370, R371): nothing answers it, so a check that it fails is counted only. -/
def takeNotify (s : State) (b : Nat) (p : Packet) : State :=
  let h := p.hdr
  let u := unitOfBlock s b
  let n := leNat p.body
  if tooOld s h then countPkt s u .ageDrop
  else if malformed s p ∨ bits n 31 19 ≠ 0 then logBadPacket (countPkt s u .malformed) h
  else if h.dgen ≠ genOf s h.dst then s
  else if h.sgen ≠ genOf s h.src then countPkt s u .genDrop
  else if burgeeDead s h then countPkt s u .burgeeDrop
  else match openPacket s p with
    | .tagFail _ => countPkt s u .tagFail
    | .crcFail _ => countPkt s u .crcFail
    | .ok _ => halveLimit s b (BitVec.ofNat 16 (bits n 15 0))

/-- CONG_NOTIFY (R371): the block whose fabric ID it names takes it. -/
def execCongNotify (pkt : Packet) (s : State) : Result :=
  .next (match (if inService s ∧ pkt.hdr.ptype = tyMgmt ∧ pkt.hdr.opcode = 0x40 then blockOfFid s pkt.hdr.dst else none) with
    | none => s
    | some b => if isQuiet s b then s else takeNotify s b pkt)

/-- RATE_LIMIT_RECOVER (R371, log 6). -/
def execRateLimitRecover (block : Nat) (fid : Fid) (s : State) : Result :=
  .next (match (if inService s then limitOf s block fid else none) with
    | none => s
    | some l => settle (putLimit (advanceTo s (l.since + us (regField s (mgBase + 0x408) 23 16))) block fid (l.rate + 1)))

end Sys2Proof.Machine
end

