-- ==== Sys2Proof/Machine/Notices.lean ====
section
/-!
DEFINITION. What a module tells its neighbours and hears from them: BLOCK_RESTART (R85, R86), ROUTE_WITHDRAW and
ROUTE_RESTORE (R550 to R552).
-/
namespace Sys2Proof.Machine

open Sys2Proof

def mgRouteWithdraw : Byte := 0x10
def mgRouteRestore : Byte := 0x11

/-- A list cut into runs of at most `n`; `fuel` bounds how many. -/
def runsOf {α : Type} (n : Nat) : Nat → List α → List (List α)
  | 0, _ => []
  | fuel + 1, l => if l.isEmpty then [] else l.take n :: runsOf n fuel (l.drop n)

/-- An MGMT packet sent on a port to its partner. -/
def sendOnPort (s : State) (opcode : Byte) (payload : Bytes) (p : Nat) : State :=
  sendMgmt s (me s) (partnerFid s p) opcode payload (some p)

/-! ## BLOCK_RESTART (R85, R86) -/

/-- The payload of a BLOCK_RESTART. -/
def restartBytes (l : List (Fid × BitVec 4)) : Bytes :=
  toLe 2 l.length ++ l.flatMap (fun e => toLe 2 e.1.toNat ++ [BitVec.ofNat 8 e.2.toNat])

/-- BLOCK_RESTART for entries on ports, in as many packets as they take. -/
def sendRestarts (s : State) (ports : List Nat) (l : List (Fid × BitVec 4)) : State :=
  ports.foldl (fun s p => (runsOf 1364 (l.length + 1) l).foldl (fun s r => sendOnPort s mgBlockRestart (restartBytes r) p) s) s

/-- The generations that a module serves: every fabric ID of a block in service. -/
def servedGens (s : State) : List (Fid × BitVec 4) :=
  ((List.range (blockCount s.variant)).filter (blockServes s)).filterMap (fun b => (blockFid s b).map (fun f => (f, genOf s f)))

/-- The generations that are not 0. -/
def raisedGens (s : State) : List (Fid × BitVec 4) := s.gens.filter (fun e => decide (e.2 ≠ 0))

/-- A changed generation of a fabric ID that the module serves: the notice on every UP fabric port now, and again in 10 ms (R85). -/
def noteGen (s : State) (f : Fid) : State :=
  sendRestarts { s with repeatAt := Tab.put s.repeatAt f (s.now + us 10000) } (fabricPorts s) [(f, genOf s f)]

/-- The generation of a fabric ID raised by its serving module: its own table, and the notices (R85). -/
def raiseGen (s : State) (f : Fid) : State := noteGen (restartFid s f (genOf s f + 1)) f

/-- The entries of a BLOCK_RESTART payload, and whether it is laid out as R86 gives it. -/
def restartEntries (bs : Bytes) : List (Fid × BitVec 4) :=
  (List.range (fieldAt bs 0 2)).map (fun i => (BitVec.ofNat 16 (fieldAt bs (2 + 3 * i) 2), BitVec.ofNat 4 (fieldAt bs (4 + 3 * i) 1)))
def restartOk (bs : Bytes) : Bool :=
  let n := fieldAt bs 0 2
  decide (1 ≤ n) && decide (n ≤ 1364) && decide (bs.length = 2 + 3 * n) &&
  (List.range n).all (fun i => decide (fieldAt bs (4 + 3 * i) 1 < 16))

/-- The entries of a BLOCK_RESTART that are new: written, acted on, and forwarded on every other UP fabric port (R85). -/
def takeRestarts (s : State) (port : Nat) (l : List (Fid × BitVec 4)) : State :=
  let fresh := l.filter (fun e => decide (e.2 ≠ genOf s e.1))
  let s := fresh.foldl (fun s e => if e.2 = genOf s e.1 then s else restartFid s e.1 e.2) s
  if fresh.isEmpty then s else sendRestarts s ((fabricPorts s).filter (fun p => decide (p ≠ port))) fresh

/-- Whether a notice of a partner on a port counts. -/
def takesNotice (s : State) (p : Nat) : Bool := configurable s && portUp s p && !attachMode s p

/-- BLOCK_RESTART from a partner (R85, R86). -/
def execBlockRestart (port : Nat) (pkt : Packet) (s : State) : Result :=
  .next (if !takesNotice s port then s
    else settle (takeMgmt s mgBlockRestart pkt restartOk (fun s bs => takeRestarts (ackMgmt s pkt.hdr) port (restartEntries bs))))

/-- The notice of a generation change again, 10 ms later (R85, log 6). -/
def execBlockRestartRepeat (fid : Fid) (s : State) : Result :=
  .next (match (if configurable s then Tab.get? s.repeatAt fid else none) with
    | none => s
    | some t =>
      let s := advanceTo { s with repeatAt := Tab.del s.repeatAt fid } t
      sendRestarts s (fabricPorts s) [(fid, genOf s fid)])

/-- A replacement spare begins to send and to answer (R85, log 6). -/
def execSpareBlockQuietExpiry (block : Nat) (s : State) : Result :=
  .next (match (if configurable s then Tab.get? s.quietUntil block else none) with
    | none => s
    | some t => settle (advanceTo { s with quietUntil := Tab.del s.quietUntil block } t))

/-! ## Routes withdrawn and restored (R550 to R552) -/

/-- The payload of a route notice. -/
def routeBytes (all : Bool) (l : List Fid) : Bytes :=
  toLe 2 l.length ++ [BitVec.ofNat 8 (b01 all), 0] ++ l.flatMap (fun f => toLe 2 f.toNat)

/-- A route notice on ports, in as many packets as its fabric IDs take. -/
def sendRoutes (s : State) (opcode : Byte) (ports : List Nat) (l : List Fid) : State :=
  ports.foldl (fun s p => (runsOf 2046 (l.length + 1) l).foldl (fun s r => sendOnPort s opcode (routeBytes false r) p) s) s

/-- The fabric IDs that can become unreachable: those with a route entry, and those of the module's blocks. -/
def routedFids (s : State) : List Fid :=
  let base := mgBase + 0x40000
  let routes := s.regs.filterMap (fun r => if base ≤ r.1 ∧ r.1 < base + 0x40000 ∧ r.2.getLsbD 31 then some (BitVec.ofNat 16 ((r.1 - base) / 4)) else none)
  let blocks := (List.range (blockCount s.variant)).filterMap (blockFid s)
  blocks ++ routes.filter (fun f => !blocks.contains f)

/-- What a change of ports, routes or exclusions brings in SERVICE: every fabric ID that became unreachable is withdrawn, and
every one that is reachable again at least 10 ms after its withdrawal is restored (R550). -/
def announce (s : State) : State :=
  if !inService s then s
  else
    let gone := (routedFids s).filter (fun f => unreachable s f && !Tab.has s.switch.withdrawn f)
    let back := (s.switch.withdrawn.filter (fun e => !unreachable s e.1 && decide (e.2 + us 10000 ≤ s.now))).map (·.1)
    let w := s.switch.withdrawn.filter (fun e => !back.contains e.1) ++ gone.map (fun f => (f, s.now))
    let s := setSwitch s { s.switch with withdrawn := w }
    let s := sendRoutes s mgRouteWithdraw (fabricPorts s) gone
    sendRoutes s mgRouteRestore (fabricPorts s) back

/-- Entries of the exclusion table, and its size. -/
def exclUsed (s : State) : Nat := s.switch.exclusions.length + s.switch.excludeAll.length
def exclSize : Nat := 16384

/-- One exclusion added, where the table has room. -/
def addExclusion (s : State) (f : Fid) (p : Nat) : State :=
  if (f, p) ∈ s.switch.exclusions ∨ exclSize ≤ exclUsed s then s
  else setSwitch s { s.switch with exclusions := s.switch.exclusions ++ [(f, p)] }

/-- A whole port excluded, where the table has room. -/
def addExcludeAll (s : State) (p : Nat) : State :=
  if p ∈ s.switch.excludeAll ∨ exclSize ≤ exclUsed s then s
  else setSwitch s { s.switch with excludeAll := s.switch.excludeAll ++ [p] }

/-- A withdrawal recorded; one that finds the table full is counted and logged (R552). -/
def withdraw (s : State) (p : Nat) (all : Bool) (fids : List Fid) : State :=
  let s := if all then addExcludeAll s p else s
  let s := fids.foldl (fun s f => addExclusion s f p) s
  let missed := fids.filter (fun f => !decide ((f, p) ∈ s.switch.exclusions))
  if missed.isEmpty ∧ (!all ∨ p ∈ s.switch.excludeAll) then s
  else logRoute (countEvent s (mgBase + 0xA14) (mgBase + 0xA00) 1) ((missed.headD 0xFFFF).toNat) p 552

/-- The exclusions of a port removed: those named, or all of them. -/
def unExclude (s : State) (p : Nat) (all : Bool) (fids : List Fid) : State :=
  setSwitch s { s.switch with
    exclusions := s.switch.exclusions.filter (fun e => !(decide (e.2 = p) && (all || fids.contains e.1)))
    excludeAll := if all then s.switch.excludeAll.filter (fun q => decide (q ≠ p)) else s.switch.excludeAll }

/-- The fields of a route notice, and whether it is laid out as R551 gives it. -/
def routeAll (bs : Bytes) : Bool := decide (fieldAt bs 2 1 = 1)
def routeFids (bs : Bytes) : List Fid := (List.range (fieldAt bs 0 2)).map (fun i => BitVec.ofNat 16 (fieldAt bs (4 + 2 * i) 2))
def routeOk (bs : Bytes) : Bool :=
  let n := fieldAt bs 0 2
  decide (n ≤ 2046) && decide (bs.length = 4 + 2 * n) && decide (fieldAt bs 2 2 ≤ 1)

/-- ROUTE_WITHDRAW (R551, R552). -/
def execRouteWithdraw (port : Nat) (pkt : Packet) (s : State) : Result :=
  .next (if !takesNotice s port then s
    else settle (takeMgmt s mgRouteWithdraw pkt routeOk (fun s bs =>
      announce (withdraw (ackMgmt s pkt.hdr) port (routeAll bs) (routeFids bs)))))
/-- ROUTE_RESTORE (R551). -/
def execRouteRestore (port : Nat) (pkt : Packet) (s : State) : Result :=
  .next (if !takesNotice s port then s
    else settle (takeMgmt s mgRouteRestore pkt routeOk (fun s bs =>
      announce (unExclude (ackMgmt s pkt.hdr) port (routeAll bs) (routeFids bs)))))
/-- A fabric ID that is reachable again is announced 10 ms after its withdrawal (R550, log 6). -/
def execRouteRestoreDelayExpiry (fid : Fid) (s : State) : Result :=
  .next (match Tab.get? s.switch.withdrawn fid with
    | none => s
    | some t => if !inService s ∨ unreachable s fid then s else announce (advanceTo s (t + us 10000)))

end Sys2Proof.Machine
end

