-- ==== Sys2Proof/Machine/Ports.lean ====
section
/-!
DEFINITION. External ports and their cables: the port states (R400, R401), cable bring-up and monitoring (R402, R403), the
link-init exchange (R404, R405), leaving UP (R368, R406, R433, R551), and quarantine (R408).
-/
namespace Sys2Proof.Machine

open Sys2Proof

/-! ## What a port shows and sends -/

/-- Port causes (R412). -/
def caNone : BitVec 4 := 0
def caDisabled : BitVec 4 := 1
def caNoCable : BitVec 4 := 2
def caCableFault : BitVec 4 := 3
def caLos : BitVec 4 := 4
def caFecFail : BitVec 4 := 5
def caInitMismatch : BitVec 4 := 6
def caRetrain : BitVec 4 := 7
def caQuarantined : BitVec 4 := 8
def caLanesShort : BitVec 4 := 9

/-- What the module does on a cable's sideband (R402, R403, R407). -/
def sbReleaseReset : Byte := 1
def sbLeaveLowPwr : Byte := 3
def sbApplyDpInit : Byte := 4
def sbClock : Byte := 5
def sbAssertReset : Byte := 6
def sbLane8On : Byte := 7
def sbLane8Off : Byte := 8

/-- Whether ports run: BOOT, MAINT or SERVICE with the clocks not gated (R399, R507). -/
def portsRun (s : State) : Bool := (decide (s.mode = .boot) || configurable s) && !s.power.gated

/-- Whether the cable sidebands run: the control plane has power and is out of RESET (R18, R505, R607). -/
def sidebandRuns (s : State) : Bool := decide (s.mode ≠ .off) && decide (s.mode ≠ .reset)

/-- Whether the driver lets a port train (R410). -/
def portEnabled (s : State) (p : Nat) : Bool := regBit s (ptBase p) 0

/-- A port's record changed. -/
def updPort (s : State) (p : Nat) (f : Port → Port) : State := setPort s p (f (portOf s p))

/-- The lanes that a port may use: those not marked failed, lane 8 only as a tested spare or as an active lane (R404). -/
def usableLanes (r : Port) : BitVec 9 := (if r.lane8Tested || r.lane8InUse then 0x1FF else 0xFF) &&& ~~~r.lanesFailed

/-- The lowest `n` lanes of a set. -/
def lowestLanes (n : Nat) (l : BitVec 9) : BitVec 9 :=
  ((List.range 9).filter (fun i => l.getLsbD i)).take n |>.foldl (fun a i => a ||| (1 <<< i)) 0

/-- The credit that a partner must advertise. -/
def requiredLimits (attach : Bool) : List Nat := if attach then [130, 16, 130, 0] else [132, 0, 0, 0]

/-- The channels of a link that starts afresh, with the partner's initial limits (R405, R421). -/
def freshVcs (attach : Bool) (limits : List Word) : List Vc :=
  (List.range 4).map (fun n =>
    { sent := 0, limit := limits.getD n 0, rcvd := 0, advertised := BitVec.ofNat 32 ((initialLimits attach).getD n 0), freed := 0,
      retrying := false })

/-- The fabric ID that the module presents on a port: the serving block's on an attach port (R418). -/
def presentedFid (s : State) (p : Nat) : Fid := if attachMode s p then (blockFid s (p / 2)).getD 0xFFFF else me s

/-- The body of the module's LINK_INIT on a port (R417). -/
def linkInitBytes (s : State) (p : Nat) : Bytes :=
  let a := attachMode s p
  [BitVec.ofNat 8 (b01 a), 0x01, BitVec.ofNat 8 p, if a then 0x0F else 0x01] ++ toLe 2 (usableLanes (portOf s p)).toNat ++
  toLe 2 (presentedFid s p).toNat ++ toLe 4 (reg s (glbBase + 0xC)).toNat ++ zeros 4 ++ (initialLimits a).flatMap (toLe 4)

/-! ## Leaving UP (R368, R433, R551) -/

/-- What follows a port's departure from UP, its record already changed. -/
def leftUp (s : State) (p : Nat) : State :=
  let s := detBreak (failHalyardsAt (flushPort s p) p) detTopology
  let s := { s with apertures := s.apertures.filter (fun a => a.sent || decide (a.port ≠ p)) }
  let s := if isLsPort s p then lsLinkLost s else s
  announce (unExclude (loseRequests s p) p true [])

/-- A port put into a state that is not UP, with a cause. -/
def putDown (s : State) (p : Nat) (st : PortState) (cause : BitVec 4) : State :=
  let r := portOf s p
  let s' := setPort s p { r with
    state := st, cause := cause, active := 0, aligned := 0, initSent := false, mySet := none, peerAcked := false, peerInit := none,
    swap := none, lane8On := r.lane8On && r.swap.isNone, waitTx := [], dead := if r.state = .up then [] else r.dead,
    fecWindow := [],
    restartLogged := if st = .down then false else r.restartLogged }
  if r.state = .up ∧ portsRun s then leftUp s' p else s'

/-- A port taken DOWN; one in QUARANTINE stays there and records the cause, but for ENABLE 0 (R400, R401). -/
def takeDown (s : State) (p : Nat) (cause : BitVec 4) : State :=
  let r := portOf s p
  if r.state = .quarantine ∧ cause ≠ caDisabled then setPort s p { r with cause := cause }
  else putDown s p .down cause

/-! ## Training (R400, R404) -/

/-- A port enters TRAINING. -/
def beginTraining (s : State) (p : Nat) : State :=
  updPort s p (fun r => { r with state := .training, aligned := 0, initSent := false, mySet := none, peerAcked := false, peerInit := none,
                                 trainingAt := s.now })

/-- A DOWN port enters TRAINING where ENABLE is 1, its cable is ready and it holds at least 4 usable lanes (R400). -/
def tryTrain (s : State) (p : Nat) : State :=
  let r := portOf s p
  if portsRun s ∧ r.state = .down ∧ portEnabled s p ∧ r.cable = .ready then
    (if 4 ≤ laneCount (usableLanes r) then beginTraining s p
     else raiseTray (setPort s p { r with cause := caLanesShort }))
  else s

/-- The lane set of an exchange: x8 on at least 8 common lanes, else x4 (R404). -/
def laneSet (mine theirs : BitVec 9) : Option (BitVec 9) :=
  let common := mine &&& theirs
  let n := laneCount common
  if 8 ≤ n then some (lowestLanes 8 common) else if 4 ≤ n then some (lowestLanes 4 common) else none

/-- Whether a partner's LINK_INIT is one that the port can work with (R405, R419, R421). -/
def initFits (s : State) (p : Nat) (m : LinkInitMsg) : Bool :=
  let a := attachMode s p
  (m.attach == a) && decide (m.version = 0x01) && decide (m.vcMask = if a then 0x0F else 0x01) &&
  ((requiredLimits a).zipIdx.all (fun q => decide (q.1 ≤ (m.limits.getD q.2 0).toNat)))

/-- A port that cannot agree with its partner stays in TRAINING with a cause, and the mismatch is logged (R405, R406). -/
def mismatch (s : State) (p : Nat) (cause : BitVec 4) : State :=
  logPort (updPort s p (fun r => { r with cause := cause, peerInit := none })) p cause.toNat 0 405

/-- A lane that changes its state, with the record of it (R531). -/
def logLane (s : State) (p : Nat) (old new : UnitState) (rule : Nat) : State := logUnit s .lane p (unitCode old) (unitCode new) rule

/-- Whether the test of a port's lane 8 runs (R532). -/
def lane8InTest (r : Port) : Bool := r.lane8On && r.swap.isNone && !r.active.getLsbD 8

/-- The state of lane 8 while it is a spare (R531). -/
def spareLaneState (r : Port) : UnitState := if r.lane8Tested then .spareTested else .spareUntested

/-- Lane 8 in service, with the record of it (R406, R407, R531). -/
def takeLane8 (s : State) (p : Nat) : State :=
  let r := portOf s p
  if r.lane8InUse then s else logLane (updPort s p (fun r => { r with lane8InUse := true })) p (spareLaneState r) .active 531

/-- Both ends have acknowledged the same lane set: the port enters UP (R404). -/
def enterUp (s : State) (p : Nat) (m : LinkInitMsg) (lanes : BitVec 9) : State :=
  let r := portOf s p
  let partner := if attachMode s p then presentedFid s p else m.fid
  let s := setPort s p { r with state := .up, active := lanes, newInc := false, violations := [], lastCreditAt := s.now, mySet := none,
                                upAt := s.now }
  let s := if lanes.getLsbD 8 then takeLane8 s p else s
  let s := setReg s (ptBase p + 0x10) (BitVec.ofNat 32 (m.port.toNat * 65536 + partner.toNat))
  let s := detBreak (if laneCount lanes = 4 then raiseTray s else s) detTopology
  let s :=
    if attachMode s p || isLsPort s p then s
    else
      let s := if s.mode = .maint then sendOnPort s mgRouteWithdraw (routeBytes true []) p else s
      if r.newInc ∧ !(raisedGens s).isEmpty then sendRestarts s [p] (raisedGens s) else s
  announce s

/-- The exchange as far as it has come: both LINK_INITs are there, so the lane set is chosen and acknowledged. -/
def tryExchange (s : State) (p : Nat) : State :=
  let r := portOf s p
  match r.peerInit with
  | none => s
  | some m =>
    if r.state ≠ .training ∨ !r.initSent ∨ r.mySet.isSome then s
    else if !initFits s p m then mismatch s p caInitMismatch
    else match laneSet (usableLanes r) m.lanes with
      | none => mismatch s p caLanesShort
      | some l => sendControl (setPort s p { r with mySet := some l }) p fkInitAck (toLe 2 l.toNat ++ zeros 6)

/-- The module's LINK_INIT sent with its usable lanes. -/
def sendInit (s : State) (p : Nat) : State :=
  tryExchange (sendControl (updPort s p (fun r => { r with initSent := true })) p fkLinkInit (linkInitBytes s p)) p

/-- Clock and FEC lock on lanes of a port: once each usable lane has them the lanes align, and the exchange starts (R404, log 54). -/
def lanesAligned (s : State) (p : Nat) (lanes : BitVec 9) : State :=
  let r := portOf s p
  if r.state ≠ .training then s
  else
    let r := { r with aligned := r.aligned ||| (lanes &&& usableLanes r) }
    if usableLanes r &&& ~~~r.aligned = 0 then sendInit (setPort s p r) p else setPort s p r

/-! ## Violations and quarantine (R408) -/

/-- A violation by the partner: its NAK, its count, and QUARANTINE at the limit. -/
def violation (s : State) (p : Nat) (code : Byte) (vc : Nat) (sent : Word) : State :=
  let s := bumpPort (sendControl s p fkLinkNak (linkNakBody code vc sent)) p 0x24
  let r := portOf s p
  let l := r.violations.filter (fun t => decide (s.now < t + us 1000)) ++ [s.now]
  let s := setPort s p { r with violations := l }
  if r.state = .up ∧ regField s (ptBase p) 31 24 ≤ l.length then
    let s := countEvent s (ptBase p + 0x28) (ptBase p + 0x14) 1
    logPort (putDown (updPort s p (fun r => { r with violations := [] })) p .quarantine caQuarantined) p caQuarantined.toNat 0 408
  else s

/-- A control frame that is malformed or that the port's state does not expect. -/
def badControl (s : State) (p : Nat) : State := violation s p nakMalformed 0 0

/-! ## The cable (R402, R403) -/

/-- Bring-up from step 1: the cable is let out of reset. -/
def startCable (s : State) (p : Nat) : State :=
  emit (updPort s p (fun r => { r with cable := .waitLowPwr })) (.sideband p sbReleaseReset)

/-- Step 1 where a cable is present and ENABLE is 1. -/
def tryCable (s : State) (p : Nat) : State :=
  let r := portOf s p
  if portsRun s ∧ r.present ∧ portEnabled s p ∧ (r.cable = .absent) then startCable s p else s

/-- A step of bring-up that failed: CABLE_FAULT, the alarm, the record, and step 1 again in a second (R402). -/
def failCable (s : State) (p stepNo : Nat) : State :=
  let s := countEvent s (ptBase p + 0x30) (ptBase p + 0x14) 3
  let s := takeDown s p caCableFault
  let s := updPort s p (fun r => { r with cable := .failed, retryAt := s.now + us 1000000 })
  logPort s p caCableFault.toNat stepNo 402

/-- A cable fault on a present cable: the port goes DOWN, and bring-up restarts at step 1 where ENABLE is 1 (R402, R403). -/
def cableFault (s : State) (p : Nat) : State :=
  tryCable (updPort (takeDown s p caCableFault) p (fun r => { r with cable := .absent })) p

/-- Whether a port waits in a step of cable bring-up. -/
def waitsAt (s : State) (p : Nat) (st : CableStep) : Bool := portsRun s && decide ((portOf s p).cable = st)

/-- PRESENT_N asserted (R402). -/
def execCableInsert (port : Nat) (s : State) : Result := .next (tryCable (updPort s port (fun r => { r with present := true })) port)
/-- The cable is in ModuleLowPwr: its pages are read and checked, and the application is selected (R402, steps 2 to 4). -/
def execCableModuleLowPwr (port : Nat) (cmisRev : Byte) (appsOk : Bool) (s : State) : Result :=
  .next (if !waitsAt s port .waitLowPwr then s
    else if cmisRev.toNat / 16 ≠ 5 ∨ !appsOk then failCable s port 2
    else emit (emit (updPort s port (fun r => { r with cable := .waitReady }))
      (.cableSelect port (Config.appSel port) (Config.equalisation port))) (.sideband port sbLeaveLowPwr))
/-- The cable is in ModuleReady (R402, step 5). -/
def execCableModuleReady (port : Nat) (s : State) : Result :=
  .next (if !waitsAt s port .waitReady then s
    else emit (updPort s port (fun r => { r with cable := .waitDp })) (.sideband port sbApplyDpInit))
/-- The body of a SWAP_REQ or SWAP_READY, and whether a body is laid out so (R417). -/
def swapBytes (lane : Nat) (named : Bool) (marker : Word) : Bytes :=
  [BitVec.ofNat 8 lane, BitVec.ofNat 8 (b01 named), 0, 0] ++ toLe 4 marker.toNat
def swapOk (b : Bytes) : Bool := decide (b.length = 8) && decide ((byteAt b 1).toNat ≤ 1) && reservedZero b 2 4

/-- Lane 8 is in DPActivated at the end that replaces a lane: the port asks its partner (R407, step 1). -/
def askSwap (s : State) (p : Nat) : State := match (portOf s p).swap with
  | none => s
  | some w =>
    if !w.initiator ∨ w.asked then s
    else sendControl (updPort s p (fun r => { r with swap := some { w with asked := true, startedAt := s.now } })) p fkSwapReq
      (swapBytes w.lane false 0)

/-- The lanes are in DPActivated: the cable is ready (R402, step 6), or lane 8 is active for a swap (R407). -/
def execCableDpActivated (port : Nat) (s : State) : Result :=
  .next (if portsRun s ∧ (portOf s port).swap.isSome then askSwap s port
    else if !waitsAt s port .waitDp then s
    else tryTrain (updPort s port (fun r => { r with cable := .ready })) port)
/-- A step of bring-up fails, or its wait expires (R402). -/
def execCableBringupFail (port stepNo : Nat) (s : State) : Result :=
  .next (if waitsAt s port .waitLowPwr ∨ waitsAt s port .waitReady ∨ waitsAt s port .waitDp then failCable s port stepNo else s)
/-- One second after a cable fault (R402, log 6). -/
def execCableRetryExpiry (port : Nat) (s : State) : Result :=
  .next (if waitsAt s port .failed ∧ portEnabled s port then startCable (advanceTo s (portOf s port).retryAt) port else s)
/-- PRESENT_N deasserted, at any time: the port goes DOWN, and all sideband access ends, that for lane 8 too (R402, R607). -/
def execCableRemove (port : Nat) (s : State) : Result :=
  .next (
    let s := if sidebandRuns s then takeDown s port caNoCable else s
    let s := if lane8InTest (portOf s port) then logLane s port .testing (spareLaneState (portOf s port)) 531 else s
    settle (updPort s port (fun r => { r with present := false, cable := .absent, lane8On := false })))
/-- A poll of the cable's flags and monitors (R403). -/
def execCablePoll (port : Nat) (flags : CableFlags) (s : State) : Result :=
  .next (if !sidebandRuns s ∨ !(portOf s port).present then s
    else
      let s := if flags.warning || flags.monitor
        then logPort (countEvent s (ptBase port + 0x30) (ptBase port + 0x14) 3) port (portOf s port).cause.toNat 0 403 else s
      if flags.alarm || flags.lossLock || flags.txFault then settle (cableFault s port) else s)
/-- SDA low for 10 ms: nine clock pulses, and a reset of the cable where it is still low (R403). -/
def execSdaStuck (port : Nat) (stillLow : Bool) (s : State) : Result :=
  .next (if !sidebandRuns s ∨ !(portOf s port).present then s
    else
      let s := emit s (.sideband port sbClock)
      if stillLow then settle (cableFault (emit s (.sideband port sbAssertReset)) port) else s)

/-! ## Port events -/

/-- A write of PT_CFG that changes what R398 and R410 guard is discarded and logged. -/
def portCfgOk (s : State) (p : Nat) (v : Word) : Bool :=
  let mode := v.getLsbD 1
  decide (bits v.toNat 31 24 ≠ 0) && (!mode || (decide (p < 2 * blockCount s.variant) && !spineRole s)) &&
  (!inService s || (mode == regBit s (ptBase p) 1))

/-- A write of PT_CFG (R398, R400, R410). -/
def writePortCfg (s : State) (p : Nat) (v : Word) : State :=
  if !portCfgOk s p v then logRegWrite s (ptBase p) v.toNat
  else
    let s := setReg s (ptBase p) (v &&& 0xFF000003)
    if v.getLsbD 0 then tryTrain (tryCable s p) p
    else takeDown s p caDisabled

/-- RETRAIN: DOWN with cause RETRAIN, and training again (R411). -/
def retrainPort (s : State) (p : Nat) : State := tryTrain (takeDown s p caRetrain) p

/-- RELEASE: QUARANTINE is left for TRAINING, with the LINK_INIT that came in QUARANTINE (R408, R411). -/
def releasePort (s : State) (p : Nat) : State :=
  let r := portOf s p
  if r.state = .quarantine then updPort (beginTraining s p) p (fun x => { x with peerInit := r.peerInit }) else s

/-- A lane that leaves service for good (R406, R531). -/
def failLane (s : State) (p lane : Nat) : State :=
  logLane (updPort s p (fun r => { r with lanesFailed := r.lanesFailed ||| (1 <<< lane) })) p .active .failed 406

/-- A loss of the link: it is counted where the port was UP (R406). -/
def loseLink (s : State) (p : Nat) (cause : BitVec 4) : State :=
  let s := if (portOf s p).state = .up then countEvent s (ptBase p + 0x18) (ptBase p + 0x14) 0 else s
  takeDown s p cause

/-- The lane that LOS struck alone marked failed, where a tested spare can take its place (R406). -/
def spareLane (s : State) (p : Nat) (hit : BitVec 9) (spare : Bool) : State :=
  match (List.range 8).find? (fun i => hit.getLsbD i) with
  | none => s
  | some i => if spare ∧ laneCount hit = 1 then failLane s p i else s

/-- LOS on lanes of a port. Where it struck one lane alone and the bunting holds a tested spare, that lane is marked failed. A port that has
gone DOWN trains again where R400 lets it (R406). -/
def losOn (s : State) (p : Nat) (lanes : BitVec 9) : State :=
  let r := portOf s p
  let hit := lanes &&& r.active
  if r.state = .training then tryTrain (takeDown s p caLos) p
  else if r.state = .quarantine then takeDown s p caLos
  else if r.state ≠ .up ∨ hit = 0 then s
  else tryTrain (spareLane (loseLink s p caLos) p hit (hasSpareLane r)) p

/-- RETRAIN in PT_CTRL (R411). -/
def execRetrain (port : Nat) (s : State) : Result := .next (if configurable s then settle (retrainPort s port) else s)
/-- RELEASE in PT_CTRL (R411). -/
def execRelease (port : Nat) (s : State) : Result := .next (if configurable s then releasePort s port else s)
/-- A write of PT_CFG (R400, R410). -/
def execPortEnableWrite (port : Nat) (value : Word) (s : State) : Result :=
  .next (if configurable s then settle (writePortCfg s port value) else s)
/-- Lanes lock and align (R404). -/
def execLanesAligned (port : Nat) (lanes : BitVec 9) (s : State) : Result :=
  .next (if portsRun s then lanesAligned s port lanes else s)
/-- LOS (R406). -/
def execLos (port : Nat) (lanes : BitVec 9) (s : State) : Result := .next (if portsRun s then settle (losOn s port lanes) else s)
/-- Codewords found at once with corrected symbols, and uncorrectable ones. More than 32 of these in 10 µs lose the link (R397, R406,
R415). -/
def takeCodewords (s : State) (p corrected uncorrectable : Nat) : State :=
  let s := bumpBy (bumpBy s (ptBase p + 0x1C) corrected) (ptBase p + 0x20) uncorrectable
  let l := ((portOf s p).fecWindow.filter (fun w => decide (s.now < w.1 + us 10))) ++ [(s.now, uncorrectable)]
  let s := updPort s p (fun r => { r with fecWindow := l })
  if 32 < (l.map Prod.snd).sum then settle (tryTrain (loseLink s p caFecFail) p) else s

/-- FEC_FAIL: what a port's receiver finds in its codewords, which may lose the link (R406, log 195). -/
def execFecFail (port corrected uncorrectable : Nat) (s : State) : Result :=
  .next (if portsRun s ∧ (portOf s port).state ≠ .down then takeCodewords s port corrected uncorrectable else s)

/-- The body of a LINK_INIT, and whether it is laid out as R417 gives it. -/
def initOf (b : Bytes) : LinkInitMsg where
  attach := decide (byteAt b 0 = 1)
  version := byteAt b 1
  port := byteAt b 2
  vcMask := byteAt b 3
  lanes := BitVec.ofNat 9 (fieldAt b 4 2)
  fid := BitVec.ofNat 16 (fieldAt b 6 2)
  incarnation := BitVec.ofNat 32 (fieldAt b 8 4)
  limits := (List.range 4).map (fun n => BitVec.ofNat 32 (fieldAt b (16 + 4 * n) 4))
def initOk (b : Bytes) : Bool :=
  decide (b.length = 32) && decide ((byteAt b 0).toNat ≤ 1) && decide (fieldAt b 4 2 < 512) && reservedZero b 12 16

/-- The lane set of an INIT_ACK, and whether it is laid out as R417 gives it. -/
def ackLanes (b : Bytes) : BitVec 9 := BitVec.ofNat 9 (fieldAt b 0 2)
def ackOk (b : Bytes) : Bool := decide (b.length = 8) && decide (fieldAt b 0 2 < 512) && reservedZero b 2 8

/-- A frame of a kind taken on a port: one whose CRC fails is discarded and counted (R418). A port that is DOWN receives nothing, and
one in QUARANTINE takes LINK_INIT alone (R408). A frame of another kind is no event of the row (log 7). -/
def takeFrameOf (s : State) (p : Nat) (kinds : List Nat) (frame : Bytes) (k : LinkFrame → State → State) : State :=
  if !portsRun s ∨ (portOf s p).state = .down ∨ frame = idleWord then s
  else match readFrame frame with
    | none => bumpPort s p 0x40
    | some f =>
      if f.kind ∉ kinds then s
      else if (portOf s p).state = .quarantine ∧ f.kind ≠ fkLinkInit then s
      else settle (k f s)

/-- A control frame that is malformed: the violation names its VC and its SENT (R408, R417). -/
def badFrame (s : State) (p : Nat) (f : LinkFrame) : State := violation s p nakMalformed f.vc f.sent

/-- A control frame of a kind, taken where it is laid out as R416 and R417 give it; any other is a violation (R408). -/
def takeCtl (s : State) (p kind : Nat) (frame : Bytes) (laidOut : Bytes → Bool) (k : Bytes → State → State) : State :=
  takeFrameOf s p [kind] frame (fun f s =>
    if f.clean && decide (f.vc = 0) && decide (f.sent = 0) && laidOut f.body then k f.body s else badFrame s p f)

/-- A LINK_INIT from the partner: a new incarnation starts the link's state afresh (R404, R405, R418). A port in
QUARANTINE keeps it until RELEASE, and a port that is UP does not expect one (R408). -/
def takeInit (s : State) (p : Nat) (m : LinkInitMsg) : State :=
  let r := portOf s p
  match r.state with
  | .up => badControl s p
  | .down => s
  | _ =>
    let fresh := decide (r.lastInc ≠ some m.incarnation)
    let r := { r with peerInit := some m, lastInc := some m.incarnation }
    let r := if fresh then { r with newInc := true, vcs := freshVcs (attachMode s p) m.limits, kept := [], waitTx := [] } else r
    tryExchange (setPort s p r) p

/-- LINK_INIT (R404). -/
def execLinkInit (port : Nat) (frame : Bytes) (s : State) : Result :=
  .next (takeCtl s port fkLinkInit frame initOk (fun b s => takeInit s port (initOf b)))

/-- The partner's lane set: where both ends have acknowledged the same one, the port enters UP. A port that is UP does not expect it, nor
does one that has not chosen that set (R408). -/
def takeAck (s : State) (p : Nat) (lanes : BitVec 9) : State :=
  let r := portOf s p
  match r.state, r.mySet, r.peerInit with
  | .up, _, _ => badControl s p
  | .training, some l, some m => if l = lanes then enterUp (setPort s p { r with peerAcked := true }) p m l else badControl s p
  | .training, _, _ => badControl s p
  | _, _, _ => s

/-- INIT_ACK (R404). -/
def execInitAck (port : Nat) (frame : Bytes) (s : State) : Result :=
  .next (takeCtl s port fkInitAck frame ackOk (fun b s => takeAck s port (ackLanes b)))
/-- 500 ms in TRAINING without reaching UP, or in a mismatch (R405, log 6): the exchange is repeated, or step 1 restarts,
which is logged once after each DOWN. -/
def execTrainingTimeout (port : Nat) (s : State) : Result :=
  .next (if !portsRun s ∨ (portOf s port).state ≠ .training then s
    else
      let s := advanceTo s ((portOf s port).trainingAt + us 500000)
      let r := portOf s port
      let s := setPort s port { r with trainingAt := s.now, peerInit := none, mySet := none }
      if r.cause = caInitMismatch ∨ r.cause = caLanesShort then sendInit s port
      else
        let s := if r.restartLogged then s else logPort s port r.cause.toNat 0 405
        updPort s port (fun r => { r with aligned := 0, initSent := false, restartLogged := true }))

end Sys2Proof.Machine
end

