-- ==== Sys2Proof/Machine/LinkRows.lean ====
section
/-!
DEFINITION. Link frames on ports that are UP (R416 to R422) and the attach transactions of an accelerator (R423 to R433). A
DATA frame's receipt is the link's part of its work: a packet or a transaction takes effect by its own command (log 56).
-/
namespace Sys2Proof.Machine

open Sys2Proof

/-! ## CREDIT -/

/-- A gap on a channel: an attach port asks for the frames again, a fabric port takes the units as lost and freed (R420,
R422). -/
def onGap (s : State) (p n : Nat) (sent : Word) : State :=
  let r := portOf s p
  let v := vcOf r n
  if attachMode s p then
    let s := setPort s p (setVc r n { v with retrying := true })
    bumpPort (sendControl s p fkLinkRetry ([BitVec.ofNat 8 n] ++ zeros 3 ++ toLe 4 v.rcvd.toNat)) p 0x44
  else setPort s p (setVc r n { v with rcvd := sent, freed := v.freed + (sent - v.rcvd) })

/-- A CREDIT frame received: limits, frames that need not be kept, and the gap that the partner's SENT shows. -/
def takeCredit (s : State) (p : Nat) (l : List VcCredit) : State :=
  (l.zipIdx).foldl (fun s q =>
    let r := portOf s p
    let v := vcOf r q.2
    let r := setVc r q.2 { v with limit := q.1.limit }
    let r := { r with kept := r.kept.filter (fun k => !(decide (k.vc = q.2) && atOrBefore (k.sent + creditUnits k.body.length) q.1.rcvd)) }
    let s := setPort s p r
    if q.1.sent ≠ v.rcvd ∧ atOrBefore v.rcvd q.1.sent then onGap s p q.2 q.1.sent else s) s

/-- The channels of a CREDIT body (R417). -/
def creditsOf (b : Bytes) : List VcCredit := (List.range (b.length / 12)).map (fun n =>
  { limit := BitVec.ofNat 32 (fieldAt b (12 * n) 4), rcvd := BitVec.ofNat 32 (fieldAt b (12 * n + 4) 4),
    sent := BitVec.ofNat 32 (fieldAt b (12 * n + 8) 4) })

/-- CREDIT, with 12 B for each channel of the profile (R420). -/
def execCredit (port : Nat) (frame : Bytes) (s : State) : Result :=
  .next (takeCtl s port fkCredit frame (fun b => decide (b.length = 12 * vcCount s port) && portUp s port)
    (fun b s => maybeCredit (pumpPort (takeCredit s port (creditsOf b)) port) port))
/-- A microsecond since the last CREDIT (R420, log 6). -/
def execCreditSendTimer (port : Nat) (s : State) : Result :=
  .next (if portsRun s ∧ portUp s port then sendCredit (advanceTo s ((portOf s port).lastCreditAt + us 1)) port else s)
/-- Whether the body of a LINK_RETRY is laid out as R417 gives it. -/
def retryOk (b : Bytes) : Bool := decide (b.length = 8) && decide ((byteAt b 0).toNat < 4) && reservedZero b 1 4

/-- The kept frames of a channel from EXPECT sent again, in order (R422). R483 has any re-send set RESEND of MG_DET_STATUS: that of frames does
so too (DEDUCED, log 220). -/
def resendKept (s : State) (p vc : Nat) (expect : Word) : State :=
  let l := (portOf s p).kept.filter (fun k => decide (k.vc = vc) && atOrBefore expect k.sent)
  l.foldl (fun s k => sendLink s p fkData k.vc k.sent k.body) (if l.isEmpty then s else detBreak s detResend)

/-- LINK_RETRY (R422). The fabric profile knows no such frame. -/
def execLinkRetry (port : Nat) (frame : Bytes) (s : State) : Result :=
  .next (takeCtl s port fkLinkRetry frame (fun b => retryOk b && portUp s port && attachMode s port)
    (fun b s => resendKept s port (byteAt b 0).toNat (BitVec.ofNat 32 (fieldAt b 4 4))))

/-! ## DATA frames -/

/-- Whether a transaction from an accelerator is laid out as R423 and R424 give it for its channel. -/
def transactionOk (vc : Nat) (bs : Bytes) : Bool :=
  let op := byteAt bs 0
  let flags := (byteAt bs 1).toNat
  let len := fieldAt bs 4 2
  let n := bs.length
  let head := decide (16 ≤ n) && decide (len < 8192) && decide (byteAt bs 7 = 0)
  let noStatus := decide (byteAt bs 6 = 0)
  if op = opApWr then decide (vc = 0) && head && noStatus && decide (flags = 0) && decide (n = 24 + len) && reservedZero bs 20 24
  else if op = opApRd then decide (vc = 1) && head && noStatus && decide (flags ≤ 1) && decide (n = 24) && reservedZero bs 20 24
  else if op = opCpl then decide (vc = 2) && head && decide (flags = 0) && decide (len = 0) && decide (n = 16)
  else if op = opCplD then decide (vc = 2) && head && decide (flags = 0 ∨ flags = 2) && decide (n = 16 + len)
  else if op = opDoorbell then decide (vc = 3) && head && noStatus && decide (flags = 0) && decide (len = 0) && decide (n = 16)
  else false

/-- A transaction that breaks the layout: a violation, and CPL with PROTOCOL where it is an aperture access whose TAG can be
read (R432). -/
def badTransaction (s : State) (p vc : Nat) (sent : Word) (bs : Bytes) : State :=
  let s := maybeCredit (returnUnits s p vc (creditUnits bs.length)) p
  let s := if (byteAt bs 0 = opApWr ∨ byteAt bs 0 = opApRd) ∧ 4 ≤ bs.length
    then attachAnswer s p (BitVec.ofNat 16 (fieldAt bs 2 2)) stProtocol (fieldAt bs 8 8) [] else s
  violation s p nakMalformed vc sent

/-- A frame that is the next of its channel. An aperture access holds its credit until it becomes a packet (R427). On a fabric port the
header's reserved bits and the padding of a DATA frame are not judged: R408 calls control frames alone malformed (DESIGN CHOICE, log 201). -/
def acceptFrame (s : State) (p : Nat) (f : LinkFrame) : State :=
  let n := f.vc
  let u := creditUnits f.body.length
  let r := portOf s p
  let s := setPort s p (setVc r n { vcOf r n with rcvd := f.sent + u, retrying := false })
  if !attachMode s p then maybeCredit (returnUnits s p n u) p
  else if !f.clean || !transactionOk n f.body then badTransaction s p n f.sent f.body
  else if n = 2 ∨ n = 3 then maybeCredit (returnUnits s p n u) p
  else s

/-- A DATA frame: its channel, its credit, and its place in the channel (R419 to R422). -/
def takeFrame (s : State) (p : Nat) (f : LinkFrame) : State :=
  let n := f.vc
  let v := vcOf (portOf s p) n
  let u := creditUnits f.body.length
  if !attachMode s p ∧ n ≠ 0 then violation s p nakMalformed n f.sent
  else if !atOrBefore (f.sent + u) v.advertised then violation s p nakCreditOverrun n f.sent
  else if f.sent = v.rcvd then acceptFrame s p f
  else if atOrBefore f.sent v.rcvd then s
  else if attachMode s p then (if v.retrying then s else onGap s p n f.sent)
  else acceptFrame (onGap s p n f.sent) p f

/-- A frame that is no control frame with a row of its own: DATA on a port that is UP, a LINK_NAK, to which the module does nothing,
or a reserved kind, which no port expects (R408, R417). -/
def takeOther (s : State) (p : Nat) (f : LinkFrame) : State :=
  if f.kind = fkData then (if portUp s p then takeFrame s p f else s)
  else if f.kind = fkLinkNak ∧ f.clean ∧ f.vc = 0 ∧ f.sent = 0 ∧ f.body.length = 8 ∧ reservedZero f.body 2 4 then s
  else badFrame s p f

/-- DATA_FRAME_RECEIVE (R420), and the kinds that have no row (log 56). -/
def execDataFrameReceive (port : Nat) (frame : Bytes) (s : State) : Result :=
  .next (takeFrameOf s port (fkData :: fkLinkNak :: (List.range 8).map (· + 8)) frame (fun f s => takeOther s port f))

/-! ## The accelerator's transactions -/

/-- Whether an attach port takes transactions. -/
def attachUp (s : State) (p : Nat) : Bool := portsRun s && portUp s p && attachMode s p

/-- Whether an access with this tag is still unanswered on the port: an issuer does not use the tag again (R423). -/
def apBusy (s : State) (p : Nat) (t : BitVec 16) : Bool := (apertureAt s (p, t)).isSome

/-- AP_WR (R427, R428). -/
def execApWr (port : Nat) (tag : BitVec 16) (ctx : CtxId) (window : BitVec 12) (addr : DWord) (data : Bytes) (s : State) : Result :=
  .next (if !attachUp s port ∨ apBusy s port tag then s
    else settle (takeAperture s
      { port := port, tag := tag, read := false, vol := false, ctx := ctx, window := window, addr := addr, data := data, len := data.length, sent := false }))
/-- AP_RD (R427, R428). -/
def execApRd (port : Nat) (tag : BitVec 16) (ctx : CtxId) (window : BitVec 12) (addr : DWord) (len : Nat) (vol : Bool) (s : State) : Result :=
  .next (if !attachUp s port ∨ apBusy s port tag then s
    else settle (takeAperture s
      { port := port, tag := tag, read := true, vol := vol, ctx := ctx, window := window, addr := addr, data := zeros len, len := len, sent := false }))

/-- The bytes that a request's completion has to bring: those of an MRD not yet come, or the old value of a MATOMIC. -/
def bytesAwaited (r : AttachReq) : Nat := if r.op = opMrd then r.len - r.data.length else if r.op = opMatomic then r.len else 0

/-- The SENT of the DATA frame that brought a transaction of so many bytes: the units counted on its channel before it (log 56). -/
def sentOfLast (s : State) (p vc len : Nat) : Word := (vcOf (portOf s p) vc).rcvd - creditUnits len

/-- A completion that breaks the rules of R424 or R432. -/
def badCpl (s : State) (p : Nat) (d : CplData) : State := violation s p nakMalformed 2 (sentOfLast s p 2 (16 + d.bytes.length))

/-- Whether a frame of a read's answer is the next one: in address order, up to a 256 B boundary or to the end of the request, where
alone it has LAST (R424). -/
def cplFits (r : AttachReq) (d : CplData) : Bool :=
  let at_ := r.addr + r.data.length
  let n := d.bytes.length
  let ends := decide (n = bytesAwaited r)
  decide (1 ≤ n) && decide (n ≤ bytesAwaited r) && decide (d.addr.toNat = at_ % spaceSize) && (ends || decide ((at_ + n) % 256 = 0)) &&
    (d.last == ends)

/-- A completion on a port (R424, R431, R432): of a read, one frame after another adds its data until all have come. R408 and R432 do not
list an answer that breaks R424: it counts as malformed (DESIGN CHOICE, log 202). -/
def takeCpl (s : State) (p : Nat) (tag : BitVec 16) (status : Byte) (d : CplData) : State :=
  match s.attReqs.find? (fun r => decide (r.port = p) && decide (r.tag = tag)) with
  | none => if tag ∈ (portOf s p).dead then bumpPort s p 0x4C else badCpl s p d
  | some r =>
    if status ≠ 0 then complete s r status []
    else if r.op = opMrd then
      (if !cplFits r d then badCpl s p d
       else if !d.last then
         { s with attReqs := s.attReqs.map (fun x => if x.port = p ∧ x.tag = tag then { x with data := x.data ++ d.bytes } else x) }
       else complete s r 0 (r.data ++ d.bytes))
    else if d.bytes.length ≠ bytesAwaited r then badCpl s p d
    else complete s r 0 d.bytes

/-- CPL and CPL_D (R431). -/
def execCpl (port : Nat) (tag : BitVec 16) (status : Byte) (data : CplData) (s : State) : Result :=
  .next (if attachUp s port then settle (takeCpl s port tag status data) else s)

/-- 500 µs without an answer: the port goes DOWN with cause RETRAIN, and the tag is not used again until the port next leaves
UP (R432, R433, log 6). -/
def execAttachTimeout (port : Nat) (tag : BitVec 16) (s : State) : Result :=
  .next (match s.attReqs.find? (fun r => decide (r.port = port) && decide (r.tag = tag)) with
    | none => s
    | some r =>
      if !attachUp s port then s
      else
        let s := bumpPort (advanceTo s r.deadline) port 0x48
        settle (tryTrain (updPort (takeDown s port caRetrain) port (fun x => { x with dead := [tag] })) port))

end Sys2Proof.Machine
end

