-- ==== Sys2Proof/Machine/Doorbells.lean ====
section
/-!
DEFINITION. Doorbells over the attach link and the pages of BAR4 (R171, R172, R426, R581).
-/
namespace Sys2Proof.Machine

open Sys2Proof

/-- A doorbell from an accelerator: a bad one is also a violation of the port that carried it (R172, R426, R432). -/
def attachDoorbell (s : State) (p kind : Nat) (d : DWord) : State :=
  if !attachUp s p then s
  else
    let b := p / 2
    let r := if dbQueue d < 512 then doorbell s b (dbQueue d) kind d else (badDoorbell s b (dbQueue d) d, false)
    if r.2 then r.1 else violation r.1 p nakMalformed 3 (sentOfLast s p 3 16)

/-- A write to a doorbell page that is no doorbell, or whose block is absent or not in service (R581). -/
def badPage (s : State) (page : Nat) (data : Bytes) : State :=
  let b := page / 8
  let d := BitVec.ofNat 64 (fieldAt data 0 8)
  if b < blockCount s.variant then badDoorbell s b (dbQueue d) d
  else logEvent s .command (ordEp (epDieOf s.variant b)) (toLe 2 b ++ toLe 2 (dbQueue d) ++ zeros 4 ++ toLe 8 d.toNat) 172

/-- A doorbell on a page of BAR4: QUEUE is that of the page's host queue (R171, R581). -/
def pageDoorbell (s : State) (page kind : Nat) (d : DWord) : State :=
  let b := page / 8
  if !controlRuns s ∨ !s.host.answering then s
  else if !configurable s ∨ blockCount s.variant ≤ b ∨ !blockServes s b then badPage s page (toLe 8 d.toNat)
  else if dbQueue d ≠ 512 + page % 8 then badDoorbell s b (dbQueue d) d
  else (doorbell s b (dbQueue d) kind d).1

/-- A doorbell on either path. -/
def ring (s : State) (path : DbPath) (kind : Nat) (d : DWord) : State := match path with
  | .attach p => attachDoorbell s p kind d
  | .page h => pageDoorbell s h kind d

/-- A doorbell with KIND 0: it closes one hoist; what the submitter stored before it is in memory (R146, R172, R173). -/
def execSubmissionDoorbell (path : DbPath) (doorbell : DWord) (env : Env) (s : State) : Result :=
  .next (settle (ring (applyEnv s env) path 0 doorbell))
/-- A doorbell with KIND 1: completion entries become free (R172). -/
def execConsumerDoorbell (path : DbPath) (doorbell : DWord) (s : State) : Result := .next (settle (ring s path 1 doorbell))
/-- Any write to a doorbell page (R581): an aligned 8-byte one at offset 0 is a doorbell. Outside MAINT and SERVICE no block serves a queue,
and every write is bad. -/
def execHostDoorbellPageWrite (page off : Nat) (data : Bytes) (s : State) : Result :=
  .next (if !controlRuns s ∨ !s.host.answering then s
    else if off = 0 ∧ data.length = 8 then
      let d := BitVec.ofNat 64 (leNat data)
      settle (pageDoorbell s page (dbKind d) d)
    else badPage s page data)

end Sys2Proof.Machine
end

