-- ==== Sys2Proof/Machine/Combining.lean ====
section
/-!
DEFINITION. Combining in flight (R219, R235): the windows of the reduction dies, and the COMBINED_ADD packets that they send.
-/
namespace Sys2Proof.Machine

open Sys2Proof

/-! ## Constituents -/

/-- A packet that a die can combine, opened: the operand width and the constituent entries (R219); none where the packet is not
combinable or cannot be opened here, and so goes on unchanged. -/
def combinable (s : State) (p : Packet) : Option (Bool × List Bytes) :=
  let h := p.hdr
  if !accepted s 6 || malformed s p || decide (h.dgen ≠ genOf s h.dst) || decide (h.sgen ≠ genOf s h.src) || burgeeDead s h then none
  else match openPacket s p with
    | .ok payload =>
      if h.ptype = tyOrdered ∧ flagCombinable h ∧ (h.opcode = 0x20 ∨ h.opcode = 0x30) then
        some (decide (h.opcode = 0x30), [fit 8 payload ++ toLe 2 h.src.toNat ++ toLe 2 h.tag.toNat ++ toLe 4 h.seq.toNat])
      else if h.ptype = tyColl ∧ h.opcode = 0x10 ∧ flagCombinable h ∧ combinedOk h payload then
        some (decide (fieldAt payload 2 1 = 1), (List.range (fieldAt payload 0 2)).map (fun i => slice payload (16 * i + 16) 16))
      else none
    | _ => none

/-- The time for which a window stays open: 256 ns, in whole cycles. -/
def windowCycles : Nat := 666

/-- The most constituents of a window. -/
def windowMost : Nat := 255

/-- Whether two packets are for one target: DST_FID, burgee, REGION, OFFSET and width. -/
def sameTarget (s : State) (p q : Packet) : Bool :=
  decide (p.hdr.dst = q.hdr.dst) && decide (p.hdr.burgee = q.hdr.burgee) && decide (p.hdr.region = q.hdr.region) &&
  decide (p.hdr.offset = q.hdr.offset) && decide ((combinable s p).map (·.1) = (combinable s q).map (·.1))

/-- Whether a die's window takes a packet of `n` constituents now. -/
def takesInto (s : State) (d : Nat) (p : Packet) (n : Nat) (w : Window) : Bool :=
  decide (w.die = d) && decide (s.now ≤ w.closeAt) && decide (w.total + n ≤ windowMost) &&
  (match w.pkts with
   | [] => false
   | q :: _ => sameTarget s q p)

/-- A combinable packet put into the window for its target, or into a new one; `windows` is in the order of opening. -/
def addToWindow (d : Nat) (p : Packet) (n : Nat) (fits : Window → Bool) (new : Window) : List Window → List Window
  | [] => [new]
  | w :: ws => if fits w then { w with pkts := w.pkts ++ [p], total := w.total + n } :: ws else w :: addToWindow d p n fits new ws

/-- The constituents counted at the die (R235). -/
def countIn (s : State) (d : Nat) : Nat → State
  | 0 => s
  | n + 1 => countIn (bump s (ariBase d + 0x600)) d n

/-- A packet that the die sends on as it came; a COMBINED_ADD is counted as one that it sends (R235). -/
def forwardOne (d : Nat) (s : State) (p : Packet) : State :=
  let s := emit s (.packet (unitAri d) p)
  if p.hdr.ptype = tyColl then bump s (ariBase d + 0x604) else s

/-- A packet with flag COMBINABLE at the die that it was steered to. -/
def takeCombinable (s : State) (p : Packet) : State := match combineDie s p.hdr with
  | none => s
  | some d => match combinable s p with
    | none => forwardOne d s p
    | some (_, l) =>
      let new : Window := { die := d, pkts := [p], total := l.length, closeAt := s.now + windowCycles }
      countIn { s with windows := addToWindow d p l.length (takesInto s d p l.length) new s.windows } d l.length

/-! ## Closing a window -/

/-- The payload of a COMBINED_ADD (R219). -/
def combinedPayload (wide : Bool) (l : List Bytes) : Bytes :=
  toLe 2 l.length ++ [BitVec.ofNat 8 (b01 wide)] ++ zeros 13 ++ l.flatten

/-- A COMBINED_ADD that a die builds for the target of packet `p`: outstanding until the home's ACK (R219, R220). -/
def sendCombined (s : State) (d : Nat) (p : Packet) (wide : Bool) (l : List Bytes) (merged : List Header) : State :=
  let u := unitAri d
  let ctx := burgeeCtx p.hdr
  let epoch := burgeeEpoch p.hdr
  let n := nextNonce s u ctx epoch
  let payload := combinedPayload wide l
  let h : Header := { blankHdr with
    ptype := tyColl, cls := p.hdr.cls, flags := flagsOf false (ctxEnc s ctx) false false true false, dst := p.hdr.dst, src := me s,
    burgee := p.hdr.burgee, opcode := 0x10, length := BitVec.ofNat 13 payload.length, seq := BitVec.ofNat 32 (builtBy s u),
    tag := BitVec.ofNat 16 (u * 512), hint := BitVec.ofNat 8 (builtBy s u), region := p.hdr.region, offset := p.hdr.offset,
    cnonce := BitVec.ofNat 60 (u * 2 ^ 52 + n), sgen := genOf s (me s), dgen := p.hdr.dgen }
  let s := bump { s with nonces := Tab.put s.nonces (u, ctx, epoch) (n + 1) } (ariBase d + 0x604)
  firstSend s u (sealPacket ((packetKey s ctx epoch).getD []) h payload) (.combined merged) none none

/-- Packets of a window go on as they came. -/
def forwardAll (s : State) (d : Nat) (l : List Packet) : State := l.foldl (forwardOne d) s

/-- A window closed: one packet goes on unchanged, and more go on as one COMBINED_ADD; where a key has gone meanwhile, or the
die's count under the epoch is used up (R76), each goes on unchanged. -/
def closeWindow (s : State) (w : Window) : State := match w.pkts with
  | [] => s
  | [p] => forwardOne w.die s p
  | p :: _ =>
    let parts := w.pkts.map (combinable s)
    let blocked := decide (2 ^ 52 ≤ nextNonce s (unitAri w.die) (burgeeCtx p.hdr) (burgeeEpoch p.hdr))
    if blocked || parts.any (·.isNone) then
      forwardAll (if blocked then logSecurity s (burgeeCtx p.hdr) 0 0 (burgeeEpoch p.hdr).toNat 76 else s) w.die w.pkts
    else
      let merged := (w.pkts.filter (fun q => decide (q.hdr.ptype = tyColl))).map (·.hdr)
      sendCombined s w.die p (parts.any (fun x => (x.map (·.1)).getD false)) (parts.flatMap (fun x => (x.map (·.2)).getD [])) merged

/-- The window of a die that closes next. -/
def nextWindow (s : State) (d : Nat) : Option Window :=
  (s.windows.filter (fun w => decide (w.die = d))).foldl (fun best w =>
    match best with
    | none => some w
    | some x => if w.closeAt < x.closeAt then some w else some x) none

/-- Every packet that a die holds for combining lost with the die (R83, R220: the sources re-send). -/
def dropWindows (s : State) (d : Nat) : State := { s with windows := s.windows.filter (fun w => decide (w.die ≠ d)) }

/-! ## The rows -/

/-- A COMBINABLE packet reaches its reduction die (R219). -/
def execCombinablePacketArrive (pkt : Packet) (s : State) : Result := .next (if inService s then takeCombinable s pkt else s)
/-- The next window of a die closes (R219, log 6). -/
def execCombineWindowClose (die : Nat) (s : State) : Result :=
  .next (match (if inService s then nextWindow s die else none) with
    | none => s
    | some w => closeWindow { advanceTo s w.closeAt with windows := s.windows.erase w } w)

end Sys2Proof.Machine
end

