-- ==== Sys2Proof/Machine/LaneSwaps.lean ====
section
/-!
DEFINITION. The hitless swap of a lane onto the spare lane 8 (R407): the end that replaces a lane, the partner that follows, the
markers at which each direction switches, and the waits that end a swap.
-/
namespace Sys2Proof.Machine

open Sys2Proof

/-! ## The swap of a port -/

/-- A port's swap replaced. -/
def setSwap (s : State) (p : Nat) (w : Option LaneSwap) : State := updPort s p (fun r => { r with swap := w })

/-- A swap of a lane that begins at one end. -/
def newSwap (lane : Nat) (initiator : Bool) (now : Nat) : LaneSwap where
  lane := lane
  initiator := initiator
  asked := false
  lane8Locked := false
  readySeen := false
  named := false
  peerNamed := false
  marker := 0
  peerMarker := 0
  txDone := false
  rxDone := false
  startedAt := now

/-- Whether lane 8 of a port can take the place of a lane: the port is UP at x8 on lanes 0 to 7, and neither lane is out. -/
def canSwap (s : State) (p lane : Nat) : Bool :=
  let r := portOf s p
  decide (r.state = .up) && decide (r.active = 0xFF) && decide (lane < 8) && !r.lanesFailed.getLsbD 8

/-- Lane 8 activated for a swap that begins; a test of it that runs is ended (R532). -/
def beginLaneSwap (s : State) (p lane : Nat) (initiator : Bool) : State :=
  let r := portOf s p
  let s' := updPort s p (fun r => { r with swap := some (newSwap lane initiator s.now), lane8On := true, lane8Eyes := [] })
  if r.lane8On then logLane s' p .testing (spareLaneState r) 532 else emit s' (.sideband p sbLane8On)

/-- A swap that is given up: the port keeps its lanes, and lane 8 is deactivated. -/
def dropLaneSwap (s : State) (p : Nat) : State :=
  emit (updPort s p (fun r => { r with swap := none, lane8On := false })) (.sideband p sbLane8Off)

/-- Hundredths of a cell-clock cycle between two markers: 6.5536 µs (R397). -/
def markerTicks : Nat := 1703936

/-- The markers that a port has transmitted since it came UP. The count starts there (DESIGN CHOICE, log 203; R397, R407). -/
def markersSent (s : State) (r : Port) : Nat := (s.now - r.upAt) * 100 / markerTicks

/-- When a port transmits a marker. -/
def markerTime (r : Port) (n : Nat) : Nat := r.upAt + ceilDiv (n * markerTicks) 100

/-- The marker count that an end names: 4 markers ahead of its transmitted count (R407, steps 3 and 4). -/
def nextMarker (s : State) (r : Port) : Word := BitVec.ofNat 32 (markersSent s r + 4)

/-- The frame that names an end's marker: SWAP_REQ from the end that replaces a lane, SWAP_READY from its partner. -/
def sendNaming (s : State) (p : Nat) (w : LaneSwap) : State :=
  sendControl s p (if w.initiator then fkSwapReq else fkSwapReady) (swapBytes w.lane true w.marker)

/-- An end names its marker. -/
def nameMarker (s : State) (p : Nat) (w : LaneSwap) : State :=
  let w := { w with named := true, marker := nextMarker s (portOf s p), copied := markersSent s (portOf s p) }
  sendNaming (setSwap s p (some w)) p w

/-- The naming frame sent again in each marker interval that has begun since its last copy, up to the named marker (R407, step 3). -/
def sendCopies (s : State) (p : Nat) : State := match (portOf s p).swap with
  | none => s
  | some w =>
    if !w.named ∨ w.txDone then s
    else
      let upTo := min (markersSent s (portOf s p)) (w.copied + (w.marker - BitVec.ofNat 32 w.copied).toNat - 1)
      (List.range (upTo - w.copied)).foldl (fun s _ => sendNaming s p w) (setSwap s p (some { w with copied := max w.copied upTo }))

/-- The copies of naming frames that fall due on every port (R407). -/
def copyNames (s : State) : State :=
  if portsRun s then ((s.ports.filter (fun e => e.2.swap.isSome && decide (e.2.state = .up))).map (·.1)).foldl sendCopies s else s

/-- Both directions run on lane 8: lane 8 is in service, and the end that replaced a lane records it as failed and counts the swap (R407, step
5, R483, R533). -/
def endLaneSwap (s : State) (p : Nat) (w : LaneSwap) : State :=
  let s := takeLane8 (updPort s p (fun r => { r with swap := none, active := (r.active &&& ~~~((1 : BitVec 9) <<< w.lane)) ||| 0x100 })) p
  if w.initiator then countSwap (failLane (countEvent s (ptBase p + 0x2C) (ptBase p + 0x14) 2) p w.lane) else detBreak s detTopology

/-- A swap whose directions may both have switched. -/
def checkLaneSwap (s : State) (p : Nat) (w : LaneSwap) : State :=
  if w.txDone ∧ w.rxDone then endLaneSwap s p w else setSwap s p (some w)

/-! ## The frames -/

/-- The fabric ID that the partner of a port that is UP presented in its LINK_INIT (R404, R418). -/
def presentedBy (s : State) (p : Nat) : Fid := match (portOf s p).peerInit with
  | none => partnerFid s p
  | some m => m.fid

/-- The first SWAP_REQ of a partner, with NAMED 0. Where both ends ask, the request of the lower fabric ID stands. -/
def takeRequest (s : State) (p lane : Nat) : State := match (portOf s p).swap with
  | none => if canSwap s p lane then beginLaneSwap s p lane false else badControl s p
  | some w =>
    if w.initiator then
      (if (presentedFid s p).toNat < (presentedBy s p).toNat then s
       else if canSwap s p lane then beginLaneSwap s p lane false
       else badControl s p)
    else if w.lane = lane then s
    else badControl s p

/-- SWAP_REQ from the partner (R407, steps 1, 3 and 4). -/
def takeSwapReq (s : State) (p : Nat) (lane : Byte) (named : Bool) (marker : Word) : State :=
  if !named then takeRequest s p lane.toNat
  else match (portOf s p).swap with
    | none => badControl s p
    | some w =>
      if w.initiator ∨ !w.lane8Locked ∨ w.lane ≠ lane.toNat then badControl s p
      else if w.peerNamed then s
      else nameMarker s p { w with peerNamed := true, peerMarker := marker }

/-- SWAP_READY from the partner (R407, steps 2 to 4). -/
def takeSwapReady (s : State) (p : Nat) (lane : Byte) (named : Bool) (marker : Word) : State := match (portOf s p).swap with
  | none => badControl s p
  | some w =>
    if !w.initiator ∨ !w.asked ∨ w.lane ≠ lane.toNat then badControl s p
    else if named then
      (if !w.named then badControl s p
       else if w.peerNamed then s
       else setSwap s p (some { w with peerNamed := true, peerMarker := marker }))
    else if w.readySeen then s
    else
      let w := { w with readySeen := true, startedAt := s.now }
      if w.lane8Locked then nameMarker s p w else setSwap s p (some w)

/-- The receiver on lane 8 is locked and aligned (R407, steps 2 and 3). -/
def lane8Locks (s : State) (p : Nat) : State := match (portOf s p).swap with
  | none => s
  | some w =>
    if w.lane8Locked then s
    else
      let w := { w with lane8Locked := true }
      if w.initiator then (if w.readySeen then nameMarker s p w else setSwap s p (some w))
      else sendControl (setSwap s p (some { w with startedAt := s.now })) p fkSwapReady (swapBytes w.lane false 0)

/-- A direction reaches its named marker and switches to lane 8 (R407, steps 3 and 4). -/
def atMarker (s : State) (p : Nat) (transmit : Bool) : State := match (portOf s p).swap with
  | none => s
  | some w =>
    if transmit then
      (if !w.named ∨ w.txDone then s
       else
         let s := sendCopies (advanceTo s (markerTime (portOf s p) (w.copied + (w.marker - BitVec.ofNat 32 w.copied).toNat))) p
         checkLaneSwap s p { w with txDone := true })
    else if !w.peerNamed ∨ w.rxDone then s
    else checkLaneSwap s p { w with rxDone := true }

/-- 10 ms without SWAP_READY, or without lock after it, or at the partner without a named marker (R407, log 6). -/
def laneSwapOver (s : State) (p : Nat) : State := match (portOf s p).swap with
  | none => s
  | some w =>
    let s' := advanceTo s (w.startedAt + us 10000)
    if w.initiator then
      (if w.named ∨ !w.asked then s else logPort (dropLaneSwap s' p) p (portOf s p).cause.toNat 0 407)
    else if w.peerNamed ∨ !w.lane8Locked then s
    else dropLaneSwap s' p

/-! ## The rows -/

/-- Whether a port takes the events of a swap. A port that is not UP expects none of its frames (R408). -/
def swapPort (s : State) (p : Nat) : Bool := portsRun s && portUp s p

/-- A frame of a swap taken on a port that is UP. -/
def takeSwapFrame (s : State) (p kind : Nat) (frame : Bytes) (k : State → Nat → Byte → Bool → Word → State) : State :=
  takeCtl s p kind frame (fun b => swapOk b && portUp s p)
    (fun b s => k s p (byteAt b 0) (decide (byteAt b 1 = 1)) (BitVec.ofNat 32 (fieldAt b 4 4)))

/-- SWAP_REQ (R407). -/
def execSwapReq (port : Nat) (frame : Bytes) (s : State) : Result :=
  .next (takeSwapFrame s port fkSwapReq frame (takeSwapReq))
/-- SWAP_READY (R407). -/
def execSwapReady (port : Nat) (frame : Bytes) (s : State) : Result :=
  .next (takeSwapFrame s port fkSwapReady frame (takeSwapReady))
/-- SPARE_LANE_LOCK (R407). -/
def execSpareLaneLock (port : Nat) (s : State) : Result := .next (if swapPort s port then lane8Locks s port else s)
/-- SWAP_MARKER (R407). -/
def execSwapMarker (port : Nat) (transmit : Bool) (s : State) : Result := .next (if swapPort s port then atMarker s port transmit else s)
/-- SWAP_TIMEOUT (R407). -/
def execSwapTimeout (port : Nat) (s : State) : Result := .next (if swapPort s port then laneSwapOver s port else s)

end Sys2Proof.Machine
end

