-- ==== Sys2Proof/Machine/Security.lean ====
section
/-!
DEFINITION. The security processor: ensign sessions and reports (R449, R452 to R455), key messages (R456 to R461), the mailbox
and forwarding (R450, R451), images and the boot control record (R443 to R445), and firmware updates (R448).
-/
namespace Sys2Proof.Machine

open Sys2Proof

/-! ## Results and messages (R452, R457) -/

def rsOk : Byte := 0x00
def rsOwner : Byte := 0x01
def rsNoContext : Byte := 0x02
def rsEpoch : Byte := 0x03
def rsState : Byte := 0x04
def rsMalformed : Byte := 0x05
def rsReplay : Byte := 0x06
def rsAuth : Byte := 0x07
def rsBusy : Byte := 0x08
def rsBadPoint : Byte := 0x09

/-- The 16-byte header of an ensign message. -/
def ensignHdr (type : Byte) (len session seq : Nat) : Bytes := [type, 0x01] ++ toLe 2 len ++ toLe 4 session ++ toLe 8 seq

def msgType (m : Bytes) : Nat := (byteAt m 0).toNat
def msgSession (m : Bytes) : Word := BitVec.ofNat 32 (fieldAt m 4 4)
def msgSeq (m : Bytes) : Nat := fieldAt m 8 8

/-- The length of a message of a type that a tenant sends. -/
def msgLen (type : Nat) : Option Nat :=
  if type = 1 then some 156 else if type = 3 then some 168 else if type = 4 ∨ type = 5 then some 72 else if type = 6 then some 40 else none

/-- Whether a message's header and length fit its type. -/
def msgOk (m : Bytes) : Bool := match msgLen (msgType m) with
  | none => false
  | some n => decide (m.length = n) && decide (byteAt m 1 = 1) && decide (fieldAt m 2 2 = n)

/-- A REFUSE, counted and logged (R455, R457). -/
def refuse (s : State) (m : Bytes) (ctx : CtxId) (result : Byte) : State × Bytes :=
  (countEvent (logSecurity s ctx result (msgSession m) 0 457) (secBase + 0x38) secBase 1,
   ensignHdr 0x7F 24 (msgSession m).toNat (msgSeq m) ++ [result] ++ zeros 7)

/-! ## HELLO (R449, R453, R454) -/

/-- A scalar from 48 drawn bytes, between 1 and the order less 1. -/
def scalarOf (bs : Bytes) : Nat := leNat bs % (bpN - 1) + 1

/-- An unused SESSION_ID other than 0: the drawn one, or else the smallest. -/
def pickSession (s : State) (drawn : Nat) : Nat :=
  let free := fun n => decide (n ≠ 0) && !Tab.has s.sec.sessions (BitVec.ofNat 32 n)
  if free drawn then drawn else ((List.range 66).find? free).getD 1

/-- Bytes 0 to 671 of the ensign report (R449). -/
def reportBody (s : State) (hello nonce eph : Bytes) (session : Nat) : Bytes :=
  toLe 4 0xE5A90001 ++ [0x01, BitVec.ofNat 8 s.role.toNat, 0, 0] ++
  toLe 2 (bits (reg s glbBase).toNat 31 16) ++ [BitVec.ofNat 8 (bits (reg s glbBase).toNat 15 8), 0] ++
  moduleSerial s ++ (List.range 4).flatMap (fun i => toLe 4 (reg s (glbBase + 0x10 + 4 * i)).toNat) ++
  [BitVec.ofNat 8 s.sec.fusesBlown, s.sec.svn, BitVec.ofNat 8 s.sec.bootSlot, 0] ++ fit 384 s.sec.meas.flatten ++
  slice hello 24 32 ++ nonce ++ eph ++ zeros 7 ++ sha384 hello ++ toLe 4 session ++ toLe 4 (reg s (glbBase + 0xC)).toNat ++ zeros 16

/-- "skadris-ensign-v1". -/
def ensignInfo : Bytes :=
  [0x73, 0x6B, 0x61, 0x64, 0x72, 0x69, 0x73, 0x2D, 0x65, 0x6E, 0x73, 0x69, 0x67, 0x6E, 0x2D, 0x76, 0x31]

/-- The layout of a HELLO. -/
def helloOk (m : Bytes) : Bool :=
  msgOk m && decide (msgSession m = 0) && decide (msgSeq m = 0) && decide (fieldAt m 16 4 < 2 ^ 20) && decide (fieldAt m 16 4 ≠ 0) &&
  reservedZero m 20 24 && reservedZero m 153 156

/-- A HELLO that passes its checks: the session, and the ENSIGN. -/
def openSession (s : State) (m : Bytes) (ctx : CtxId) : State × Bytes :=
  let (nonce, s) := draw s 32
  let (priv, s) := draw s 48
  let (secret, s) := draw s 48
  let (number, s) := draw s 4
  let d := scalarOf priv
  let id := pickSession s (leNat number)
  let body := reportBody s m nonce (pointBytes (publicOf d)) id
  let report := body ++ ecdsaSign (Config.identityScalar) (scalarOf secret) body
  let ensign := ensignHdr 0x02 1040 id 0 ++ report ++ memRead s (flashAddr 0) 256
  let okm := hkdf (slice m 24 32 ++ nonce) (ecdhX d (pointOf (slice m 56 97))) (ensignInfo ++ sha384 (m ++ ensign)) 64
  let x : Session := { ctx := ctx, toModule := okm.take 32, toTenant := okm.drop 32, lastSeq := 0, reply := [], lastAt := s.now }
  ({ s with sec := { s.sec with sessions := Tab.put s.sec.sessions (BitVec.ofNat 32 id) x } }, ensign)

/-- HELLO: recovery firmware refuses every one with STATE (R447, R453). -/
def takeHello (s : State) (m : Bytes) : State × Bytes :=
  let ctx : CtxId := BitVec.ofNat 20 (fieldAt m 16 4)
  if recovery s then refuse s m ctx rsState
  else if !helloOk m then refuse s m ctx rsMalformed
  else if (pointOf (slice m 56 97)).isNone then refuse s m ctx rsBadPoint
  else if 64 ≤ s.sec.sessions.length then refuse s m ctx rsBusy
  else openSession s m ctx

/-! ## Keys (R458 to R461) -/

/-- The key store entry of a context. -/
def keysOf (s : State) (c : CtxId) : KeyEntry := Tab.getD s.sec.keys c KeyEntry.blank

/-- The state with a context's key store entry replaced. -/
def setKeys (s : State) (c : CtxId) (k : KeyEntry) : State := { s with sec := { s.sec with keys := Tab.put s.sec.keys c k } }

/-- What every key message is checked for: the context, its state, and the claim (R457 to R459). -/
def keyRefusal (s : State) (c : CtxId) (claim : Bytes) : Option Byte :=
  match ctxOf s c with
  | none => some rsNoContext
  | some x =>
    if !x.enc then some rsNoContext
    else if x.teardown || recovery s then some rsState
    else match (keysOf s c).claim with
      | none => none
      | some h => if h = sha384 claim then none else some rsOwner

/-- Whether a live epoch is absent, or epoch e follows the one that is live (R459). -/
def followsLive (k : KeyEntry) (e : BitVec 4) : Bool := match k.live with
  | [] => true
  | [(f, _)] => decide (e = f + 1)
  | _ => false

/-- KEY_INSTALL of a body (R459). -/
def install (s : State) (c : CtxId) (b : Bytes) : State × Byte :=
  let claim := slice b 0 32
  let flags := (byteAt b 33).toNat
  let e : BitVec 4 := BitVec.ofNat 4 (byteAt b 32).toNat
  let harbour := bit flags 0
  let k := keysOf s c
  if allZero claim ∨ 16 ≤ (byteAt b 32).toNat ∨ 4 ≤ flags ∨ !reservedZero b 34 40 ∨ (!harbour ∧ !allZero (slice b 72 64)) then (s, rsMalformed)
  else match keyRefusal s c claim with
    | some r => (s, r)
    | none =>
      let retired : Bool := match Tab.get? k.retired e with
        | none => false
        | some t => decide (s.now < t + us 400)
      if Tab.has k.live e ∨ !followsLive k e ∨ retired then (s, rsEpoch)
      else if harbour ∧ k.harbour.isSome then (s, rsState)
      else
        let sends := bit flags 1 || k.live.isEmpty
        let k' := { k with
          live := Tab.put k.live e (slice b 40 32), send := if sends then some e else k.send,
          harbour := if harbour then some (slice b 72 64) else k.harbour, claim := some (k.claim.getD (sha384 claim)) }
        let s := { s with nonces := s.nonces.filter (fun n => !(decide (n.1.2.1 = c) && decide (n.1.2.2 = e))) }
        (resumeEpoch (setKeys s c k') c e sends, rsOk)

/-- The layout of KEY_ACTIVATE and KEY_RETIRE. -/
def epochBodyOk (b : Bytes) : Bool := !allZero (slice b 0 32) && decide ((byteAt b 32).toNat < 16) && reservedZero b 33 40

/-- KEY_ACTIVATE of a body (R460). -/
def activate (s : State) (c : CtxId) (b : Bytes) : State × Byte :=
  let e : BitVec 4 := BitVec.ofNat 4 (byteAt b 32).toNat
  if !epochBodyOk b then (s, rsMalformed)
  else match keyRefusal s c (slice b 0 32) with
    | some r => (s, r)
    | none =>
      let k := keysOf s c
      if !Tab.has k.live e then (s, rsEpoch)
      else if k.send = some e then (s, rsOk)
      else (resumeEpoch (setKeys s c { k with send := some e }) c e true, rsOk)

/-- Whether an outstanding request was built under an epoch of a context. -/
def builtUnder (c : CtxId) (e : BitVec 4) (r : OutReq) : Bool :=
  decide (burgeeCtx r.pkt.hdr = c) && decide (burgeeEpoch r.pkt.hdr = e) && decide (r.pkt.hdr.ptype ≠ tyMgmt)

/-- The collectives with packets built under an epoch at the module, answered or not, end with ABORT (R461). -/
def abortUnder (s : State) (c : CtxId) (e : BitVec 4) : State :=
  let mine := (s.collBuilt.filter (fun x => decide (x.1.ctx = c) && decide (x.2 = e))).map (·.1)
  let runs := fun (s : State) (k : CollKey) => s.colls.any (fun x => decide (x.key = k)) || s.launches.any (fun l => decide (l.key = k))
  mine.foldl (fun s k =>
    if runs s k then (match planAt s k.group k.epoch with
      | none => dropColl s k
      | some p => abortUp s p k stKeyInvalid) else s)
    { s with collBuilt := s.collBuilt.filter (fun x => !(decide (x.1.ctx = c) && decide (x.2 = e))) }

/-- An epoch retired: its key is gone, another live epoch sends, and what was built under it ends (R461). -/
def retire (s : State) (c : CtxId) (e : BitVec 4) : State :=
  let k := keysOf s c
  let live := Tab.del k.live e
  let send := if k.send = some e then live.head?.map (·.1) else k.send
  let kept := match Tab.get? k.live e with
    | none => k.finishing
    | some key => if finishes s c e then Tab.put k.finishing e key else k.finishing
  let s := dropKeyCopies (setKeys s c { k with live := live, send := send, retired := Tab.put k.retired e s.now, finishing := kept })
    (fun x => decide (x.2 = (c, e)))
  let s := discardWindows (abortUnder s c e) c e
  let isColl := fun (r : OutReq) => match r.kind with
    | .coll _ => true
    | _ => false
  let s := { s with reqs := s.reqs.filter (fun r => !(builtUnder c e r && isColl r)),
                    collUnder := s.collUnder.filter (fun p => !(decide (p.1.2 = c) && decide (p.2 = e))),
                    srcStreams := s.srcStreams.map (fun p => if p.1.ctx = c ∧ p.2.under = some e then (p.1, { p.2 with under := none }) else p) }
  abandonReqs s (builtUnder c e) stIndeterminate stKeyInvalid

/-- KEY_RETIRE of a body (R461). -/
def retireMsg (s : State) (c : CtxId) (b : Bytes) : State × Byte :=
  let e : BitVec 4 := BitVec.ofNat 4 (byteAt b 32).toNat
  if !epochBodyOk b then (s, rsMalformed)
  else match keyRefusal s c (slice b 0 32) with
    | some r => (s, r)
    | none => if Tab.has (keysOf s c).live e then (retire s c e, rsOk) else (s, rsEpoch)

/-! ## Sealed messages (R455, R456) -/

/-- The IV of a sealed message. -/
def sealedIv (dir seq : Nat) : Bytes := toLe 4 dir ++ toLe 8 seq

/-- LIVE_MASK. -/
def liveMask (k : KeyEntry) : Nat := (k.live.map (fun p => 2 ^ p.1.toNat)).foldl (· + ·) 0

/-- The REPLY to a sealed request. -/
def replyTo (s : State) (id : Word) (x : Session) (seq : Nat) (result : Byte) : Bytes :=
  let k := keysOf s x.ctx
  let body := toLe 8 seq ++ [result, match k.send with
    | none => 0xFF
    | some e => BitVec.ofNat 8 e.toNat] ++ toLe 2 (liveMask k) ++ zeros 4
  let h := ensignHdr 0x10 48 id.toNat seq
  h ++ gcmSeal x.toTenant (sealedIv 1 seq) h body

/-- What a sealed request does, by its type. -/
def applySealed (s : State) (type : Nat) (c : CtxId) (b : Bytes) : State × Byte :=
  if type = 3 then install s c b
  else if type = 4 then activate s c b
  else if type = 5 then retireMsg s c b
  else if allZero b then (s, rsOk)
  else (s, rsMalformed)

/-- A sealed request that is the next of its session: applied, answered, and logged where it failed; SESSION_END ends the
session (R453, R455, R457). -/
def acceptSealed (s : State) (id : Word) (x : Session) (m b : Bytes) : State × Bytes :=
  let (s, result) := applySealed s (msgType m) x.ctx b
  let s := if result = rsOk then s else logSecurity s x.ctx result id (byteAt b 32).toNat 457
  let reply := replyTo s id x (msgSeq m) result
  let s := if msgType m = 6 ∧ result = rsOk
    then { s with sec := { s.sec with sessions := Tab.del s.sec.sessions id } }
    else { s with sec := { s.sec with sessions := Tab.put s.sec.sessions id { x with lastSeq := msgSeq m, reply := reply, lastAt := s.now } } }
  (s, reply)

/-- A sealed request (R455). -/
def takeSealed (s : State) (m : Bytes) : State × Bytes :=
  let id := msgSession m
  match Tab.get? s.sec.sessions id with
  | none => refuse s m 0 rsAuth
  | some x => match gcmOpen x.toModule (sealedIv 0 (msgSeq m)) (m.take 16) (m.drop 16) with
    | none => refuse s m x.ctx rsAuth
    | some b =>
      if msgSeq m = x.lastSeq + 1 then acceptSealed s id x m b
      else if msgSeq m = x.lastSeq ∧ !x.reply.isEmpty then
        ({ s with sec := { s.sec with sessions := Tab.put s.sec.sessions id { x with lastAt := s.now } } }, x.reply)
      else refuse s m x.ctx rsReplay

/-- An ensign message and its answer (R452). -/
def handleEnsign (s : State) (m : Bytes) : State × Bytes :=
  if msgType m = 1 then takeHello s m
  else if !msgOk m then refuse s m 0 rsMalformed
  else takeSealed s m

/-! ## The rows of the ensign session -/

/-- An ensign message that reaches the module by itself: its answer stands in `ensignOut`. -/
def ensignRow (s : State) (type : Nat) (m : Bytes) : Result :=
  .next (if configurable s ∧ msgType m = type then
      let (s, a) := handleEnsign s m
      settle { s with sec := { s.sec with ensignOut := s.sec.ensignOut ++ [a] } }
    else s)

/-- HELLO (R453). -/
def execHello (msg : Bytes) (s : State) : Result := ensignRow s 1 msg
/-- KEY_INSTALL (R459). -/
def execKeyInstall (msg : Bytes) (s : State) : Result := ensignRow s 3 msg
/-- KEY_ACTIVATE (R460). -/
def execKeyActivate (msg : Bytes) (s : State) : Result := ensignRow s 4 msg
/-- KEY_RETIRE (R461). -/
def execKeyRetire (msg : Bytes) (s : State) : Result := ensignRow s 5 msg
/-- SESSION_END (R453). -/
def execSessionEnd (msg : Bytes) (s : State) : Result := ensignRow s 6 msg
/-- 60 s without a request: the session ends, and its keys are zeroised (R453, log 6). -/
def execSessionIdleTimeout (session : Word) (s : State) : Result :=
  .next (match Tab.get? s.sec.sessions session with
    | none => s
    | some x => { advanceTo s (x.lastAt + us 60000000) with sec := { s.sec with sessions := Tab.del s.sec.sessions session } })

/-! ## The mailbox and forwarding (R450, R451) -/

/-- The number of slots of the mailbox ring. -/
def mboxSize (s : State) : Nat := 2 ^ min 4 (regField s (secBase + 4) 2 0)

/-- A write of SEC_MBOX_TAIL: taken, or discarded and counted where it would overfill the ring (R450). -/
def writeTail (s : State) (index : BitVec 16) : State :=
  if (index.toNat + 65536 - regField s (secBase + 0x14) 15 0) % 65536 ≤ mboxSize s
  then setReg s (secBase + 0x10) (BitVec.ofNat 32 index.toNat)
  else logRegWrite (countEvent s (secBase + 0x34) secBase 0) (secBase + 0x10) index.toNat

/-- SEC_MBOX_TAIL written (R450). -/
def execMboxTailWrite (index : BitVec 16) (env : Env) (s : State) : Result :=
  .next (if configurable s then writeTail (applyEnv s env) index else s)

/-- A message forwarded to another module: outstanding until ENSIGN_RSP (R451). Recovery firmware forwards nothing (R447, log 213). -/
def forward (s : State) (slot : Nat) (target : Fid) (m : Bytes) : State :=
  if recovery s ∨ (ownFid s).isNone ∨ unreachable s target then answerMailbox s slot stDestLost []
  else
    let tag := BitVec.ofNat 16 (unitMgmt s * 512 + builtBy s (unitMgmt s) % 512)
    sendMgmt { s with sec := { s.sec with forwards := s.sec.forwards ++ [{ tag := tag, target := target, slot := slot }] } }
      (me s) target mgEnsignFwd m none

/-- The request of a mailbox slot: 2,048 bytes. -/
def takeRequestSlot (s : State) (slot : Nat) : State :=
  let a := pairBase s (secBase + 8) (secBase + 0xC) 12 + slot * 4096
  match hostRead s a 2048 with
  | .error _ => answerMailbox (noteHostRead s (hostAddr a) 2048) slot stProtocol []
  | .ok r =>
    let n := fieldAt r 10 2
    if 2 ≤ (byteAt r 2).toNat ∨ !reservedZero r 3 8 ∨ n < 16 ∨ 2040 < n then answerMailbox s slot stProtocol []
    else
      let m := slice r 8 n
      if byteAt r 2 = 1 then forward s slot (BitVec.ofNat 16 (fieldAt r 0 2)) m
      else
        let (s, a) := handleEnsign s m
        answerMailbox s slot stOk a

/-- The next mailbox request, taken when the one before it is answered (R450). -/
def execMailboxRequest (s : State) : Result :=
  .next (if !configurable s ∨ !regBit s (secBase + 4) 31 ∨ !s.sec.forwards.isEmpty ∨
      regField s (secBase + 0x10) 15 0 = regField s (secBase + 0x14) 15 0 then s
    else settle (takeRequestSlot s (regField s (secBase + 0x14) 15 0 % mboxSize s)))

/-- The answer of a target: ENSIGN_RSP under the request's TAG (R451). -/
def sendRsp (s : State) (dst : Fid) (tag : BitVec 16) (m : Bytes) : State :=
  let u := unitMgmt s
  let h := { mgmtHdr s u (me s) dst mgEnsignRsp m.length with tag := tag }
  emit (countBuilt s u) (.packet u (sealPacket [] h m))

/-- An ENSIGN_FWD taken: a duplicate gets the stored answer (R451). -/
def takeForward (s : State) (src : Fid) (tag : BitVec 16) (msg : Bytes) : State :=
  match (Tab.get? s.sec.answered (src, tag)).filter (fun x => decide (x.1 = msg)) with
  | some x => sendRsp s src tag x.2
  | none =>
    let (s, a) := handleEnsign s msg
    sendRsp { s with sec := { s.sec with answered := Tab.put s.sec.answered (src, tag) (msg, a) } } src tag a

/-- ENSIGN_FWD at its target: the steps of R82, and ENSIGN_RSP in place of an ACK (R451). -/
def execEnsignFwd (pkt : Packet) (s : State) : Result :=
  .next (if !configurable s ∨ (ownFid s).isNone then s
    else settle (takeMgmt s mgEnsignFwd pkt (fun _ => true) (fun s bs => takeForward s pkt.hdr.src pkt.hdr.tag bs)))

/-- The forwarded request that an ENSIGN_RSP answers. -/
def isForward (h : Header) (r : OutReq) : Bool :=
  decide (r.pkt.hdr.ptype = tyMgmt) && decide (r.pkt.hdr.opcode = mgEnsignFwd) && decide (r.pkt.hdr.tag = h.tag) &&
    decide (r.pkt.hdr.dst = h.src)

/-- ENSIGN_RSP taken: the forwarded request is over, and the mailbox slot has its answer (R450, R451). -/
def takeRsp (s : State) (h : Header) (msg : Bytes) : State :=
  if s.reqs.any (isForward h) then endForward { s with reqs := s.reqs.filter (fun r => !isForward h r) } h.tag h.src stOk msg else s

/-- ENSIGN_RSP: the steps of R82; it is an answer, and gets none. -/
def execEnsignRsp (pkt : Packet) (s : State) : Result :=
  .next (if !configurable s ∨ (ownFid s).isNone then s
    else settle (takeMgmt s mgEnsignRsp pkt (fun _ => true) (fun s bs => takeRsp s pkt.hdr bs)))

/-! ## The boot control record (R443) -/

/-- A boot control record. -/
structure BootRec where
  copy       : Nat
  generation : Nat
  active     : Nat
  confirmed  : Nat
  tries      : Nat
  deriving DecidableEq, Repr

/-- Where a copy lies in the flash. -/
def bootRecAt (copy : Nat) : Nat := flashAddr (0x1000 + 0x1000 * copy)

/-- A copy that is valid by its CRC. -/
def bootRecOf (s : State) (copy : Nat) : Option BootRec :=
  let bs := memRead s (bootRecAt copy) 32
  if slice bs 24 8 = toLe 8 (crc64 (bs.take 24)).toNat
  then some { copy := copy, generation := fieldAt bs 0 8, active := fieldAt bs 8 1, confirmed := fieldAt bs 9 1, tries := fieldAt bs 10 1 }
  else none

/-- The governing copy; with none valid, slot A unconfirmed with no tries. -/
def governing (s : State) : BootRec := match bootRecOf s 0, bootRecOf s 1 with
  | some a, some b => if a.generation < b.generation then b else a
  | some a, none => a
  | none, some b => b
  | none, none => { copy := 1, generation := 0, active := 0, confirmed := 0, tries := 0 }

/-- The record written to the other copy, one generation on. -/
def writeBootRec (s : State) (active confirmed tries : Nat) : State :=
  let g := governing s
  let bs := toLe 8 (g.generation + 1) ++ toLe 1 active ++ toLe 1 confirmed ++ toLe 1 tries ++ zeros 13
  memWrite s (bootRecAt (1 - g.copy)) (bs ++ toLe 8 (crc64 bs).toNat)

/-! ## Firmware updates (R448, R475) -/

/-- RESULT. -/
def fwBusyCode : BitVec 4 := 1
def fwOkCode : BitVec 4 := 2
def fwFlashError : BitVec 4 := 7
def fwAborted : BitVec 4 := 8
def fwFailCode : ImageFail → BitVec 4
  | .header => 3
  | .signature => 4
  | .rollback => 5
  | .hash => 6

/-- RESULT set. -/
def setFw (s : State) (r : BitVec 4) : State := { s with sec := { s.sec with fwResult := r } }

/-- The slot that an update programs. -/
def updateTarget (s : State) : Nat := if s.sec.bootSlot = 2 then (governing s).active % 2 else 1 - s.sec.bootSlot % 2

/-- START: the image is read from host memory and checked (R448, steps 1 and 2). -/
def startUpdate (s : State) : State :=
  let n := regField s (secBase + 0x2C) 25 0
  if s.sec.fwResult = fwBusyCode then s
  else if slotBytes < n then setFw s 3
  else match hostRead s (pairBase s (secBase + 0x24) (secBase + 0x28) 12) n with
    | .error _ => setFw (noteHostRead s (hostAddr (pairBase s (secBase + 0x24) (secBase + 0x28) 12)) n) fwAborted
    | .ok image => match imageFail s (image.take mainOffset) 1 (min n mainOffset) with
      | some f => setFw s (fwFailCode f)
      | none => match imageFail s (image.drop mainOffset) 2 (n - mainOffset) with
        | some f => setFw s (fwFailCode f)
        | none => { s with sec := { s.sec with fwResult := fwBusyCode, fwTarget := updateTarget s, fwImage := image } }

/-- START (R448). -/
def execStart (env : Env) (s : State) : Result := .next (if configurable s then startUpdate (applyEnv s env) else s)

/-- The target slot is programmed and read back (R448, step 2, R536). -/
def execFirmwareProgramDone (flashOk : Bool) (s : State) : Result :=
  .next (if !configurable s ∨ s.sec.fwResult ≠ fwBusyCode then s
    else
      let ok := flashOk && !s.age.degraded.getLsbD 7
      let s' := if flashOk then memWrite s (flashAddr (slotAt s.sec.fwTarget)) s.sec.fwImage else s
      { s' with sec := { s'.sec with fwResult := if ok then fwOkCode else fwFlashError, fwImage := [] } })

/-- NEXT: the target slot boots next (R448, step 3). -/
def execNext (s : State) : Result :=
  .next (if configurable s ∧ s.sec.fwResult = fwOkCode then writeBootRec s s.sec.fwTarget 0 3 else s)

/-- The booted slot confirmed, and fuses blown up to its SVN (R448, step 4). -/
def confirmSlot (s : State) : State :=
  if s.sec.confirmed ∨ 2 ≤ s.sec.bootSlot then s
  else
    let s := writeBootRec s s.sec.bootSlot 1 (governing s).tries
    { s with sec := { s.sec with confirmed := true, fusesBlown := max s.sec.fusesBlown s.sec.svn.toNat } }

/-- CONFIRM (R448, step 4). -/
def execConfirm (s : State) : Result := .next (if configurable s then confirmSlot s else s)

end Sys2Proof.Machine
end

