-- ==== Sys2Proof/Machine/Regs.lean ====
section
/-!
DEFINITION. What a register reads as (R572, R588), and the registers of a block in the order of their offsets.
-/
namespace Sys2Proof.Machine

open Sys2Proof

/-- The value that a BAR0 offset reads as where the module serves it: zero where it names no register (R588). -/
def regValue (s : State) (off : Nat) : Word := match liveReg s off, blkOf off with
  | some _, some (b, i, o) => (viewReg s (governing s).active b i o).getD (reg s off)
  | _, _ => 0

/-- Whether a BAR0 offset reads in the present state (R572): in BOOT the GLB block and MG_STATE alone. -/
def readsNow (s : State) (off : Nat) : Bool := match s.mode with
  | .off => false
  | .reset => false
  | .boot => s.host.answering && (decide (off < mgBase) || decide (off = mgBase))
  | _ => true

/-- A BAR0 read of four bytes. -/
def regRead (s : State) (off : Nat) : Word := if readsNow s off then regValue s off else 0

/-- The offsets of the registers that one table row gives. -/
def specOffs (r : RegSpec) : List Nat :=
  (List.range r.count).flatMap (fun i => (List.range r.words).map (fun w => r.off + r.stride * i + 4 * w))

/-- The table rows that pass a test, as offsets in order. -/
def blockOffs (b : Blk) (mine : RegSpec → Bool) : List Nat := ((blkTable b).filter mine).flatMap specOffs

/-- A row that holds status flags, a counter, or a value that only the module writes (R557). -/
def isStatus (r : RegSpec) : Bool := decide (r.w1c ≠ 0) || decide (r.rc ≠ 0) || (decide (r.rw = 0) && decide (r.w1s = 0))

/-- What firmware reads at a BAR0 offset over the internal path: the registers of an instance that is not in service too (R557, R588). -/
def innerValue (s : State) (off : Nat) : Word := match blkOf off with
  | some (b, i, o) => (viewReg s (governing s).active b i o).getD (reg s off)
  | none => 0

/-- The values of registers at a block's offsets, four bytes each, for the dump. -/
def regBytes (s : State) (base : Nat) (offs : List Nat) : Bytes := offs.flatMap (fun o => toLe 4 (innerValue s (base + o)).toNat)

end Sys2Proof.Machine
end

