-- ==== Sys2Proof/Machine/Faults.lean ====
section
/-!
DEFINITION. Fail-over of the management dies (R30, R546 to R549), the FATAL state, and the fatal dump (R544, R554 to R558).
-/
namespace Sys2Proof.Machine

open Sys2Proof

/-! ## Modes -/

/-- The outcome of a request, which clears BUSY (R598). -/
def setOutcome (s : State) (status reason : Byte) : State :=
  { s with host := { s.host with reqStatus := status, reqReason := reason, request := none, stopping := false } }

/-- STATE_REJECTED with a reason, and its record; nothing else changes (R575). -/
def rejectReq (s : State) (reason : Byte) : State := logState (setOutcome s stStateRejected reason) s.mode 575

/-- A request that is being carried out when a higher-ranked event comes loses (R571, R599). -/
def loseRequest (s : State) : State := if s.host.request.isSome then rejectReq s 0x01 else s

/-- A change of module state, with its record (R570, R571, R585). -/
def setMode (s : State) (m : Mode) (rule : Nat) : State :=
  let s' := if s.mode = .service then { s with sec := { s.sec with saveKey := none } } else s
  logState { s' with mode := m } s.mode rule

/-- The data plane stopped: its clocks gated and the lane transmitters off (R507). -/
def gateData (s : State) : State := { s with power := { s.power with gated := true, lanesOff := true } }

/-- A FATAL-class error: the data plane stops, the cause is recorded, and the module enters FATAL (R544, R554). -/
def enterFatal (s : State) (cause : BitVec 4) (rule : Nat) : State :=
  if s.mode = .boot ∨ s.mode = .maint ∨ s.mode = .service then
    let s := gateData { loseRequest s with degraded := false, dump := { s.dump with cause := cause, stateBefore := s.mode, unwritten := true } }
    setMode s .fatal rule
  else s

/-- Fatal causes (R562). -/
def fcPgLoss : BitVec 4 := 1
def fcClock : BitVec 4 := 2
def fcThermal : BitVec 4 := 3
def fcMgmtLost : BitVec 4 := 4
def fcCpDie : BitVec 4 := 5

/-! ## Fail-over (R547, R548) -/

/-- Causes of a fail-over (R547). -/
def foHeartbeat : BitVec 4 := 1
def foActiveFault : BitVec 4 := 2
def foPlanned : BitVec 4 := 3
def foDriver : BitVec 4 := 4

/-- A firmware update in progress ended with ABORTED (R548, step 3). -/
def abortFw (s : State) : State :=
  if s.sec.fwResult = fwBusyCode then { s with sec := { s.sec with fwResult := fwAborted, fwImage := [] } } else s

/-- The host-port kind runs degraded: the module is left without a host port and none stands by (R31, R536, log 186). -/
def loseHostPort (s : State) : State :=
  if s.age.degraded.getLsbD (kindCode .hostPort) then s else degrade s .hostPort s.host.owner

/-! ## The standby management die (R532, R536) -/

/-- A failed test counted (R540). -/
def countTestFail (s : State) : State := countEvent s (mgBase + 0x610) (mgBase + 0x608) 1

/-- Whether a unit is the management die that stands by. -/
def standsBy (s : State) (k : UnitKind) (n : Nat) : Bool :=
  decide (k = .mgmt) && decide (n = 1 - s.host.owner % 2) && decide (dieState s (ordMgmt n) = .standby)

/-- The standby fails its continuous test: it is no spare any more, and no die is ready to take over (R532). -/
def failStandby (s : State) : State :=
  let n := 1 - s.host.owner % 2
  let s := countTestFail (failHalyardsAt (setUnit (putUnit s .mgmt n { unitRec s .mgmt n with testedAt := some s.now }) .mgmt n .spareFailed 532) (186 + n))
  { s with host := { s.host with standbyReady := false } }

/-- The standby becomes owner; the old die is FAILED, or after a driver's TAKEOVER a spare that is to be tested (R548). The halyards that end at it fail
(R374), and a port without a link leaves the module without a host port (R536). -/
def takeover (s : State) (cause : BitVec 4) : State :=
  let old := s.host.owner % 2
  let s := setHostPort s old (portDown (hostPort s old))
  let s := { s with host := { s.host with owner := 1 - old, ownerCause := cause, standbyReady := false } }
  let s := setUnit s .mgmt (1 - old) .active 548
  let s := abortFw (setUnit s .mgmt old (if cause = foDriver then .spareUntested else .failed) 548)
  let s := countEvent s (mgBase + 0xA0C) (mgBase + 0xA00) 0
  let s := if cause = foPlanned then countSwap s else s
  let s := failHalyardsAt (logFault s 4 cause.toNat (ordMgmt (1 - old)) 548) (186 + old)
  if (hostPort s (1 - old)).linkUp then s else loseHostPort s

/-- The standby has seen no heartbeat for 10 ms (R547). -/
def execHeartbeatLoss (s : State) : Result :=
  .next (if controlRuns s ∧ s.host.standbyReady then settle (takeover s foHeartbeat) else s)

/-- The active management die reports a UNIT-class error of its own; of the last die it is FATAL (R544, R547). -/
def execManagementDieFault (s : State) : Result :=
  .next (if !controlRuns s then s
    else if s.host.standbyReady then settle (takeover s foActiveFault)
    else enterFatal (setUnit s .mgmt (s.host.owner % 2) .failed 544) fcMgmtLost 544)

/-- TAKEOVER written: with no standby ready it is discarded and logged (R547, R560). -/
def driverTakeover (s : State) : State := if s.host.standbyReady then takeover s foDriver else logRegWrite s (mgBase + 0xA04) 1

/-- TAKEOVER in MG_FAILOVER_CTRL (R547). -/
def execTakeover (s : State) : Result := .next (if configurable s then settle (unlessRecovery s (mgBase + 0xA04) 1 (driverTakeover s)) else s)

/-! ## The dump (R555 to R557) -/

/-- A section: its header, its value, and padding to a multiple of 8 bytes. -/
def dumpSection (ty flags unit : Nat) (value : Bytes) : Bytes :=
  toLe 2 ty ++ [BitVec.ofNat 8 flags, BitVec.ofNat 8 unit] ++ toLe 4 value.length ++ value ++ zeros ((8 - value.length % 8) % 8)

/-- A section of a unit that is unpowered or unreachable (MISSING). -/
def missing (ty unit : Nat) : Bytes := dumpSection ty 1 unit []

/-- The register blocks of a die, as block and instance: a port die's four ports, and for every other die its own block and
its internal crossbar port (R587). -/
def dieBlocks (s : State) (u : Nat) : List (Blk × Nat) :=
  if u < 36 then (List.range 4).map (fun i => (Blk.pt, 4 * u + i))
  else if u < 54 then [(.xb, u - 36)]
  else if u < 80 then [(.ari, u - 54), (.pt, 144 + (u - 54))]
  else if u < 88 then
    (((List.range (blockCount s.variant)).filter (fun b => decide (epDie s b = u - 80))).map (fun b => (Blk.ep, b))) ++
      [(.pt, 170 + (u - 80))]
  else if u < 96 then [(.mem, u - 88), (.pt, 178 + (u - 88))]
  else if u < 98 then [(.pt, 186 + (u - 96))]
  else [(.cp, 0)]

/-- Where a block instance lies in BAR0 (R587). -/
def blkBase : Blk → Nat → Nat
  | .glb, _ => glbBase
  | .mg, _ => mgBase
  | .sec, _ => secBase
  | .cp, _ => cpBase
  | .hb, _ => hbBase
  | .pt, i => ptBase i
  | .xb, i => xbBase i
  | .ari, i => ariBase i
  | .ep, i => epBase i
  | .mem, i => memBase i

/-- Whether a die is powered and reachable: a spare is powered down but for its test, and a data-plane die needs the core rail (R503, R531,
R532). -/
def diePowered (s : State) (u : Nat) : Bool :=
  (serves (dieState s u) || decide (dieState s u = .standby) || decide (dieState s u = .testing)) && (decide (96 ≤ u) || s.pins.pgCore)

/-- The DIE_REGS section of a die. -/
def dieSection (s : State) (u : Nat) : Bytes :=
  if diePowered s u then
    dumpSection 5 0 u ((dieBlocks s u).flatMap (fun x => regBytes s (blkBase x.1 x.2)
      ((blockOffs x.1 isStatus).filter (fun o => (regIn x.1 x.2 o).isSome))))
  else missing 5 u

/-- The PORT_REGS section of an external port. -/
def portSection (s : State) (p : Nat) : Bytes :=
  if diePowered s (ordPort p) then dumpSection 6 0 p (regBytes s (ptBase p) (blockOffs .pt (fun _ => true))) else missing 6 p

/-- The state of a group, as R241 orders the states. -/
def groupCode : GroupState → Nat
  | .forming => 0
  | .active => 1
  | .stalled => 2
  | .regroup => 3

/-- The GROUPS section: number, context, epoch, state, and the running COLL_IDs with their count. -/
def groupsValue (s : State) : Bytes :=
  s.groups.flatMap (fun e =>
    let ids := (s.colls.filter (fun c => decide (c.key.group = e.1) && decide (c.key.ctx = e.2.plan.ctx))).map (·.key.collId)
    toLe 2 e.1.toNat ++ toLe 2 e.2.plan.epoch.toNat ++ toLe 3 e.2.plan.ctx.toNat ++ [BitVec.ofNat 8 (groupCode e.2.state)] ++
      toLe 4 ids.length ++ ids.flatMap (fun i => toLe 4 i.toNat))

/-- The sections of a dump in order, END apart (R557). -/
def dumpSections (s : State) : List Bytes :=
  [dumpSection 1 0 wholeModule (s.host.eventLog.flatMap eventBytes),
   dumpSection 2 0 wholeModule (regBytes s mgBase (blockOffs .mg (fun r => decide (r.off < 0x40000)))),
   dumpSection 3 0 wholeModule (regBytes s cpBase (blockOffs .cp (fun _ => true))),
   dumpSection 4 0 wholeModule (regBytes s mgBase (((List.range 100).map (fun u => 0x700 + 4 * u)) ++
     ((List.range 40).map (fun b => 0x900 + 4 * b)) ++ ((List.range 9).map (fun k => 0x620 + 4 * k))))] ++
  (((List.range 100).filter (fun u => decide (dieState s u ≠ .absent))).map (dieSection s)) ++
  ((List.range (portCount s.variant)).map (portSection s)) ++
  [dumpSection 7 0 wholeModule (groupsValue s),
   dumpSection 8 0 wholeModule ((List.range 65536).map Config.fwTrace)]

/-- The leading sections that fit in a number of bytes. -/
def fitting : Nat → List Bytes → List Bytes
  | _, [] => []
  | room, x :: l => if x.length ≤ room then x :: fitting (room - x.length) l else []

/-- The 64-byte header of a dump (R555). -/
def dumpHeader (s : State) (seq : Word) (truncated : Bool) (total : Nat) : Bytes :=
  toLe 4 0xD0F10001 ++ [1, BitVec.ofNat 8 s.dump.cause.toNat, BitVec.ofNat 8 (modeCode s.dump.stateBefore), BitVec.ofNat 8 (b01 truncated)] ++
    toLe 4 seq.toNat ++ toLe 4 (reg s glbBase).toNat ++ moduleSerial s ++ toLe 4 (reg s (glbBase + 0xC)).toNat ++
    toLe 8 (if s.dump.stateBefore = .service then s.now - s.serviceAt else 0) ++ toLe 4 total ++ zeros 16

/-- The bytes of a dump for a destination of `room` bytes: whole sections while room remains for END (R556). -/
def dumpBytes (s : State) (seq : Word) (room : Nat) : Bytes :=
  let all := dumpSections s
  let l := fitting (room - 80) all
  let body := l.flatten
  let bs := dumpHeader s seq (decide (l.length < all.length)) (80 + body.length) ++ body
  bs ++ dumpSection 0xFFFF 0 wholeModule (toLe 8 (crc64 (bs ++ toLe 2 0xFFFF ++ [0, BitVec.ofNat 8 wholeModule] ++ toLe 4 8)).toNat)

/-- The harbour dump region (R314). -/
def dumpRegion : Nat := 64 * 2 ^ 20

/-- Whether the harbour dump region, and the host buffer, take the dump (R556). -/
def regionTakes (s : State) : Bool := decide (s.mode = .dump) && decide (memCount s.variant ≠ 0) && s.pins.pgMem
def hostTakes (s : State) : Bool := regBit s (mgBase + 0xA20) 0 && hostLinkOk s && decide (regField s (mgBase + 0xA28) 19 0 ≠ 0)

/-- The dump written to its destinations, with what MG_DUMP_STATE then shows (R556, R562). -/
def writeDump (s : State) : State :=
  let region := regionTakes s
  let host := hostTakes s
  let s := { s with dump := { s.dump with unwritten := false } }
  if !region && !host then s
  else
    let seq := s.dump.dumpSeq + 1
    let atHost := dumpBytes s seq (regField s (mgBase + 0xA28) 19 0 * 4096)
    let atRegion := dumpBytes s seq dumpRegion
    let old := b01 (regBit s (mgBase + 0xA2C) 0)
    let s := if host then hostWrite s (pairBase s (mgBase + 0xA20) (mgBase + 0xA24) 12) atHost else s
    let s := if region then memWrite s (harbourAddr 0) atRegion else s
    let s := { s with dump := { s.dump with dumpSeq := seq, regionOk := s.dump.regionOk || region } }
    setReg s (mgBase + 0xA2C) (BitVec.ofNat 32 (seq.toNat % 65536 * 65536 + s.dump.cause.toNat * 16 + 2 * b01 host +
      (if region then 1 else old)))

/-- A FATAL-class error (R544). -/
def execFatalError (cause : BitVec 4) (s : State) : Result := .next (enterFatal s cause 544)

/-- Firmware starts the dump (R554). -/
def execDumpStart (s : State) : Result := .next (if s.mode = .fatal then setMode s .dump 554 else s)

/-- Firmware has written the dump, within 2 s of entering DUMP (R556); in EPO_OFF to the host buffer alone. -/
def execDumpDone (s : State) : Result :=
  .next (if s.dump.unwritten ∧ (s.mode = .dump ∨ s.mode = .epoOff) then writeDump s else s)

end Sys2Proof.Machine
end

