-- ==== Sys2Proof/Machine/Failures.lean ====
section
/-!
DEFINITION. Units that fail outright (R28, R29, R353, R533, R535, R536): planes, reduction dies, end-point blocks, memory devices,
harbour lines and the standby management die.
-/
namespace Sys2Proof.Machine

open Sys2Proof

/-- A unit that leaves service, and TOPOLOGY set (R483, R531). -/
def outOfService (s : State) (k : UnitKind) (n : Nat) (rule : Nat) : State :=
  let gone := fun (u : Nat) => (decide (k = .reduction) && decide (u = unitAri n)) || (decide (k = .epb) && decide (u = unitBlock n))
  detBreak (setUnit (dropKeyCopies s (fun x => gone x.1)) k n .failed rule) detTopology

/-- The swap in progress is over where it swapped a unit that is gone: its spare is in service already, so it counts (R533). -/
def swapOver (s : State) (k : UnitKind) (n : Nat) : State := match s.age.swap with
  | some (k', worn, _) => if k' = k ∧ worn = n then countSwap { s with age := { s.age with swap := none } } else s
  | none => s

/-- Whether a unit is the worn one of the swap in progress. -/
def isWorn (s : State) (k : UnitKind) (n : Nat) : Bool := match s.age.swap with
  | some (k', worn, _) => decide (k' = k) && decide (worn = n)
  | none => false

/-- The swaps that wait for a unit dropped. -/
def unqueue (s : State) (k : UnitKind) (n : Nat) : State :=
  { s with age := { s.age with swapQueue := s.age.swapQueue.filter (fun e => !(decide (e.2.1 = k) && decide (e.2.2 = n))) } }

/-! ## Spares that take the place of failed units (R28, R29, R353, R533, R536) -/

/-- A plane put into the list of planes in service, in die order. -/
def insertPlane (d : Nat) : List Nat → List Nat
  | [] => [d]
  | x :: l => if d < x then d :: x :: l else x :: insertPlane d l

/-- The spare serves a failed block's number under a new generation, and keeps quiet for 400 µs (R21, R85, R589). -/
def replaceBlock (s : State) (b spare : Nat) : State :=
  let s := setUnit s .epb spare .active 533
  let s := resetEpCounts { s with age := { s.age with serving := s.age.serving.set b (some spare) },
                                  quietUntil := Tab.put s.quietUntil b (s.now + us 400) } b
  let s := match blockFid s b with
    | none => s
    | some f => raiseGen s f
  countSwap s

/-- No spare is left: the block's ports are disabled (R536). -/
def closeBlock (s : State) (b n : Nat) : State :=
  let s := { s with age := { s.age with serving := s.age.serving.set b none } }
  let s := [2 * b, 2 * b + 1].foldl (fun s p => takeDown (setReg s (ptBase p) (reg s (ptBase p) &&& 0xFFFFFFFE)) p caDisabled) s
  announce (degrade s .epb n)

/-- A failed unit replaced by a spare, or the degraded behaviour of its kind; a block served number `b`. -/
def replaceUnit (s : State) (k : UnitKind) (n b : Nat) : State := match k with
  | .plane => (match spareFor s .plane n with
    | some m => countSwap (setUnit { s with age := { s.age with planeList := insertPlane m s.age.planeList } } .plane m .active 533)
    | none => degrade s .plane n)
  | .reduction => (match spareFor s .reduction n with
    | some m => countSwap (clearScratch (setUnit s .reduction m .active 533) m)
    | none => degrade s .reduction n)
  | .epb => (match spareFor s .epb n with
    | some m => replaceBlock s b m
    | none => closeBlock s b n)
  | _ => s

/-- A failed unit replaced now, or once the swap that runs has ended: firmware runs one swap at a time (R533). Until then nothing serves a
block's number. -/
def replaceOrWait (s : State) (k : UnitKind) (n b : Nat) : State :=
  if !swapRuns s then replaceUnit s k n b
  else
    let serving := if k = .epb then s.age.serving.set b none else s.age.serving
    { s with age := { s.age with replace := s.age.replace ++ [(k, n, b)], serving := serving } }

/-! ## Planes (R353) -/

/-- A plane fails: the cells it holds are lost, and a spare takes its place (R353, R536). One that was draining under a swap has
its spare in service. -/
def failPlane (s : State) (d : Nat) : State :=
  let worn := isWorn s .plane d
  let s := unqueue (planeLost s d) .plane d
  let s := outOfService { s with age := { s.age with planeList := s.age.planeList.filter (fun x => decide (x ≠ d)) } } .plane d 353
  if worn then swapOver s .plane d else replaceOrWait s .plane d 0

/-- PLANE_FAIL (R353). -/
def execPlaneFail (die : Nat) (s : State) : Result :=
  .next (if portsRun s ∧ die < 18 ∧ serves (dieState s (ordPlane die)) then settle (failPlane s die) else s)

/-! ## Reduction dies (R28, R160, R257) -/

/-- The requests of a die are gone with it. -/
def dropUnitReqs (s : State) (u : Nat) : State := { s with reqs := s.reqs.filter (fun r => decide (r.unit ≠ u)) }

/-- A reduction die fails: its windows and requests are lost, its scratch contents too, its claims move, its uncommitted chunks
are taken as corrupt, and a spare takes its place (R28, R160, R257, R536). -/
def failReduction (s : State) (d : Nat) : State :=
  let worn := isWorn s .reduction d
  let s := unqueue (dropUnitReqs (dropWindows s d) (unitAri d)) .reduction d
  let s := clearScratch (outOfService s .reduction d 28) d
  let s := if worn then swapOver s .reduction d else replaceOrWait s .reduction d 0
  failHalyardsAt (lowerPools (collDieLost s d)) (144 + d)

/-- REDUCTION_DIE_FAIL (R28). -/
def execReductionDieFail (die : Nat) (s : State) : Result :=
  .next (if portsRun s ∧ ariServes s die then settle (failReduction s die) else s)

/-! ## End-point blocks (R21, R29, R85, R589) -/

/-- A started command of a block that is lost ended: INDETERMINATE for an atomic without an answer, else DEST_LOST (R29, R536). -/
def endLost (s : State) (id : Nat) : State := match cmdOf s id with
  | none => s
  | some c =>
    if c.phase = .accepted then s
    else
      let c' := failPart c (if openAtomic s c then stIndeterminate else stDestLost) 0
      completeCmd { s with stalled := s.stalled.filter (fun q => decide (q.cmd ≠ some id)) } c' c'.status (finalResult c') c'.aux false

/-- What a physical block had in flight is lost, and its contexts are parked (R21, R29). -/
def loseBlock (s : State) (b n : Nat) : State :=
  let s := loseRequests (loseRequests s (2 * b)) (2 * b + 1)
  let s := abandonReqs s (fun r => decide (r.unit = unitBlock n)) stIndeterminate stDestLost
  let s := (s.cmds.filter (fun c => decide (c.block = b))).foldl (fun s c => endLost s c.id) s
  let s := { s with launches := s.launches.filter (fun l => decide (l.block ≠ b) || (cmdOf s l.cmd).isSome),
                    apertures := s.apertures.filter (fun a => decide (a.port / 2 ≠ b)) }
  let s := (s.ctxBlocks.filter (fun e => decide (e.1.1 = b) && e.2.resident)).foldl (fun s e => park s b e.1.2) s
  let mine := (s.ctxBlocks.filter (fun e => decide (e.1.1 = b))).map (·.1.2)
  let s := cacheInval s b (fun l => decide (l.die = epDie s b) && mine.contains l.ctx)
  let s := dropTables s (fun e => decide (e.block = b))
  let s := { s with ledger := s.ledger.filter (fun e => decide (e.block ≠ b)),
                    limits := s.limits.filter (fun l => decide (l.block ≠ b)),
                    stalled := s.stalled.filter (fun q => decide (q.unit ≠ unitBlock n)) }
  match blockFid s b with
  | none => s
  | some f => { s with homeStreams := s.homeStreams.filter (fun e => decide (e.1.dst ≠ f)),
                       srcStreams := s.srcStreams.filter (fun e => decide (e.1.src ≠ f)),
                       combIn := s.combIn.filter (fun e => decide (e.1.dst ≠ f)) }

/-- The spare of a block's swap fails before it has taken over: the swap is given up, and the worn block serves on (R534, log 215). -/
def giveUpSwap (s : State) (spare : Nat) : State := match s.age.swap with
  | some (.epb, worn, m) => if m = spare then setUnit { s with age := { s.age with swap := none } } .epb worn .active 534 else s
  | _ => s

/-- A physical block fails (R29). One that was draining under a swap is replaced by the spare of its swap. -/
def failBlock (s : State) (n : Nat) : State :=
  let s := unqueue (giveUpSwap (if isWorn s .epb n then { s with age := { s.age with swap := none } } else s) n) .epb n
  match numberOf s n with
  | none => outOfService s .epb n 29
  | some b =>
    replaceOrWait (outOfService (loseBlock s b n) .epb n 29) .epb n b

/-- END_POINT_BLOCK_FAIL: the block of the bunting with this number (R29). -/
def execEndPointBlockFail (block : Nat) (s : State) : Result :=
  .next (if portsRun s ∧ blockState s block ≠ .absent ∧ blockState s block ≠ .failed then settle (failBlock s block) else s)

/-! ## Harbour lines and memory devices (R316, R317, R535) -/

/-- Lines of 256 bytes of the spare capacity behind one device: 68 GB over 16 devices (R314). -/
def spareLinesPerDevice : Nat := 16601562

/-- Devices in service. -/
def devicesIn (s : State) : Nat := (s.age.devices.filter (fun r => decide (r ≠ 0))).length

/-- SPARE of the memory kind: the percentage of spare capacity still free (R542). -/
def spareNow (s : State) : State :=
  let cap := devicesIn s * spareLinesPerDevice
  { s with hb := { s.hb with spareLeft := (cap - s.hb.retired.length) * 100 / max cap 1 } }

/-- A line retired to spare capacity (R535). -/
def retireLine (s : State) (line : Nat) : State :=
  spareNow { s with hb := { s.hb with retired := Tab.put s.hb.retired line s.now, corrected := Tab.del s.hb.corrected line } }

/-- Cell-clock cycles of 24 hours. -/
def day : Nat := 24 * cyclesPerHour

/-- A corrected read of a line: the second within 24 hours retires it (R317, R535). -/
def correctedRead (s : State) (line : Nat) : State :=
  let s := bump s (hbBase + 0x114)
  match Tab.get? s.hb.corrected line with
  | none => { s with hb := { s.hb with corrected := Tab.put s.hb.corrected line s.now } }
  | some t => if s.now ≤ t + day then retireLine s line
      else { s with hb := { s.hb with corrected := Tab.put s.hb.corrected line s.now } }

/-- The shard that holds a line of the linear space. -/
def shardAt (s : State) (line : Nat) : Option Shard :=
  s.hb.shards.find? (fun h => h.units.any (fun u => u.2.2.any (fun x =>
    decide (unitStart s.variant x ≤ line * 256) && decide (line * 256 < unitStart s.variant x + unitBytes))))

/-- An uncorrectable read: the line is poisoned, counted, recorded and retired (R317, R535). -/
def uncorrectableRead (s : State) (line : Nat) : State :=
  let s := countEvent s (hbBase + 0x118) (hbBase + 0x110) 0
  let s := if line ∈ s.hb.poisoned then s else { s with hb := { s.hb with poisoned := s.hb.poisoned ++ [line] } }
  let s := match shardAt s line with
    | none => logHarbour s 0 0 line 317
    | some h => logHarbour s h.key.ctx h.key.hset line 317
  retireLine s line

/-- The EDC retries of a burst, at most 4, each counted (R316, R350). -/
def countRetries (s : State) (n : Nat) : State := (List.range (min n 4)).foldl (fun s _ => bump s (hbBase + 0x11C)) s

/-- HARBOUR_LINE_RETIRE: what an access to a line of 256 bytes meets after its EDC retries. A burst that fails every retry comes as
uncorrectable (R316, R317, R535). -/
def execHarbourLineRetire (line edcRetries : Nat) (found : LineRead) (s : State) : Result :=
  .next (if !portsRun s ∨ devicesIn s = 0 then s
    else
      let s := countRetries s edcRetries
      match found with
      | .clean => s
      | .corrected => correctedRead s line
      | .uncorrectable => uncorrectableRead s line)

/-- MEM_DEV_STATUS of every memory die, and HB_PHY_RATE (R348, R603). -/
def showDevices (s : State) : State :=
  let s := (s.age.devices.zipIdx).foldl (fun (s : State) x =>
    setReg s (memBase (x.2 / 2) + 4 * (x.2 % 2)) (BitVec.ofNat 32 (if x.1 = 0 then 0 else 0x8000 + x.1.toNat))) s
  let rates := (s.age.devices.filter (fun r => decide (r ≠ 0))).map (·.toNat)
  setReg s (hbBase + 0x10C) (BitVec.ofNat 32 (match rates with
    | [] => 0
    | r :: l => l.foldl min r))

/-- A unit of the linear space moved, with its poison (R535, step 3). -/
def moveUnit (s : State) (src dst : Nat) : State :=
  let a := unitStart s.variant src
  let b := unitStart s.variant dst
  let cells := s.mem.filter (fun c => decide (harbourAddr a ≤ c.1) && decide (c.1 < harbourAddr a + unitBytes))
  let s := memZero (memZero s (harbourAddr b) unitBytes) (harbourAddr a) unitBytes
  let s := { s with mem := cells.foldl (fun (m : List Host.Cell) (c : Host.Cell) => sparseSet memDefault m (c.1 - harbourAddr a + harbourAddr b) c.2) s.mem }
  { s with hb := { s.hb with poisoned := s.hb.poisoned.map (fun l =>
      if a ≤ l * 256 ∧ l * 256 < a + unitBytes then l - a / 256 + b / 256 else l) } }

/-- The units beyond those in service moved to free ones; `fuel` bounds how many. -/
def relay : Nat → State → State
  | 0, s => s
  | fuel + 1, s =>
    match (s.hb.shards.flatMap (fun h => h.units.flatMap (fun u => u.2.2))).find? (fun u => decide (s.hb.unitsTotal ≤ u)), freeUnits s with
    | some src, dst :: _ =>
      let s := moveUnit s src dst
      relay fuel { s with hb := { s.hb with shards := s.hb.shards.map (fun h =>
        { h with units := h.units.map (fun u => (u.1, u.2.1, u.2.2.map (fun x => if x = src then dst else x))) }) } }
    | _, _ => s

/-- Shards evicted until the allocation fits, and the rest re-laid over the devices in service; the floor state holds both (R342,
R535). -/
def fitHarbour (s : State) : State :=
  if s.power.floor then s
  else
    let s := evictToFit abortUpdate (s.hb.shards.length + 1) s
    relay (unitsUsed s + 1) s

/-- The lines of the dump region and the context save region that hold something (R314). -/
def regionLines (s : State) : List Nat :=
  let top := dumpRegionBytes + saveRegionBytes s.variant
  ((s.mem.filter (fun c => decide (harbourAddr 0 ≤ c.1) && decide (c.1 < harbourAddr 0 + top))).map (fun c => (c.1 - harbourAddr 0) / 256)).eraseDups

/-- Lines of the reserved regions and of the units in use whose contents lay on one device: lines lie on the devices in service in turn. -/
def linesOfDevice (s : State) (place n : Nat) : List Nat :=
  let units := (s.hb.shards.flatMap (fun h => h.units.flatMap (fun u => u.2.2))).flatMap (fun u =>
    (List.range (unitBytes / 256)).map (· + unitStart s.variant u / 256))
  (regionLines s ++ units).filter (fun l => decide (l % n = place))

/-- A memory device leaves service: its lines are poisoned, and the harbour shrinks to what the others hold (R535, R536). -/
def failDevice (s : State) (dev : Nat) : State :=
  let n := devicesIn s
  let place := ((s.age.devices.take dev).filter (fun r => decide (r ≠ 0))).length
  let lost := linesOfDevice s place n
  let s := unqueue { s with
    age := { s.age with devices := s.age.devices.set dev 0 },
    hb := { s.hb with poisoned := s.hb.poisoned ++ lost.filter (fun l => decide (l ∉ s.hb.poisoned)) } } .memory dev
  let s := showDevices s
  let s := spareNow { s with hb := { s.hb with unitsTotal := unitsOfDevices s.variant (devicesIn s) } }
  degrade (fitHarbour s) .memory dev

/-- MEMORY_DEVICE_FAIL (R535). -/
def execMemoryDeviceFail (device : Nat) (s : State) : Result :=
  .next (if configurable s ∧ s.age.devices.getD device 0 ≠ 0 then settle (failDevice s device) else s)

/-! ## The standby management die (R532, R547) -/

/-- STANDBY_DIE_FAULT: the standby fails its test, so no die is ready to take over (R532, R536). -/
def execStandbyDieFault (s : State) : Result :=
  .next (if controlRuns s ∧ standsBy s .mgmt (1 - s.host.owner % 2) then failStandby s else s)

end Sys2Proof.Machine
end

