-- ==== Sys2Proof/Machine/Ageing.lean ====
section
/-!
DEFINITION. The ageing monitors, the margin planner, spare tests and planned swaps (R526 to R534).
-/
namespace Sys2Proof.Machine

open Sys2Proof

/-! ## Monitors (R526 to R528) -/

/-- The kind of a monitor as R538 numbers it, and the ordinal of the die that it stands on. -/
def monKind (n : Nat) : Nat := if n < 144 then 0 else if n < 208 then 1 else if n < 408 then 2 else if n < 808 then 3 else 4
def monDie (n : Nat) : Nat :=
  if n < 144 then n / 4
  else if n < 208 then 88 + (n - 144) / 8
  else if n < 408 then (n - 208) / 2
  else if n < 808 then (n - 408) / 4
  else if n < 1016 then 36 + (n - 808) / 4
  else 96 + (n - 1016) / 4

/-- A temperature in whole °C, halves rounded up. -/
def celsius (v : Int) : Int := (v + 8) / 16

/-- How far a value stands above its wear limit; below zero it is worn. -/
def marginOf (kind : Nat) (v : Int) : Int :=
  if kind = 0 then v - 12 else if kind = 1 then v - 10 else if kind = 2 then 99 - celsius v else if kind = 3 then v - 20 else v - 40

/-- Whether a value crosses the fail limit of its kind. -/
def failsAt (kind : Nat) (v : Int) : Bool :=
  if kind = 0 then decide (v < 6) else if kind = 1 then decide (v < 5) else if kind = 2 then decide (105 < celsius v)
  else if kind = 3 then decide (v < 5) else decide (v < 20)

/-- Whether a monitor's die is powered: in service, standing by, or under test, with its rail up (R503, R527). The management and
clock-and-power dies stand on the control input, and the devices of a memory eye on the memory rail. -/
def dieRuns (s : State) (n : Nat) : Bool :=
  let u := monDie n
  (serves (dieState s u) || decide (dieState s u = .standby) || decide (dieState s u = .testing)) &&
    (decide (96 ≤ u) || s.pins.pgCore) && (decide (monKind n ≠ 1) || s.pins.pgMem)

/-- The lanes that a lane eye monitor takes in turn: those that carry data, and lane 8 while it is activated. -/
def eyeLanes (s : State) (p : Nat) : BitVec 9 :=
  (if (portOf s p).state = .up then (portOf s p).active else 0) ||| (if (portOf s p).lane8On then 0x100 else 0)

/-- The lane whose turn it is at a lane eye monitor: the next above the last one, round again; none where no lane carries data (R527). -/
def eyeTurn (s : State) (p : Nat) : Option Nat :=
  let l := (List.range 9).filter (fun i => (eyeLanes s p).getLsbD i)
  match l.find? (fun i => decide (Tab.getD s.age.eyeLast p 9 < i)) with
  | some i => some i
  | none => l.head?

/-- Whether a monitor gives a sample. -/
def monRuns (s : State) (n : Nat) : Bool := dieRuns s n && (decide (144 ≤ n) || (eyeTurn s n).isSome)

/-- Whether a reading of a monitor is a sample: a lane eye is that of the lane whose turn it is. -/
def validReading (s : State) (r : MonReading) : Bool :=
  r.value.isSome && dieRuns s r.number && (decide (144 ≤ r.number) || decide (eyeTurn s r.number = some r.sub.toNat))

/-- CP_MON of a monitor, and what it holds (R538). -/
def monOff (n : Nat) : Nat := cpBase + 0x1000 + 4 * n
def monValue (s : State) (n : Nat) : Option Int :=
  if regBit s (monOff n) 31 then some (signed 16 (regField s (monOff n) 15 0)) else none

/-- The word of a sample. -/
def monWord (s : State) (r : MonReading) (v : BitVec 16) : Word :=
  BitVec.ofNat 32 (2 ^ 31 + b01 s.power.floor * 2 ^ 30 + monKind r.number * 2 ^ 20 +
    (if r.number < 144 then r.sub.toNat else 0) * 2 ^ 16 + v.toNat)

/-- The key under which the lowest sample of a unit is kept: the monitor, or each lane of a lane eye monitor. -/
def lowKey (n : Nat) (sub : BitVec 4) : Nat := if n < 144 then 1024 + 9 * n + sub.toNat else n

/-- Whether a monitor's unit is being tested or drained, so that its samples are no inputs of the planner (R530). -/
def heldOut (s : State) (r : MonReading) : Bool :=
  if r.number < 144 then
    (match (portOf s r.number).swap with
     | none => decide (r.sub = 8) && !(portOf s r.number).active.getLsbD 8
     | some w => decide (r.sub = 8) || decide (r.sub.toNat = w.lane))
  else
    let u := monDie r.number
    decide (dieState s u = .testing) || decide (dieState s u = .draining) ||
      (decide (80 ≤ u) && decide (u < 88) && decide (3 ≤ monKind r.number) &&
        (match blockState s (4 * (u - 80) + (r.number - 408) % 4) with
         | .testing => true
         | .draining => true
         | _ => false))

/-- The lower of a kept value and a new one. -/
def keepLow : List (Nat × Int) → Nat → Int → List (Nat × Int)
  | [], k, v => [(k, v)]
  | (k', v') :: l, k, v => if k' = k then (k, min v' v) :: l else (k', v') :: keepLow l k v

/-- The units under test that a monitor watches: those of its die (R532). -/
def underTest (s : State) (n : Nat) : List (UnitKind × Nat) :=
  [UnitKind.plane, .reduction, .epb, .mgmt, .clock].flatMap (fun k =>
    ((unitsOf s k).filter (fun i => decide (unitState s k i = .testing) && decide (unitOrd s k i = monDie n))).map (fun i => (k, i)))

/-- What a sample says of the tests that run: the eye of lane 8, and the units whose monitors are beyond a wear limit (R532). -/
def noteTests (s : State) (r : MonReading) (v : Int) : State :=
  if r.number < 144 then
    (if r.sub = 8 ∧ lane8InTest (portOf s r.number) then updPort s r.number (fun x => { x with lane8Eyes := x.lane8Eyes ++ [v] }) else s)
  else if 0 ≤ marginOf (monKind r.number) v then s
  else { s with age := { s.age with testWorn := s.age.testWorn ++ underTest s r.number } }

/-- One reading: CP_MON, what it says of the tests, and the planner's input where it is one. -/
def takeReading (s : State) (r : MonReading) : State := match r.value with
  | none => s
  | some v =>
    if 1024 ≤ r.number ∨ !validReading s r then s
    else
      let s := if r.number < 144 then { s with age := { s.age with eyeLast := Tab.put s.age.eyeLast r.number r.sub.toNat } } else s
      let s' := noteTests (setReg s (monOff r.number) (monWord s r v)) r (signed 16 v.toNat)
      if s.power.floor ∨ monKind r.number = 2 ∨ heldOut s r then s'
      else { s' with age := { s'.age with lowest := keepLow s'.age.lowest (lowKey r.number r.sub) (signed 16 v.toNat) } }

/-- Whether readings take a monitor of the standby management die beyond a wear limit, outside the floor state (R532). -/
def standbyWears (s : State) (readings : List MonReading) : Bool :=
  !s.power.floor && readings.any (fun r => decide (r.number < 1024) && validReading s r && decide (dieState s (monDie r.number) = .standby) &&
    decide (96 ≤ monDie r.number) && decide (monDie r.number < 98) && (match r.value with
      | none => false
      | some v => decide (marginOf (monKind r.number) (signed 16 v.toNat) < 0)))

/-- The dies whose temperature stands recorded as beyond the fail limit; one that has cooled is recorded again when it next crosses
(R529). -/
def keepHot (s : State) : State :=
  { s with age := { s.age with hotDies := s.age.hotDies.filter (fun u => [208 + 2 * u, 209 + 2 * u].any (fun n => match monValue s n with
    | none => false
    | some v => failsAt 2 v)) } }

/-- A sweep of every monitor: what gives no sample reads VALID 0. A monitor that runs and of which the row brings no reading shows what it
showed (R527, R538; log 216). -/
def sampleAll (s : State) (readings : List MonReading) : State :=
  let s := ((List.range 1024).filter (fun n => !monRuns s n)).foldl (fun s n => setReg s (monOff n) 0) s
  let s := setReg s (cpBase + 0x100) (reg s (cpBase + 0x100) + 1)
  keepHot (readings.foldl takeReading s)

/-! ## Which unit a monitor watches (R526, R533) -/

/-- The unit that a swap for a monitor's value swaps: a lane as 9 for each port and one for each lane; none for a port die or a
memory die, which have no spare, and for temperatures, which cause no swap. -/
def monUnit (n sub : Nat) : Option (UnitKind × Nat) :=
  let u := monDie n
  if n < 144 then some (.lane, 9 * n + sub)
  else if n < 208 then some (.memory, (n - 144) / 4)
  else if n < 408 then none
  else if 36 ≤ u ∧ u < 54 then some (.plane, u - 36)
  else if 54 ≤ u ∧ u < 80 then some (.reduction, u - 54)
  else if 80 ≤ u ∧ u < 88 then some (.epb, 4 * (u - 80) + (n - 408) % 4)
  else if 96 ≤ u ∧ u < 98 then some (.mgmt, u - 96)
  else if 98 ≤ u then some (.clock, u - 98)
  else none

/-- The monitor and the lane of a planner key. -/
def keyMon (k : Nat) : Nat × Nat := if k < 1024 then (k, 0) else ((k - 1024) / 9, (k - 1024) % 9)

/-! ## Waiting swaps (R533) -/

/-- The place of a swap in the order: rank 0 for a fail limit or a failure and 1 for a wear limit, then the worst margin, then the
lower die ordinal or port. -/
def swapKey (s : State) (rank : Nat) (margin : Int) (k : UnitKind) (n : Nat) : Nat :=
  let place := match k with
    | .lane => n / 9
    | _ => unitOrd s k n
  (rank * 2 ^ 20 + (margin + 2 ^ 17).toNat) * 2 ^ 10 + place

/-- A swap put into the queue at its place. -/
def insertSwap (x : Nat × UnitKind × Nat) : List (Nat × UnitKind × Nat) → List (Nat × UnitKind × Nat)
  | [] => [x]
  | y :: l => if x.1 < y.1 then x :: y :: l else y :: insertSwap x l

/-- Whether a unit is in service and so may be swapped. -/
def swappable (s : State) (k : UnitKind) (n : Nat) : Bool := match k with
  | .lane => (portOf s (n / 9)).active.getLsbD (n % 9) && decide ((portOf s (n / 9)).state = .up) && (portOf s (n / 9)).swap.isNone
  | .memory => decide (s.age.devices.getD n 0 ≠ 0)
  | .clock => decide (unitState s k n = .active) && !s.age.retiredClock
  | .epb => decide (unitState s k n = .active) && (numberOf s n).isSome
  | _ => decide (unitState s k n = .active)

/-- A swap scheduled; one that waits already keeps the more urgent place. -/
def schedule (s : State) (rank : Nat) (margin : Int) (k : UnitKind) (n : Nat) : State :=
  if !swappable s k n then s
  else
    let key := swapKey s rank margin k n
    match s.age.swapQueue.find? (fun e => decide (e.2.1 = k) && decide (e.2.2 = n)) with
    | some e => if e.1 ≤ key then s
        else { unqueue s k n with age := { (unqueue s k n).age with swapQueue := insertSwap (key, k, n) (unqueue s k n).age.swapQueue } }
    | none => { s with age := { s.age with swapQueue := insertSwap (key, k, n) s.age.swapQueue } }

/-- A lane that must leave service with no spare lane: the port trains again on what is left (R404, R536). -/
def dropLane (s : State) (p lane : Nat) : State := retrainPort (degrade (failLane s p lane) .lane p) p

/-- A waiting swap begun, where it waits for no row of its own: a plane, a reduction die and a block with a spare do, and a lane whose spare
is in its first test does until that is over (R532). A worn unit of a kind that has no spare leaves service as one that fails (R31, R536);
a clock-and-power die, which has no degraded mode, serves on. -/
def beginSwap (s : State) (k : UnitKind) (n : Nat) : State := match k with
  | .lane =>
    if canSwap s (n / 9) (n % 9) then
      (if lane8InTest (portOf s (n / 9)) ∧ !(portOf s (n / 9)).lane8Tested then s
       else beginLaneSwap (unqueue s k n) (n / 9) (n % 9) true)
    else dropLane (unqueue s k n) (n / 9) (n % 9)
  | .plane => if (spareFor s k n).isSome then s else failPlane s n
  | .reduction => if (spareFor s k n).isSome then s else failReduction s n
  | .epb => if (spareFor s k n).isSome then s else failBlock s n
  | .mgmt =>
    if n = s.host.owner % 2 ∧ s.host.standbyReady then takeover (unqueue s k n) foPlanned
    else if s.age.degraded.getLsbD (kindCode .mgmt) then unqueue s k n
    else degrade (unqueue s k n) .mgmt n
  | .clock =>
    if (spareFor s k n).isSome then { unqueue s k n with age := { (unqueue s k n).age with retiredClock := true } } else unqueue s k n
  | .memory => countSwap (failDevice s n)
  | _ => unqueue s k n

/-- The failed units that waited for a swap to end replaced (R533). -/
def replaceWaiting (s : State) : State :=
  if swapRuns s then s
  else s.age.replace.foldl (fun s e => replaceUnit s e.1 e.2.1 e.2.2) { s with age := { s.age with replace := [] } }

/-- The swaps that wait, as far as one after another can be taken; `fuel` bounds how many. -/
def nextSwaps : Nat → State → State
  | 0, s => s
  | fuel + 1, s =>
    if swapRuns s then s
    else match s.age.swapQueue with
      | [] => s
      | e :: _ =>
        if !swappable s e.2.1 e.2.2 then nextSwaps fuel (unqueue s e.2.1 e.2.2)
        else
          let s' := beginSwap s e.2.1 e.2.2
          if s'.age.swapQueue.length < s.age.swapQueue.length then nextSwaps fuel s' else s

/-! ## The planner (R530, R539) -/

/-- The lowest value of the inputs that pass a test. -/
def lowestOf (s : State) (mine : Nat → Bool) : Option Int :=
  (s.age.lowest.filter (fun e => decide (e.1 < 1024) && mine e.1 && serves (dieState s (monDie e.1)))).foldl (fun m e =>
    some (match m with
      | none => e.2
      | some x => min x e.2)) none

/-- G, in mV. -/
def guardMv (s : State) : Int := signed 8 (regField s (mgBase + 0x600) 7 0)

/-- The core set point that the planner's G calls for, and the one that the clamp allows, in mV (R504). -/
def wantedMv (s : State) : Int := (Config.baseMv : Int) + guardMv s
def clampMv (v : Int) : Int := max 700 (min 850 v)

/-- Whether the set point stands at the clamp, short of base + G. -/
def heldAtClamp (s : State) : Bool :=
  decide (clampMv (wantedMv s) ≠ wantedMv s) && decide (((regField s (cpBase + 0x24) 9 0 : Nat) : Int) = clampMv (wantedMv s))

/-- What the planner does with G: the new G and LAST_ACTION. -/
def moveGuard (hold : Bool) (slack sram : Option Int) (g : Int) : Int × Nat :=
  if hold then (g, 4)
  else
    let low : Bool := match slack with
      | none => false
      | some x => decide (x < 20)
    let high : Bool := match slack, sram with
      | some x, some y => decide (40 ≤ x) && decide (40 ≤ y)
      | _, _ => false
    if low then (if g < 25 then (g + 5, 1) else (g, 3))
    else if high then (if -25 < g then (g - 5, 2) else (g, 3))
    else (g, 0)

/-- One run of the planner. -/
def planOnce (s : State) : State :=
  let g := guardMv s
  let g0 := if heldAtClamp s then 25 else g
  let m := moveGuard (regBit s (mgBase + 0x604) 1) (lowestOf s (fun n => decide (monKind n = 3))) (lowestOf s (fun n => decide (monKind n = 4))) g
  let low := s.age.lowest
  let s := setRegField (setRegField s (mgBase + 0x600) 7 0 (wrap 8 m.1)) (mgBase + 0x600) 11 8 m.2
  let s := setRegField { s with age := { s.age with lowest := [], runDue := false } } (mgBase + 0x604) 0 0 0
  let s := low.foldl (fun s e =>
    let n := (keyMon e.1).1
    let kind := monKind n
    if marginOf kind e.2 < 0 ∧ (g0 = 25 ∨ kind ≠ 3) then
      (match monUnit n (keyMon e.1).2 with
       | none => s
       | some u => schedule s 1 (marginOf kind e.2) u.1 u.2)
    else s) s
  nextSwaps (s.age.swapQueue.length + 1) s

/-- A run that is due, or asked for: it waits while a swap is in progress. -/
def planRun (s : State) : State :=
  if swapRuns s then { s with age := { s.age with runDue := true } } else planOnce s

/-- RUN written: it reads 1 while its run waits (R12, R539). -/
def askRun (s : State) : State :=
  let s := planRun s
  if s.age.runDue then setRegField s (mgBase + 0x604) 0 0 1 else s

/-- What follows the end of a swap: the failed units that wait for a spare, the next swap, or a planner run that waited. -/
def afterSwap (s : State) : State :=
  let s := replaceWaiting s
  let s := nextSwaps (s.age.swapQueue.length + 1) s
  if s.age.runDue ∧ !swapRuns s then planOnce s else s

/-! ## Spare tests (R532) -/

/-- LIMITING of CP_CAP_STATE. -/
def limiting (s : State) : Bool := regBit s (cpBase + 8) 16

/-- Whether firmware defers tests (R532). -/
def testsWait (s : State) : Bool := s.power.floor || limiting s

/-- SPARE_TEST: a spare is powered up and tested; a port's lane 8 is activated. The reserved spare of a swap is not tested. -/
def startTest (s : State) (k : UnitKind) (n : Nat) : State := match k with
  | .lane =>
    let r := portOf s n
    if decide (r.cable = .ready) && !r.lane8On && r.swap.isNone && !r.active.getLsbD 8 && !r.lanesFailed.getLsbD 8
    then logLane (emit (updPort s n (fun r => { r with lane8On := true, lane8Eyes := [] })) (.sideband n sbLane8On)) n (spareLaneState r) .testing 532
    else s
  | _ =>
    if n ∈ unitsOf s k ∧ (unitState s k n = .spareTested ∨ unitState s k n = .spareUntested) ∧ !reserved s k n
    then setUnit { s with age := { s.age with testWorn := s.age.testWorn.filter (fun e => decide (e ≠ (k, n))) } } k n .testing 532 else s

/-- The tests that were deferred started. -/
def startDue (s : State) : State :=
  if testsWait s ∨ !portsRun s then s
  else s.age.testsDue.foldl (fun s e => startTest s e.1 e.2) { s with age := { s.age with testsDue := [] } }

/-! ## The rows of monitors and planner -/

/-- MONITOR_SAMPLE (R527); swaps that wait go on where the one before them is over. -/
def execMonitorSample (readings : List MonReading) (s : State) : Result :=
  .next (if !controlRuns s then s
    else
      let s := if standbyWears s readings then failStandby (sampleAll s readings) else sampleAll s readings
      if configurable s then settle (startDue (afterSwap s)) else s)

/-- The record of a die whose temperature crosses the fail limit, one for each crossing (R529). -/
def recordHot (s : State) (u : Nat) : State :=
  if u ∈ s.age.hotDies then s
  else logFault { s with age := { s.age with hotDies := s.age.hotDies ++ [u] } } 4 fcThermal.toNat u 529

/-- FAIL_LIMIT_RESPONSE: a sample beyond its fail limit swaps its unit, and a temperature is recorded (R529). -/
def execFailLimitResponse (monitor : Nat) (s : State) : Result :=
  .next (match monValue s monitor with
    | none => s
    | some v =>
      let k := monKind monitor
      if !configurable s ∨ 1024 ≤ monitor ∨ !failsAt k v then s
      else if k = 2 then recordHot s (monDie monitor)
      else match monUnit monitor (regField s (monOff monitor) 19 16) with
        | none => s
        | some u =>
          let s := schedule s 0 (marginOf k v) u.1 u.2
          settle (nextSwaps (s.age.swapQueue.length + 1) s))

/-- PLANNER_PERIOD: 15 minutes since the last run (R530); recovery firmware plans nothing (R447). -/
def execPlannerPeriod (s : State) : Result := .next (if configurable s ∧ !recovery s then settle (planRun s) else s)

/-- RUN in MG_PLAN_CTRL (R530, R539). -/
def execRun (s : State) : Result := .next (if configurable s then settle (unlessRecovery s (mgBase + 0x604) 1 (askRun s)) else s)

/-- SPARE_TEST (R532): a test that comes while the floor state holds or LIMITING reads 1 is deferred. -/
def execSpareTest (kind : UnitKind) (unit : Nat) (s : State) : Result :=
  .next (if !portsRun s then s
    else if testsWait s then
      (if (kind, unit) ∈ s.age.testsDue then s else { s with age := { s.age with testsDue := s.age.testsDue ++ [(kind, unit)] } })
    else startTest s kind unit)

/-- Whether the test of a port's lane 8 passes: every one of its nine samples is at or above the wear limit. -/
def eyesPass (r : Port) : Bool := r.lane8Eyes.all (fun v => decide (0 ≤ marginOf 0 v))

/-- The test of lane 8 of a port is over: it takes nine samples, unless the lane does not come up (`pass` false). A port that a spare lane lets
train does so (R400, R532). -/
def endLaneTest (s : State) (p : Nat) (pass : Bool) : State :=
  let r := portOf s p
  let good := pass && eyesPass r
  if !lane8InTest r ∨ (pass ∧ r.lane8Eyes.length < 9) then s
  else
    let s := updPort s p (fun r => { r with lane8On := false, lane8Tested := good, lane8Eyes := [] })
    let s := if r.present then emit s (.sideband p sbLane8Off) else s
    if good then tryTrain (logLane s p .testing .spareTested 532) p
    else logLane (countTestFail (updPort s p (fun r => { r with lanesFailed := r.lanesFailed ||| 0x100 }))) p .testing .spareFailed 532

/-- The test of a firmware slot is over: one that cannot be read back (`pass` false) or fails R445 is marked, and with the recovery slot gone
too the kind runs degraded. -/
def endSlotTest (s : State) (n : Nat) (pass : Bool) : State :=
  if (pass ∧ slotValid s n) ∨ n ∈ s.age.fwSlotsBad ∨ 3 ≤ n ∨ n = s.sec.bootSlot then s
  else
    let last := decide (2 ∈ s.age.fwSlotsBad) && decide (n ≠ 2)
    let s := countTestFail { s with age := { s.age with fwSlotsBad := s.age.fwSlotsBad ++ [n] } }
    if last then degrade s .fwSlot n else logUnit s .fwSlot n (unitCode .spareTested) (unitCode .spareFailed) 532

/-- The test of a unit of the bunting is over. A management die that passes stands by (R548); the standby's own test never ends, and
what comes is its outcome so far. `pass` is the self-test's result; a monitor of the die beyond a wear limit fails the test too. -/
def endUnitTest (s : State) (k : UnitKind) (n : Nat) (pass : Bool) : State :=
  if standsBy s k n then (if pass then putUnit s k n { unitRec s k n with testedAt := some s.now } else failStandby s)
  else if n ∉ unitsOf s k ∨ unitState s k n ≠ .testing then s
  else
    let good := pass && !s.age.testWorn.contains (k, n)
    let s := putUnit s k n { unitRec s k n with testedAt := some s.now }
    if good then
      (if k = .mgmt then setUnit { s with host := { s.host with standbyReady := true } } k n .standby 532
       else setUnit s k n .spareTested 532)
    else countTestFail (setUnit s k n .spareFailed 532)

/-- SPARE_TEST_DONE (R531, R532). -/
def execSpareTestDone (kind : UnitKind) (unit : Nat) (pass : Bool) (s : State) : Result :=
  .next (if !portsRun s then s
    else match kind with
      | .lane => endLaneTest s unit pass
      | .fwSlot => endSlotTest s unit pass
      | _ => endUnitTest s kind unit pass)

/-! ## Planned swaps (R533, R534) -/

/-- Whether a swap of a unit is the next to run. -/
def isNext (s : State) (k : UnitKind) (n : Nat) : Bool :=
  configurable s && !swapRuns s && swappable s k n && (match s.age.swapQueue with
    | [] => false
    | e :: _ => decide (e.2.1 = k) && decide (e.2.2 = n))

/-- Whether a unit may be brought into service as a spare: a tested one, or an untested one where none is tested (R15, log 55). -/
def mayServe (s : State) (k : UnitKind) (worn n : Nat) : Bool :=
  usable (unitRec s k n) ||
    (decide (unitState s k n = .spareUntested) && (match spareFor s k worn with
      | none => false
      | some m => !usable (unitRec s k m)))

/-- The spare plane in the worn plane's position, which drains (R354, R533). -/
def swapPlane (s : State) (worn spare : Nat) : State :=
  let s := setUnit (setUnit (unqueue s .plane worn) .plane spare .active 533) .plane worn .draining 533
  { s with age := { s.age with planeList := s.age.planeList.map (fun x => if x = worn then spare else x),
                               swap := some (.plane, worn, spare) } }

/-- PLANE_SWAP (R533). -/
def execPlaneSwap (worn spare : Nat) (s : State) : Result :=
  .next (if isNext s .plane worn ∧ mayServe s .plane worn spare then settle (swapPlane s worn spare) else s)

/-- The spare reduction die in service with its window zeroed; the worn die takes no new claim (R160, R533). -/
def swapReduction (s : State) (worn spare : Nat) : State :=
  let s := clearScratch (setUnit (unqueue s .reduction worn) .reduction spare .active 533) spare
  let s := setUnit s .reduction worn .draining 533
  { s with age := { s.age with swap := some (.reduction, worn, spare) } }

/-- REDUCTION_DIE_SWAP (R533). -/
def execReductionDieSwap (worn spare : Nat) (s : State) : Result :=
  .next (if isNext s .reduction worn ∧ mayServe s .reduction worn spare then settle (swapReduction s worn spare) else s)

/-- A worn block takes up no new work until its requests have ended; every resident context is parked as soon as its started tiles have
retired, and the spare is kept for the swap, with a test of it that runs ended (R195, R532, R534, step 1). -/
def swapBlock (s : State) (n spare : Nat) : State :=
  let s := setUnit (unqueue s .epb n) .epb n .draining 534
  let s := if unitState s .epb spare = .testing then setUnit s .epb spare (unitRec s .epb spare).before 532 else s
  let s := { s with age := { s.age with swap := some (.epb, n, spare) } }
  match numberOf s n with
  | none => s
  | some b => (s.ctxBlocks.filter (fun e => decide (e.1.1 = b) && e.2.resident)).foldl (fun s e => beginPark s b e.1.2) s

/-- END_POINT_BLOCK_SWAP of block number `block` (R534). -/
def execEndPointBlockSwap (block : Nat) (s : State) : Result :=
  .next (match servedBy s block with
    | none => s
    | some n => match spareFor s .epb n with
      | none => s
      | some m => if isNext s .epb n then settle (swapBlock s n m) else s)

end Sys2Proof.Machine
end

