-- ==== Sys2Proof/Machine/LockRows.lean ====
section
/-!
DEFINITION. The rows of lock-step: its packets, the wait for a match, and RESUME (R490 to R495).
-/
namespace Sys2Proof.Machine

open Sys2Proof

/-- Whether a lock-step packet on a port is taken: lock-step runs, on this port (R489). -/
def takesLs (s : State) (p : Nat) : Bool := inService s && isLsPort s p && portUp s p && decide (s.ls.state ≠ .off)

/-- A lock-step packet on a port: it takes the steps of every MGMT packet, and is acknowledged (R489). -/
def takeLs (s : State) (port : Nat) (opcode : Byte) (pkt : Packet) (laidOut : Bytes → Bool) (k : State → Bytes → State) : State :=
  if takesLs s port then takeMgmt s opcode pkt laidOut (fun s bs => k (ackMgmt s pkt.hdr) bs) else s

/-- The payload of LS_PAIR, as the module sends it: R490 names its fields and not their places (DESIGN CHOICE, log 193). -/
def pairOf (bs : Bytes) : LsPairMsg where
  fid := BitVec.ofNat 16 (fieldAt bs 0 2)
  features := (List.range 4).map (fun i => BitVec.ofNat 32 (fieldAt bs (4 + 4 * i) 4))
  glbId := BitVec.ofNat 32 (fieldAt bs 20 4)
  role := BitVec.ofNat 2 (fieldAt bs 24 1)

/-- The record at a place of a payload, and whether its bytes 1 to 7 are zero (R491). -/
def lsRecAt (bs : Bytes) (at_ : Nat) : LsRec where
  kind := byteAt bs at_
  key := BitVec.ofNat 64 (fieldAt bs (at_ + 8) 8)
  value := BitVec.ofNat 64 (fieldAt bs (at_ + 16) 8)
def lsRecOk (bs : Bytes) (at_ : Nat) : Bool := reservedZero bs (at_ + 1) (at_ + 8)

/-- The places of the records of an LS_RECORD. -/
def lsPlaces (bs : Bytes) : List Nat := (List.range (bs.length / 24)).map (fun i => 24 * i)

/-- Whether both modules agree on every field of LS_PAIR but the fabric ID. -/
def pairAgrees (s : State) (m : LsPairMsg) : Bool :=
  decide (m.features = acceptedWords s) && decide (m.glbId = reg s glbBase) && decide (m.role = s.role)

/-- LS_PAIR in PAIRING: COMPARING, or MISMATCH with a record (R490). -/
def takePair (s : State) (m : LsPairMsg) : State :=
  if s.ls.state ≠ .pairing then s
  else if pairAgrees s m then { s with ls := { s.ls with state := .comparing } }
  else logFault { s with ls := { s.ls with state := .mismatch } } 2 0 0 490

/-- LS_PAIR (R490). -/
def execLsPair (port : Nat) (pkt : Packet) (s : State) : Result :=
  .next (takeLs s port mgLsPair pkt (fun bs => decide (bs.length = 32) && reservedZero bs 2 4 && decide (fieldAt bs 24 1 < 4) && reservedZero bs 25 32)
    (fun s bs => settle (takePair s (pairOf bs))))

/-- LS_RECORD: the partner's records are kept until they meet local ones (R492). -/
def execLsRecord (port : Nat) (pkt : Packet) (s : State) : Result :=
  .next (takeLs s port mgLsRecord pkt (fun bs => (lsPlaces bs).all (lsRecOk bs)) (fun s bs =>
    settle (if s.ls.state = .comparing ∨ s.ls.state = .pairing ∨ s.ls.state = .frozen
      then { s with ls := { s.ls with peerRecs := s.ls.peerRecs ++ (lsPlaces bs).map (lsRecAt bs) } } else s)))

/-- LS_MATCH_TIMEOUT: a local record is unmatched for WINDOW_US (R492, log 6). -/
def execLsMatchTimeout (kind : Byte) (key : DWord) (s : State) : Result :=
  .next (match localRec s kind key with
    | none => s
    | some x =>
      if !inService s ∨ (s.ls.state ≠ .comparing ∧ s.ls.state ≠ .frozen) then s
      else
        let s := advanceTo s (x.since + us (regField s (mgBase + 0x520) 23 8))
        settle (if s.ls.state = .frozen then countDiverge (dropRec s x) else diverge s 3 kind key x.what.value 0))

/-- A divergence that the partner tells of: the first freezes the module with cause PARTNER; a later one is counted (R493). `partner` is the
VALUE that the partner had from this module. -/
def takeDiverge (s : State) (r : LsRec) (partner : DWord) : State :=
  if s.ls.state = .frozen then countDiverge s
  else if s.ls.state = .mismatch then s
  else settle (freezeOn s 5 r.kind r.key (match localRec s r.kind r.key with
    | some x => x.what.value
    | none => partner) r.value)

/-- LS_DIVERGE: the record with the partner's own VALUE, then the other VALUE (R493). -/
def execLsDiverge (port : Nat) (pkt : Packet) (s : State) : Result :=
  .next (takeLs s port mgLsDiverge pkt (fun bs => decide (bs.length = 32) && lsRecOk bs 0) (fun s bs =>
    takeDiverge s (lsRecAt bs 0) (BitVec.ofNat 64 (fieldAt bs 24 8))))

/-- RESUME in FROZEN or MISMATCH: the partner is told, and the pair begins again (R495, R500). -/
def resumePair (s : State) : State :=
  if s.ls.state = .frozen ∨ s.ls.state = .mismatch then pumpAll (beginPairing (sendLs s mgLsResume [])) else s

/-- RESUME in MG_LS_CTRL (R495). -/
def execResume (s : State) : Result := .next (if configurable s then settle (unlessRecovery s (mgBase + 0x524) 1 (resumePair s)) else s)

/-- LS_RESUME: the module does the same; while it pairs already, it changes nothing (R495). -/
def execLsResume (port : Nat) (pkt : Packet) (s : State) : Result :=
  .next (takeLs s port mgLsResume pkt (fun bs => bs.isEmpty) (fun s _ =>
    if s.ls.state = .pairing then s else settle (pumpAll (beginPairing s))))

end Sys2Proof.Machine
end

