-- ==== Sys2Proof/Machine/Power.lean ====
section
/-!
DEFINITION. Power-goods, emergency off, caps, the core set point, the floor state and PMBus (R503 to R518, R545).
-/
namespace Sys2Proof.Machine

open Sys2Proof

/-! ## Power-goods (R503, R505, R507) -/

/-- The level of a rail's power-good. -/
def railGood (s : State) : Rail → Bool
  | .core => s.pins.pgCore
  | .serdes => s.pins.pgSerdes
  | .io => s.pins.pgIo
  | .memory => s.pins.pgMem

/-- The pins with the level of a rail's power-good replaced. -/
def setRail (p : Pins) (r : Rail) (v : Bool) : Pins := match r with
  | .core => { p with pgCore := v }
  | .serdes => { p with pgSerdes := v }
  | .io => { p with pgIo := v }
  | .memory => { p with pgMem := v }

/-- Whether the variant needs a rail: a DX-144N, whose VDD_MEM lands are not connected inside the package, ignores PG_MEM (R505, R608). -/
def needsRail (v : Variant) (r : Rail) : Bool := decide (r ≠ .memory) || decide (v ≠ .dx144n)

/-- Whether every data-plane power-good that the variant needs is asserted. -/
def railsUp (s : State) : Bool := [Rail.core, .serdes, .io, .memory].all (fun r => !needsRail s.variant r || railGood s r)

/-- A rail's number in the order of R503, for POWER records. -/
def railCode : Rail → Nat
  | .core => 0
  | .serdes => 1
  | .io => 2
  | .memory => 3

/-- A data-plane power-good lost while PG_CTL stays asserted (R507). -/
def loseRail (s : State) (r : Rail) : State :=
  let s := { s with pins := setRail s.pins r false }
  if !needsRail s.variant r then s
  else
    let s := logPower (countEvent (gateData s) (cpBase + 0x28) (cpBase + 0x10) 2) (railCode r) 507
    enterFatal { s with power := { s.power with noRestart := true } } fcPgLoss 507

/-- DATA_PLANE_PG_LOSS: in OFF, with PG_CTL deasserted, the level alone changes (R507). -/
def execDataPlanePgLoss (rail : Rail) (s : State) : Result :=
  .next (if !railGood s rail then s
    else if s.mode = .off then { s with pins := setRail s.pins rail false }
    else loseRail s rail)

/-- ROOT_PLL_LOCK_LOSS: the clocks are gated, LOCK_LOST is set, and the module enters FATAL (R510, R524). -/
def execRootPllLockLoss (refLost : Bool) (s : State) : Result :=
  .next (if s.mode = .off then s
    else
      let s := setReg s (cpBase + 0x20) ((reg s (cpBase + 0x20) &&& (if refLost then 0xFFFFFFFC else 0xFFFFFFFE)) ||| 4)
      enterFatal (logPower (gateData s) 0 510) fcClock 510)

/-! ## Emergency off and the thermal trip (R511, R545) -/

/-- What the emergency-off logic does: the data plane stops, DP_OFF_N falls, and the module enters EPO_OFF (R511). -/
def enterEpo (s : State) : State :=
  let s := gateData { loseRequest s with degraded := false }
  setMode { s with power := { s.power with dpOffLow := true } } .epoOff 511

/-- EPO_N low for 1 µs (R511). -/
def execEpoAssert (s : State) : Result :=
  .next (
    let s := { s with pins := { s.pins with epoLow := true } }
    if s.mode = .off ∨ s.mode = .epoOff then s else enterEpo s)

/-- A junction reaches 115 °C (R545). -/
def execThermalTrip (s : State) : Result :=
  .next (if s.mode = .off then s else enterFatal (gateData s) fcThermal 545)

/-! ## Caps (R512 to R515, R522) -/

/-- The design maximum in watts, and the cap of a CAP_CODE. -/
def designWatts : Nat := 2800
def codeWatts (c : BitVec 4) : Nat := 28 * (100 - 5 * c.toNat)

/-- The CAP_CODE taken, and the PMBus cap. -/
def capCode (s : State) : BitVec 4 := BitVec.ofNat 4 (regField s (cpBase + 8) 15 12)
def pmbusWatts (s : State) : Nat := if s.power.pmbusCap = 0 then designWatts else s.power.pmbusCap

/-- The lower of the two caps, and the effective cap: what the thermal cap takes away comes off it (R512, R545). -/
def lowerCap (s : State) : Nat := min (codeWatts (capCode s)) (pmbusWatts s)
def effectiveCap (s : State) : Nat := (4 * lowerCap s - s.power.thermalCut) / 4

/-- SOURCE of CP_CAP_STATE. -/
def capSource (s : State) : Nat :=
  if lowerCap s = designWatts then 0
  else if codeWatts (capCode s) < pmbusWatts s then 1
  else if pmbusWatts s < codeWatts (capCode s) then 2
  else 3

/-- CAP_W and SOURCE shown; a change in the floor state waits until it ends (R518). -/
def showCap (s : State) : State :=
  if s.power.floor then s
  else setRegField (setRegField s (cpBase + 8) 11 0 (effectiveCap s)) (cpBase + 8) 19 18 (capSource s)

/-- The effective cap that holds. -/
def capNow (s : State) : Nat := regField s (cpBase + 8) 11 0

/-- A code taken (R512). -/
def setCode (s : State) (c : BitVec 4) : State := showCap (setRegField s (cpBase + 8) 15 12 c.toNat)

/-- The code on which the last three samples agree, taken; in the floor state it is kept until that ends (R512, R518). -/
def takeCode (s : State) : State := match s.power.capSamples with
  | [a, b, c] =>
    if a = b ∧ b = c then (if s.power.floor then { s with power := { s.power with capAgreed := some c } } else setCode s c) else s
  | _ => s

/-- The caps that changed in the floor state in effect (R518). -/
def takeAgreed (s : State) : State := match s.power.capAgreed with
  | none => showCap s
  | some c => setCode { s with power := { s.power with capAgreed := none } } c

/-- CAP_CODE_SAMPLE (R512). -/
def execCapCodeSample (code : BitVec 4) (s : State) : Result :=
  .next (if !controlRuns s then s
    else
      let l := s.power.capSamples ++ [code]
      takeCode { s with power := { s.power with capSamples := l.drop (l.length - 3) } })

/-- LIMITING shown; a cap that begins to limit the draw breaks the CAP condition (R483, R513). -/
def showLimiting (s : State) (on : Bool) : State :=
  let was := limiting s
  let s := setRegField s (cpBase + 8) 16 16 (b01 on)
  if on && !was then detBreak s detCap else s

/-- The end of a cap overrun (R515). -/
def endOverrun (s : State) (since : Nat) : State :=
  let n := min ((s.now - since) / cyclesPerUs) 0xFFFFFFFF
  let s := countEvent s (cpBase + 0x14) (cpBase + 0x10) 0
  let s := setReg s (cpBase + 0x18) (BitVec.ofNat 32 n)
  let s := setRegField { s with power := { s.power with overrunSince := none } } (cpBase + 8) 17 17 0
  detBreak (logPower s n 515) detCap

/-- UP_SLEW and DOWN_SLEW, as hundredths of a watt in the 10 µs between measurements (R514, R521). -/
def upStep (s : State) : Nat := regField s (cpBase + 4) 9 0
def downStep (s : State) : Nat := regField s (cpBase + 4) 25 16

/-- The power that the draw is held to, in hundredths of a watt: the effective cap, and 700 W in the floor state (R513, R517). -/
def heldTo (s : State) : Nat := 100 * (if s.power.floor then min (capNow s) 700 else capNow s)

/-- What the draw may reach by the next measurement, from a draw d: one step of the slews toward what it is held to, and in the
floor state that at once (R514, R517, log 185). -/
def nextCeiling (s : State) (d : Nat) : Nat :=
  let c := heldTo s
  if s.power.floor then c
  else if c < d then max c (d - downStep s)
  else min c (d + upStep s)

/-- The idle activity that fills a fall of the workload: with SMOOTH set the draw falls by one step of DOWN_SLEW at most, and fill
stays below what the draw is held to (R514, log 185). -/
def nextFill (s : State) (d : Nat) : Nat :=
  let work := d - s.power.fill
  if regBit s (cpBase + 4) 31 ∧ !s.power.gated then min (heldTo s) (max work (s.power.level - downStep s)) - work else 0

/-- How many 64ths of the issue slots are withheld from here on, at a draw d that is to keep to a ceiling: more than before while it is above,
up to all of them, and fewer than before where the slots withheld have made it fall faster than DOWN_SLEW outside the floor state. What the
spec leaves to the controller is a free value (R513, R514, R517, R614; log 185). -/
def withhold (s : State) (watts d ceiling : Nat) : Nat :=
  let free := Config.withheldSlots watts (ceiling / 100)
  if ceiling < d then min 64 (max (s.power.withheld + 1) (free % 65))
  else if !s.power.floor ∧ d + downStep s < s.power.level then min (s.power.withheld - 1) (free % 65)
  else free % 65

/-- A measurement acts against cap and slews: the ceiling, the fill and the slots withheld (R513, R514). -/
def steer (s : State) (watts : Nat) : State :=
  let d := 100 * watts
  let ceiling := nextCeiling s d
  let fill := nextFill s d
  { s with power := { s.power with ceiling := ceiling, level := d - s.power.fill + fill, fill := fill,
                                   withheld := withhold s watts d ceiling } }

/-- Whether a cap limits a draw: slots are withheld to keep it to the effective cap, it exceeds that cap, or the thermal cap is in force. The
slews and the floor state's 700 W are no cap (R513, R522, R545). -/
def capLimits (s : State) (watts : Nat) : Bool :=
  decide (s.power.withheld ≠ 0 ∧ s.power.ceiling = 100 * capNow s) || decide (capNow s < watts) || decide (s.power.thermalCut ≠ 0)

/-- A measurement of the draw: CP_POWER, the slots withheld, LIMITING and the overrun (R513, R514, R515). -/
def measure (s : State) (watts : Nat) : State :=
  let s := steer (setReg s (cpBase + 0xC) (BitVec.ofNat 32 watts)) watts
  let cap := capNow s
  let s := showLimiting s (capLimits s watts)
  match s.power.overrunSince with
  | none => if cap < watts
      then setRegField { s with power := { s.power with overrunSince := some s.now } } (cpBase + 8) 17 17 1 else s
  | some t => if cap < watts then s else endOverrun s t

/-- POWER_MEASURE (R513). -/
def execPowerMeasure (watts : BitVec 12) (s : State) : Result := .next (if controlRuns s then measure s watts.toNat else s)

/-- THERMAL_CAP_STEP: one millisecond of the thermal cap. The effective cap falls to 0 at the lowest, and rises from where it is (R545). -/
def thermalStep (s : State) (hottest : Int) : State :=
  let s := if 105 < celsius hottest ∧ !s.power.thermalOn
    then countEvent { s with power := { s.power with thermalOn := true } } (mgBase + 0xA18) (mgBase + 0xA00) 2 else s
  let s := if celsius hottest ≤ 100 then { s with power := { s.power with thermalOn := false } } else s
  let most := 4 * lowerCap s
  let cut := if s.power.thermalOn then min (s.power.thermalCut + 175) most
    else min s.power.thermalCut most - 4 * regField s (cpBase + 4) 9 0
  let s := showCap { s with power := { s.power with thermalCut := cut } }
  showLimiting s (capLimits s (regField s (cpBase + 0xC) 11 0))

/-- THERMAL_CAP_STEP (R545). -/
def execThermalCapStep (hottest : BitVec 16) (s : State) : Result :=
  .next (if controlRuns s ∧ !s.power.gated then thermalStep s (signed 16 hottest.toNat) else s)

/-! ## The core set point (R504, R523) -/

/-- One step of the set point toward base + G within the clamp; the first sets the fused base voltage. -/
def stepVset (s : State) : State :=
  let cur := regField s (cpBase + 0x24) 9 0
  let want := (clampMv (wantedMv s)).toNat
  let next := if cur = 0 then (clampMv (Config.baseMv : Int)).toNat
    else if cur < want then min (cur + 5) want
    else max (cur - 5) want
  if next = cur then s
  else
    let s := advanceTo s (if cur = 0 then 0 else s.power.lastVsetAt + us 100)
    emit (setReg { s with power := { s.power with lastVsetAt := s.now } } (cpBase + 0x24) (BitVec.ofNat 32 next)) (.vout next)

/-- CORE_VSET_STEP (R504, log 6). -/
def execCoreVsetStep (s : State) : Result := .next (if controlRuns s then stepVset s else s)

/-- Whether VREF_1V8 is present: while PG_CTL is asserted, and not in OFF (R611). -/
def vref1v8 (s : State) : Bool := s.pins.pgCtl && decide (s.mode ≠ .off)

/-! ## The test port (R609) -/

/-- The levels of TCK, TMS, TDI and TRST_N by their internal biases: no command of the block drives them, so TRST_N holds the port in reset
(log 219). -/
def testPins : Bool × Bool × Bool × Bool := (true, true, true, false)

/-- The dies that the test port's chain passes, in the die order of R14: their ordinals. -/
def testChain (s : State) : List Nat := List.range s.age.dies.length

/-! ## Fast shed and the floor state (R517, R518) -/

/-- The floor state entered where FAST_SHED_N is low and the data-plane rails are up, whichever came first (R517). -/
def floorIfShed (s : State) : State :=
  if s.mode = .off ∨ s.power.floor ∨ !railsUp s ∨ !s.pins.shedLow then s
  else
    let s := { s with power := { s.power with floor := true, arithHalf := true } }
    detBreak (countEvent (setRegField s (cpBase + 8) 20 20 1) (cpBase + 0x1C) (cpBase + 0x10) 1) detCap

/-- FAST_SHED_N low for 1 µs (R517). -/
def execFastShedAssert (s : State) : Result := .next (floorIfShed { s with pins := { s.pins with shedLow := true } })

/-- What waited for the end of the floor state goes on (R342, R535). -/
def leaveFloor (s : State) : State :=
  let s := flushHeld (setRegField { s with power := { s.power with floor := false, arithHalf := false } } (cpBase + 8) 20 20 0)
  let s := takeAgreed s
  if configurable s then settle (resumePieces (retryPrepares (runSweeps (releasePorts (fitHarbour s))))) else s

/-- FAST_SHED_N high for 1 ms (R518). -/
def execFastShedRelease (s : State) : Result :=
  .next (
    let s := { s with pins := { s.pins with shedLow := false } }
    if s.power.floor then leaveFloor s else s)

/-! ## PMBus (R516) -/

/-- The hottest junction among the valid temperature samples, in 1/16 °C. -/
def hottest (s : State) : Option Int :=
  ((List.range 200).filterMap (fun i => monValue s (208 + i))).foldl (fun m v =>
    some (match m with
      | none => v
      | some x => max x v)) none

/-- STATUS_WORD: TEMPERATURE, CML, POWER_GOOD# and MFR. -/
def pmbStatus (s : State) : Nat :=
  (match hottest s with
   | none => 0
   | some v => if 100 ≤ celsius v then 4 else 0) +
  b01 s.power.cml * 2 + b01 (!railsUp s) * 2048 + b01 (limiting s) * 4096

/-- Whether PMB_ALERT_N is asserted. -/
def pmbAlert (s : State) : Bool := decide (pmbStatus s ≠ 0)

/-- A value in LINEAR11 with the smallest exponent from 0 up that holds it; `fuel` bounds the exponent. -/
def linear11 : Nat → Nat → Int → Nat
  | 0, e, v => e * 2048 + wrap 11 v
  | fuel + 1, e, v => if -1024 ≤ v ∧ v ≤ 1023 then e * 2048 + wrap 11 v else linear11 fuel (e + 1) (v / 2)

/-- The value that a LINEAR11 word spells, in units of 2^-16. -/
def linearValue (w : BitVec 16) : Int := signed 11 (bits w.toNat 10 0) * 2 ^ (signed 5 (bits w.toNat 15 11) + 16).toNat

/-- Whether the PMBus target answers: the control plane is powered. -/
def pmbRuns (s : State) : Bool := decide (s.mode ≠ .off)

/-- An answer of the target. -/
def pmbAnswer (s : State) (bs : List Byte) : State := { s with power := { s.power with pmbusAnswers := s.power.pmbusAnswers ++ [bs] } }

/-- CLEAR_FAULTS: what no longer holds is cleared. -/
def execClearFaults (s : State) : Result := .next (if pmbRuns s then { s with power := { s.power with cml := false } } else s)
/-- STATUS_WORD. -/
def execStatusWord (s : State) : Result := .next (if pmbRuns s then pmbAnswer s (toLe 2 (pmbStatus s)) else s)
/-- READ_TEMPERATURE_1; with no sample the spec states no value (free). -/
def execReadTemperature1 (s : State) : Result :=
  .next (if !pmbRuns s then s
    else match hottest s with
      | some v => pmbAnswer s (toLe 2 (linear11 16 0 (celsius v)))
      | none => pmbAnswer { s with fresh := s.fresh + 1 } (toLe 2 (Config.freeValue s.fresh).toNat))
/-- READ_PIN. -/
def execReadPin (s : State) : Result :=
  .next (if pmbRuns s then pmbAnswer s (toLe 2 (linear11 16 0 (regField s (cpBase + 0xC) 11 0 : Nat))) else s)
/-- PMBUS_REVISION. -/
def execPmbusRevision (s : State) : Result := .next (if pmbRuns s then pmbAnswer s [0x44] else s)

/-- The PMBus cap in whole watts that a written value in units of 2^-16 W stands for: 0 for none. Only 0 itself is none; what lies below 700 W
is taken as 700 (R516). -/
def pmbusTaken (v : Int) : Nat :=
  if v = 0 then 0 else if v < 700 * 65536 then 700 else if 2800 * 65536 < v then 0 else (v / 65536).toNat

/-- MFR_POWER_CAP, read or written. -/
def execMfrPowerCap (write : Option (BitVec 16)) (s : State) : Result :=
  .next (if !pmbRuns s then s
    else match write with
      | none => pmbAnswer s (toLe 2 (linear11 16 0 (s.power.pmbusCap : Nat)))
      | some w => showCap { s with power := { s.power with pmbusCap := pmbusTaken (linearValue w) } })
/-- MFR_CAP_STATE. -/
def execMfrCapState (s : State) : Result := .next (if pmbRuns s then pmbAnswer s (toLe 2 (regField s (cpBase + 8) 15 0)) else s)
/-- A command that the target does not support: no acknowledgement, and CML. -/
def execPmbusUnsupportedCommand (code : Byte) (s : State) : Result :=
  .next (if pmbRuns s ∧ code ∉ [0x03, 0x79, 0x8D, 0x97, 0x98, 0xD0, 0xD1] then { s with power := { s.power with cml := true } } else s)

end Sys2Proof.Machine
end

