-- ==== Sys2Proof/Machine/HostIf.lean ====
section
/-!
DEFINITION. BAR0 accesses (R10 to R12, R572, R588) with the write rules of every register, requests for a change of module
state (R575 to R579), the windows of BAR2 and BAR4 (R566, R568), and the links of the two host ports (R30, R567, R586).
-/
namespace Sys2Proof.Machine

open Sys2Proof

/-- BAR0 and BAR2 in bytes (R565). -/
def bar0Bytes : Nat := 0x10000000
def bar2Bytes : Nat := 64 * 2 ^ 30

/-! ## Values that a register refuses -/

/-- The retry budget of EP_RESEND_CFG in microseconds (R87, R88): the sum of the timers of its tries. -/
def retryBudget (tries first cap : Nat) : Nat := ((List.range tries).map (fun i => min (first * 2 ^ i) cap)).foldl (· + ·) 0

/-- Whether a value of EP_RESEND_CFG is taken (R88). -/
def resendOk (v : Nat) : Bool :=
  let first := bits v 11 0
  let cap := bits v 23 12
  let tries := bits v 27 24
  decide (first ≠ 0) && decide (tries ≠ 0) && decide (first ≤ cap) && decide (retryBudget tries first cap < 4000)

/-- Whether a fabric ID register takes a value (R97). -/
def fidOk (v : Nat) : Bool := decide (bits v 15 0 < 0xFFFE)

/-- Whether an index does not lie beyond PROD, both modulo 2^32 (R387). -/
def consOk (s : State) (prod : Nat) (v : Word) : Bool := decide ((reg s prod - v).toNat < 2 ^ 31)

/-- The sum of the collective pools with pool `n` at `v` (R277). -/
def poolSum (s : State) (n v : Nat) : Nat :=
  ((List.range 8).map (fun i => if i = n then v else regField s (mgBase + 0x308 + 4 * i) 13 0)).foldl (· + ·) 0

/-- Whether the MG block takes a value at an offset. -/
def mgValueOk (s : State) (o : Nat) (w : Word) : Bool :=
  let v := w.toNat
  if o = 0x20 then consOk s (mgBase + 0x1C) w
  else if o = 0x4DC then consOk s (mgBase + 0x4D8) w
  else if o = 0x514 then consOk s (mgBase + 0x510) w
  else if o = 0x200 then decide (157 ≤ bits v 15 0) && decide (bits v 15 0 ≤ 3125)
  else if o = 0x300 then decide (10 ≤ bits v 31 16) && decide (bits v 15 0 ≠ 0)
  else if 0x308 ≤ o ∧ o < 0x328 then decide (poolSum s ((o - 0x308) / 4) (bits v 13 0) ≤ slotsInService s)
  else if o = 0x400 then decide (36 ≤ bits v 7 0) && decide (bits v 10 8 ≤ 6)
  else if o = 0x404 then
    decide (bits v 5 0 ≠ 0) && decide (bits v 23 16 ≠ 0) && decide (bits v 31 24 ≠ 0) && decide (bits v 31 24 ≤ 56)
  else if 0x428 ≤ o ∧ o < 0x448 then decide (bits v 7 0 ≠ 0)
  else if 0x448 ≤ o ∧ o < 0x4A8 then decide (bits v 11 0 ≤ bits v 23 12)
  else if o = 0x520 then
    !bit v 31 || (decide (bits v 7 0 ≤ 143) && !attachMode s (bits v 7 0) && decide (bits v 23 8 ≠ 0))
  else true

/-- Whether a register takes a value: the write rules of the register tables (R88, R93, R97, R127, R199, R276, R277, R380 to
R387, R392, R471, R499, R521). -/
def valueOk (s : State) (b : Blk) (o : Nat) (w : Word) : Bool :=
  let v := w.toNat
  match b with
  | .glb => decide (o ≠ 8) || fidOk v
  | .mg => mgValueOk s o w
  | .sec => decide (o ≠ 4) || decide (bits v 2 0 ≤ 4)
  | .cp => decide (o ≠ 4) || (decide (10 ≤ bits v 9 0) && decide (bits v 9 0 ≤ 1000) && decide (10 ≤ bits v 25 16) && decide (bits v 25 16 ≤ 1000))
  | .pt =>
    if 0x720 ≤ o ∧ o < 0x740 then
      !bit v 31 || (decide (bits v 23 17 ≤ bits v 30 24) && decide (bits v 30 24 ≤ 64) && decide (bits v 16 8 ≠ 0))
    else true
  | .ep =>
    if o = 0x800 then resendOk v
    else if o = 0x900 then fidOk v
    else if o = 0x904 then decide (bits v 5 1 ≤ 20) && (!spineRole s || bit v 0)
    else if o = 0xB08 then decide (bits v 15 0 ≠ 0)
    else true
  | _ => true

/-! ## Plain writes and pairs (R11, R12) -/

/-- What a register holds after a write: rw fields take the value, w1c bits written 1 clear, all others stay. -/
def afterWrite (r : RegSpec) (old v : Word) : Word := (old &&& ~~~r.rw &&& ~~~(v &&& r.w1c)) ||| (v &&& r.rw)

/-- A write to a register with no effect beside its fields. -/
def writePlain (s : State) (off : Nat) (r : RegSpec) (v : Word) : State := setReg s off (afterWrite r (reg s off) v)

/-- ENABLE of the event ring set: PROD and CONS start at 0 (R601). -/
def startEventRing (s : State) : State := setReg (setReg s (mgBase + 0x1C) 0) (mgBase + 0x20) 0

/-- A write of _LO waits for its _HI. -/
def stageLo (s : State) (off : Nat) (v : Word) : State := { s with host := { s.host with loStage := Tab.put s.host.loStage off v } }

/-- A write of _HI: the pair takes effect, with the staged _LO or the current one. -/
def writePair (s : State) (off : Nat) (r : RegSpec) (v : Word) : State :=
  let lo := off - 4
  let was := regBit s (mgBase + 0x14) 0
  let s := match Tab.get? s.host.loStage lo, regSpec s.variant lo with
    | some x, some q => setReg s lo (afterWrite q (reg s lo) x)
    | _, _ => s
  let s := writePlain { s with host := { s.host with loStage := Tab.del s.host.loStage lo } } off r v
  if !was && regBit s (mgBase + 0x14) 0 then startEventRing s else s

/-! ## Requests for a state (R575 to R579) -/

/-- REQ_REASON (R577). -/
def rrWrongState : Byte := 0x01
def rrRecovery : Byte := 0x02
def rrRoleReserved : Byte := 0x03
def rrRoleMismatch : Byte := 0x04
def rrNotOffered : Byte := 0x05
def rrDependency : Byte := 0x06
def rrNoSaveArea : Byte := 0x07
def rrNoQueueTable : Byte := 0x08
def rrTenantState : Byte := 0x09
def rrDegraded : Byte := 0x0A

/-- Why a request with TARGET SERVICE is rejected; none where every check passes (R576). -/
def serviceRefusal (s : State) (role : BitVec 2) : Option Byte :=
  if s.mode ≠ .maint then some rrWrongState
  else if recovery s then some rrRecovery
  else if 2 ≤ s.role.toNat then some rrRoleReserved
  else if role ≠ s.role then some rrRoleMismatch
  else if (List.range 4).any (fun i => decide (reg s (glbBase + 0x20 + 4 * i) &&& ~~~reg s (glbBase + 0x10 + 4 * i) ≠ 0)) then some rrNotOffered
  else if accepted s 7 ∧ !accepted s 0 then some rrDependency
  else if !accepted s 0 ∧ !regBit s (mgBase + 0x210) 0 then some rrNoSaveArea
  else if !(List.range (blockCount s.variant)).any (tableOn s) then some rrNoQueueTable
  else none

/-- Every scratch window zeroed (R161). -/
def zeroScratch (s : State) : State := (List.range (ariCount s.variant)).foldl (fun s d => memZero s (scratchAddr d 0) 8388608) s

/-- A notice on every UP fabric port. -/
def noticeAll (s : State) (opcode : Byte) : State := (fabricPorts s).foldl (fun s p => sendOnPort s opcode (routeBytes true []) p) s

/-- Entry to SERVICE by the steps of R578, with the generation table cleared and announced (R85). A module whose kinds run degraded enters the
DEGRADED sub-state (R536). -/
def enterService (s : State) : State :=
  let old := s.mode
  let (key, s) := draw (zeroScratch s) 32
  let s := enableHostQueues { s with sec := { s.sec with saveKey := some key } }
  let s := { s with mode := .service, serviceAt := s.now, gens := [], degraded := s.degraded || decide (s.age.degraded ≠ 0) }
  let s := setSwitch s { s.switch with withdrawn := [] }
  let s := announce (noticeAll s mgRouteRestore)
  let s := sendRestarts s (fabricPorts s) (servedGens s)
  let s := if (lsPort s).isSome then beginPairing s else s
  logState (setOutcome s stOk 0) old 578

/-- A request with TARGET SERVICE. -/
def requestService (s : State) (role : BitVec 2) : State := match serviceRefusal s role with
  | some r => rejectReq s r
  | none => enterService s

/-- Whether any tenant context, group, program or shard is defined (R579). -/
def tenantState (s : State) : Bool := !s.ctxs.isEmpty || !s.groups.isEmpty || !s.programs.isEmpty || !s.hb.shards.isEmpty

/-- Why a request with TARGET MAINT is rejected (R579). -/
def maintRefusal (s : State) : Option Byte :=
  if s.mode ≠ .service then some rrWrongState
  else if s.degraded then some rrDegraded
  else if tenantState s then some rrTenantState
  else none

/-- A worn clock-and-power die is replaced at an entry to MAINT (R533). -/
def moveClock (s : State) : State :=
  if !s.age.retiredClock then s
  else
    let old := s.power.rootClockDie
    let s := { s with age := { s.age with retiredClock := false } }
    match spareFor s .clock old with
    | none => s
    | some n => countSwap (setUnit (setUnit { s with power := { s.power with rootClockDie := n } } .clock n .active 533) .clock old .failed 533)

/-- A queue disabled, with the pennants that find an entry written; it leaves once its started commands have run to completion (R184). -/
def stopQueue (s : State) (b q : Nat) : State :=
  let s := disableQueue s b q none 0
  let n := match queueOf s b q with
    | none => 0
    | some x => x.pennants.length
  closeQueue ((List.range n).foldl (fun s _ => writePennant s b q) s) b q

/-- Steps 2 to 5 of R579, once every queue is disabled: until then the request stays BUSY (log 10). -/
def finishMaint (s : State) : State :=
  if !s.queues.isEmpty then s
  else
    let old := s.mode
    let s := noticeAll s mgRouteWithdraw
    let s := { s with ls := { s.ls with state := .off, localRecs := [], unsent := [], peerRecs := [] }, sec := { s.sec with saveKey := none } }
    let s := moveClock (zeroScratch s)
    logState (setOutcome { s with mode := .maint } stOk 0) old 579

/-- Entry to MAINT from SERVICE by the steps of R579. -/
def enterMaint (s : State) : State :=
  let s := s.queues.foldl (fun s e => stopQueue s e.1.1 e.1.2) s
  finishMaint { s with host := { s.host with stopping := true } }

/-- A request with TARGET MAINT. -/
def requestMaint (s : State) : State := match maintRefusal s with
  | some r => rejectReq s r
  | none => enterMaint s

/-- GO with TARGET and ROLE as they stand (R575, R599). -/
def request (s : State) (target : Nat) (role : BitVec 2) : State :=
  if target = 2 then requestService s role
  else if target = 1 then requestMaint s
  else setOutcome s stProtocol 0

/-- The request that is being carried out taken as far as it goes. -/
def carryOut (s : State) : State := match s.host.request with
  | none => s
  | some (target, role) => if s.host.stopping then finishMaint s else request s target role

/-- A write of MG_STATE_REQ: GO makes a request, which is BUSY until its outcome is written. While one is, TARGET and ROLE keep their values
and the write is logged (R599). -/
def writeRequest (s : State) (v : Word) : State :=
  if s.host.request.isSome then logRegWrite s (mgBase + 4) v.toNat
  else
    let s := setReg s (mgBase + 4) (v &&& 0x3F)
    if v.getLsbD 8 then { s with host := { s.host with request := some (bits v.toNat 3 0, BitVec.ofNat 2 (bits v.toNat 5 4)), stopping := false } } else s

/-- MG_STATE_REQ written with GO, a TARGET and a ROLE, and the request carried out as far as it goes (log 10). -/
def goRequest (s : State) (target : BitVec 4) (role : BitVec 2) : State :=
  if configurable s then
    let t := writeRequest s (BitVec.ofNat 32 (0x100 + role.toNat * 16 + target.toNat))
    settle (if s.host.request.isSome then t else carryOut t)
  else s

/-- What an idle microsecond brings: local time, the copies of naming frames that fall due (R407), and the outcome of a request, where no
started command holds it up (R575, R579; log 2). -/
def idleStep (s : State) : State :=
  let s := copyNames (tick s)
  if s.host.request.isSome ∧ configurable s then settle (carryOut s) else s

/-- LEAVE_MAINT_REQUEST (R576). -/
def execLeaveMaintRequest (role : BitVec 2) (env : Env) (s : State) : Result := .next (goRequest (applyEnv s env) 2 role)
/-- ENTER_MAINT_REQUEST (R579). -/
def execEnterMaintRequest (role : BitVec 2) (s : State) : Result := .next (goRequest s 1 role)
/-- STATE_REQ_RESERVED_TARGET: PROTOCOL (R575, R599). -/
def execStateReqReservedTarget (target : BitVec 4) (role : BitVec 2) (s : State) : Result :=
  .next (if target = 1 ∨ target = 2 then s else goRequest s target role)

/-! ## Registers whose write starts something -/

/-- Every line of a block's contexts invalidated (R150). -/
def invalidateBlock (s : State) (b : Nat) : State :=
  let mine := (s.ctxBlocks.filter (fun e => decide (e.1.1 = b))).map (·.1.2)
  cacheInval s b (fun l => decide (l.die = epDie s b) && mine.contains l.ctx)

/-- A write of EP_FID: the generation of the fabric ID is 0, and where that changes it the module sends BLOCK_RESTART, and again in
10 ms (R85). -/
def writeFid (s : State) (off : Nat) (r : RegSpec) (v : Word) : State :=
  let s := writePlain s off r v
  let f : Fid := BitVec.ofNat 16 v.toNat
  if genOf s f = 0 then { s with gens := Tab.del s.gens f } else noteGen (restartFid s f 0) f

/-- A write of SEC_FW_CTRL (R474). -/
def writeFirmware (s : State) (v : Word) : State :=
  let s := if v.getLsbD 0 then startUpdate s else s
  let s := if v.getLsbD 1 ∧ s.sec.fwResult = fwOkCode then writeBootRec s s.sec.fwTarget 0 3 else s
  if v.getLsbD 2 then confirmSlot s else s

/-- What recovery firmware, which serves only firmware update and the reading of the dump, does not serve: routes, halyards, the repair
planner, the pair, and a take-over by the driver (R447). -/
def beyondRecovery (o : Nat) : Bool := decide (0x40000 ≤ o) || [0x524, 0x604, 0xA04].contains o

/-- A write of the MG block beside plain fields and pairs. One that recovery firmware does not serve is discarded and logged (log 213). -/
def writeMg (s : State) (o off : Nat) (r : RegSpec) (v : Word) : State :=
  if o = 4 then writeRequest s v
  else if beyondRecovery o ∧ recovery s then logRegWrite s off v.toNat
  else if 0x40000 ≤ o ∧ o < 0x90000 then announce (writePlain s off r v)
  else if 0x90000 ≤ o ∧ o < 0xA0000 then
    (if o % 16 = 0 then writeHalyardCfg s ((o - 0x90000) / 16) v
     else if o % 16 = 4 then writeHalyardPorts s ((o - 0x90000) / 16) v
     else s)
  else if o = 0x524 then (if v.getLsbD 0 then resumePair s else s)
  else if o = 0x604 then (let s := writePlain s off r v
    if v.getLsbD 0 then askRun s else s)
  else if o = 0xA04 then (if v.getLsbD 0 then driverTakeover s else s)
  else writePlain s off r v

/-- A write that a register takes. -/
def writeTaken (s : State) (b : Blk) (i o off : Nat) (r : RegSpec) (v : Word) : State :=
  match r.half with
  | .lo => stageLo s off v
  | .hi => writePair s off r v
  | .single => match b with
    | .mg => writeMg s o off r v
    | .sec => if o = 0x10 then writeTail s (BitVec.ofNat 16 v.toNat) else if o = 0x1C then writeFirmware s v else writePlain s off r v
    | .pt =>
      if o = 0 then writePortCfg s i v
      else if o = 4 then
        (let s := if v.getLsbD 0 then retrainPort s i else s
         if v.getLsbD 1 then releasePort s i else s)
      else writePlain s off r v
    | .ari => if o = 0x414 then (if v.getLsbD 0 then setReg s off 1 else s) else writePlain s off r v
    | .ep =>
      if o = 0x900 then writeFid s off r v
      else if o = 0xA00 then invalidateBlock (writePlain s off r v) i
      else writePlain s off r v
    | _ => writePlain s off r v

/-- A write of four bytes in MAINT or SERVICE: taken, or discarded with a record (R10, R588, and the registers' own rules). -/
def writeServed (s : State) (off : Nat) (v : Word) : State := match liveReg s off, blkOf off with
  | some r, some (b, i, o) =>
    if (r.maint && decide (s.mode ≠ .maint)) || !valueOk s b o v then logRegWrite s off v.toNat
    else writeTaken s b i o off r v
  | _, _ => logRegWrite s off v.toNat

/-- Whether a write would arm a die (R67). -/
def armsDie (s : State) (off : Nat) (v : Word) : Bool := (liveReg s off).isSome && v.getLsbD 0 && (match blkOf off with
  | some (.ari, _, o) => decide (o = 0x414)
  | _ => false)

/-- A write of four bytes by module state (R572). -/
def writeWord (s : State) (off : Nat) (v : Word) : State :=
  if configurable s then writeServed s off v
  else if !controlRuns s then s
  else if armsDie s off v then logRegWrite s off v.toNat
  else if s.mode = .boot then s
  else match liveReg s off with
    | none => s
    | some r => setReg s off (reg s off &&& ~~~(v &&& r.w1c))

/-- The four bytes at a place, as a value. -/
def wordAt (bs : Bytes) (at_ : Nat) : Word := BitVec.ofNat 32 (fieldAt bs at_ 4)

/-- A write of any size (R10). -/
def barWrite (s : State) (off : Nat) (data : Bytes) : State :=
  if data.length = 4 ∧ off % 4 = 0 then writeWord s off (wordAt data 0)
  else if data.length = 8 ∧ off % 8 = 0 then writeWord (writeWord s off (wordAt data 0)) (off + 4) (wordAt data 4)
  else if configurable s then logRegWrite s off (fieldAt data 0 4)
  else s

/-- What may go on after a write. -/
def afterBar (s : State) : State := if configurable s then settle s else s

/-- A write, and what may go on after it. -/
def barWriteRun (s : State) (off : Nat) (data : Bytes) : State := afterBar (barWrite s off data)

/-- REGISTER_WRITE (R10). -/
def execRegisterWrite (off : Nat) (data : Bytes) (s : State) : Result :=
  if off < bar0Bytes then .next (barWriteRun s off data) else .fault (.outsideBar off)

/-- ARM in ARI_RESIDUE_INJECT (R66, R67). -/
def execArm (die : Nat) (s : State) : Result := .next (barWriteRun s (ariBase die + 0x414) (toLe 4 1))
/-- A write of EP_RLC_CFG (R165). -/
def execCacheEnWrite (block : Nat) (value : Word) (s : State) : Result := .next (barWriteRun s (epBase block + 0xA00) (toLe 4 value.toNat))
/-- ENABLE of the event ring written, with its base and size (R600, R601). -/
def execEventRingEnable (lo hi : Word) (s : State) : Result :=
  .next (barWriteRun (barWrite s (mgBase + 0x14) (toLe 4 (lo ||| 1).toNat)) (mgBase + 0x18) (toLe 4 hi.toNat))

/-! ## The injected residue error (R66, R67) -/

/-- The place in a piece that a child's next contribution updates first; none where every child has given its share. -/
def nextPlace (p : Plan) (f : LaunchFields) (me : Fid) (k : Nat) (q : Piece) : Option Nat :=
  ((kidsOf p me).find? (fun m => decide (countFor q.cover m < kidShare p f m k q.first q.count))).map (countFor q.cover)

/-- The accumulator that an armed die updates next: its collective, chunk, piece and place, in the first piece of a SUM on the die that
still waits for a child. -/
def armedTarget (s : State) (d : Nat) : Option (CollKey × Nat × Nat × Nat) :=
  (s.colls.filter (fun c => isArmed s c && decide (collDie s c.key 0 = d))).findSome? (fun c =>
    (planAt s c.key.group c.key.epoch).bind (fun p => c.chunks.findSome? (fun x => x.pieces.findSome? (fun q =>
      if q.sent then none else (nextPlace p c.fields (me s) x.chunk q).map (fun i => (c.key, x.chunk, q.first, i))))))

/-- RESIDUE_INJECT_FIRE: the accumulator that the die updates next carries a residue one too high into that update, and ARM is clear;
with no update awaited, ARM waits for the first (R66, log 187). -/
def execResidueInjectFire (die : Nat) (s : State) : Result :=
  .next (if !inService s then s
    else match armedTarget s die with
      | none => s
      | some (k, n, first, i) => disarm (updPiece s k n first (fun q => { q with accs := inject q.accs i })) die)

/-! ## Reads (R10 to R12, R572) -/

/-- A read of four bytes, with its side effects: _LO latches _HI, and rc fields clear. -/
def readWord (s : State) (off : Nat) : Word × State :=
  if !readsNow s off then (0, s)
  else match liveReg s off with
    | none => (0, s)
    | some r =>
      let v := if r.half = .hi then (Tab.get? s.host.hiLatch off).getD (regValue s off) else regValue s off
      let latch := if r.half = .hi then Tab.del s.host.hiLatch off
        else if r.half = .lo then Tab.put s.host.hiLatch (off + 4) (regValue s (off + 4)) else s.host.hiLatch
      (v, setReg { s with host := { s.host with hiLatch := latch } } off (reg s off &&& ~~~r.rc))

/-- A read answered. -/
def answerRead (s : State) (off : Nat) : State :=
  let r := readWord s off
  emit r.2 (.regRead off r.1)

/-- The bytes of a register that a read of another size or alignment asks for, in their places. -/
def askedBytes (off size word : Nat) (v : Word) : Word :=
  BitVec.ofNat 32 (leNat ((toLe 4 v.toNat).zipIdx.map (fun x => if off ≤ 4 * word + x.2 ∧ 4 * word + x.2 < off + size then x.1 else 0)))

/-- A read of any size (R10): one of another size or alignment has no side effect. Such a read of a _HI register answers its half as it
stands, and what an earlier read of _LO latched stays latched: R11 says so of 4-byte reads only (DESIGN CHOICE, log 206). -/
def barRead (s : State) (off size : Nat) : State :=
  if size = 4 ∧ off % 4 = 0 then answerRead s off
  else if size = 8 ∧ off % 8 = 0 then answerRead (answerRead s off) (off + 4)
  else ((List.range ((off % 4 + size + 3) / 4)).map (· + off / 4)).foldl
    (fun s w => emit s (.regRead (4 * w) (askedBytes off size w (regRead s (4 * w))))) s

/-- COUNTER_READ_CLEAR (R12). -/
def execCounterReadClear (off size : Nat) (s : State) : Result :=
  if off < bar0Bytes then .next (if controlRuns s then barRead s off size else s) else .fault (.outsideBar off)
/-- PAIR_LO_READ (R11). -/
def execPairLoRead (off size : Nat) (s : State) : Result :=
  if off < bar0Bytes then .next (if controlRuns s then barRead s off size else s) else .fault (.outsideBar off)

/-! ## BAR2 (R568) -/

/-- Bytes of the harbour that are usable. -/
def usableBytes (s : State) : Nat := devicesIn s * deviceUsable

/-- Where a linear byte of a shard lies: the shard, the array, the bank, and the byte in the bank. -/
def shardByte (s : State) (x : Nat) : Option (Shard × Nat × Nat × Nat) :=
  s.hb.shards.findSome? (fun h => h.units.findSome? (fun u => (u.2.2.zipIdx.find? (fun q =>
    decide (unitStart s.variant q.1 ≤ x) && decide (x < unitStart s.variant q.1 + unitBytes))).map
      (fun q => (h, u.1, u.2.1, q.2 * unitBytes + (x - unitStart s.variant q.1)))))

/-- The version whose content a line of a bank holds (R323, R326). -/
def lineVersion (h : Shard) (a bank byte : Nat) : Nat :=
  let open_ := h.version + 1
  let seg := byte / (max (arrayWidth h a) 1 * segLen)
  if isTransient h a then open_
  else if decide (h.state ≠ .idle) && decide (open_ % h.keep = bank) && decide ((a, seg) ∈ h.stepWritten) then open_
  else h.version - (h.version + h.keep - bank) % h.keep

/-- The harbour key under which a shard's lines are stored, where its context is an ENC one (R322). -/
def lineKey (s : State) (h : Shard) : Option Bytes := if ctxEnc s h.key.ctx then (keysOf s h.key.ctx).harbour else none

/-- The tweak of a line. -/
def lineTweak (h : Shard) (a bank byte : Nat) : Nat :=
  byte / 256 % 2 ^ 40 + a % 4 * 2 ^ 40 + h.key.hset.toNat * 2 ^ 48 + lineVersion h a bank byte % 2 ^ 48 * 2 ^ 80

/-- A line of the linear space as its devices store it. -/
def storedLine (s : State) (line : Nat) : Bytes :=
  let bs := harbourRead s (256 * line) 256
  match shardByte s (256 * line) with
  | none => bs
  | some (h, a, bank, byte) => match lineKey s h with
    | none => bs
    | some k => xtsSeal k (lineTweak h a bank byte) bs

/-- A line of the linear space stored anew; in the floor state the write waits (R342). -/
def storeLine (s : State) (line : Nat) (bs : Bytes) : State :=
  let bs := match shardByte s (256 * line) with
    | none => bs
    | some (h, a, bank, byte) => match lineKey s h with
      | none => bs
      | some k => xtsOpen k (lineTweak h a bank byte) bs
  harbourWrite s (256 * line) bs

/-- The linear byte at which the window starts. -/
def windowBase (s : State) : Nat := regField s (hbBase + 0x200) 4 0 * bar2Bytes

/-- The lines of a run of bytes. -/
def runLines (a n : Nat) : List Nat := (List.range ((a + n + 255) / 256 - a / 256)).map (· + a / 256)

/-- A byte of a line as a read returns it: zero beyond the usable capacity. -/
def bar2Read (s : State) (a n : Nat) : Bytes :=
  (slice ((runLines a n).flatMap (storedLine s)) (a % 256) n).zipIdx.map (fun x => if a + x.2 < usableBytes s then x.1 else 0)

/-- A write through the window: bytes beyond the usable capacity are discarded. -/
def bar2Write (s : State) (a : Nat) (bs : Bytes) : State :=
  let bs := bs.take (usableBytes s - a)
  (runLines a bs.length).foldl (fun s l =>
    storeLine s l ((storedLine s l).zipIdx.map (fun x =>
      let at_ := 256 * l + x.2
      if a ≤ at_ ∧ at_ < a + bs.length then byteAt bs (at_ - a) else x.1))) s

/-- BAR2_ACCESS (R568). -/
def execBar2Access (off len : Nat) (write : Option Bytes) (s : State) : Result :=
  let n := match write with
    | none => len
    | some d => d.length
  if bar2Bytes < off + n then .fault (.outsideBar off)
  else .next (if !controlRuns s then s
    else if s.mode ≠ .maint ∨ memCount s.variant = 0 then emit s (.unsupported s.host.owner)
    else match write with
      | none => emit s (.bar2 (bar2Read s (windowBase s + off) len))
      | some d => bar2Write s (windowBase s + off) d)

/-! ## MSI-X (R566, R586) -/

/-- The 16 bytes of a table entry, and the entry that 16 bytes spell. -/
def msixBytes (e : MsixEntry) : Bytes := toLe 8 e.addr.toNat ++ toLe 4 e.data.toNat ++ toLe 4 (b01 e.masked)
def msixOf (bs : Bytes) : MsixEntry :=
  { addr := BitVec.ofNat 64 (fieldAt bs 0 8), data := BitVec.ofNat 32 (fieldAt bs 8 4), masked := bit (fieldAt bs 12 4) 0 }

/-- An entry that nothing has programmed. -/
def MsixEntry.blank : MsixEntry := { addr := 0, data := 0, masked := true }

/-- A message that waits in the PBA sent when its vector is no longer masked. -/
def sendWaiting (s : State) (port v : Nat) : State :=
  let p := hostPort s port
  match Tab.get? p.table v with
  | none => s
  | some e =>
    if e.masked ∨ v ∉ p.waiting then s
    else
      let s := setHostPort s port { p with waiting := p.waiting.filter (fun x => decide (x ≠ v)) }
      if port = s.host.owner ∧ hostLinkOk s then emit s (.msix port v e.addr e.data) else s

/-- Bytes written into a port's MSI-X table at an offset. -/
def writeTable (s : State) (port off : Nat) (data : Bytes) : State :=
  let hit := (List.range 2048).filter (fun v => decide (off < 16 * v + 16) && decide (16 * v < off + data.length))
  hit.foldl (fun s v =>
    let p := hostPort s port
    let bs := (msixBytes (Tab.getD p.table v MsixEntry.blank)).zipIdx.map (fun x =>
      let at_ := 16 * v + x.2
      if off ≤ at_ ∧ at_ < off + data.length then byteAt data (at_ - off) else x.1)
    sendWaiting (setHostPort s port { p with table := Tab.put p.table v (msixOf bs) }) port v) s

/-- Where the owner's MSI-X table and the standby window lie in BAR4 (R565). -/
def tableAt : Nat := 0x100000
def standbyAt : Nat := 0x110000
def tableBytes : Nat := 0x8000

/-- Whether the standby window reaches a port: after a takeover the old die is held in reset, until its tests have made it the standby again
(R548, R566). -/
def windowOpen (s : State) : Bool := decide (s.host.ownerCause = 0) || s.host.standbyReady

/-- STANDBY_MSIX_WRITE at a BAR4 offset: the standby window reaches the standby port's table, and nothing after a takeover
(R566); the owner's own table, which has the same layout, is written in its own place (R565). -/
def execStandbyMsixWrite (off : Nat) (data : Bytes) (s : State) : Result :=
  .next (if !controlRuns s ∨ !s.host.answering then s
    else if standbyAt ≤ off ∧ off + data.length ≤ standbyAt + tableBytes then
      (if windowOpen s then writeTable s (1 - s.host.owner % 2) (off - standbyAt) data else s)
    else if tableAt ≤ off ∧ off + data.length ≤ tableAt + tableBytes then writeTable s (s.host.owner % 2) (off - tableAt) data
    else s)

/-- Where the PBA lies in BAR4 (R565). -/
def pbaAt : Nat := 0x108000

/-- A byte of the owner's BAR4: the doorbell pages and the standby window read as zero (R566, R581), the table and the PBA as they stand. What
the rest of BAR4 reads as the spec does not say: a free value (log 219). -/
def bar4Byte (s : State) (x : Nat) : Byte :=
  let p := hostPort s (s.host.owner % 2)
  if x < tableAt then 0
  else if x < tableAt + tableBytes then byteAt (msixBytes (Tab.getD p.table ((x - tableAt) / 16) MsixEntry.blank)) ((x - tableAt) % 16)
  else if pbaAt ≤ x ∧ x < pbaAt + 256 then
    BitVec.ofNat 8 (((List.range 8).map (fun i => b01 (decide (8 * (x - pbaAt) + i ∈ p.waiting)) * 2 ^ i)).foldl (· + ·) 0)
  else if standbyAt ≤ x ∧ x < standbyAt + tableBytes then 0
  else Config.freeByte 0 x

/-- A read of BAR4 of a port; none where it completes as Unsupported Request (R30, R565). -/
def bar4Read (s : State) (port off n : Nat) : Option Bytes :=
  if port = s.host.owner % 2 ∧ s.host.answering ∧ hostLinkOk s ∧ !(hostPort s port).d3hot then
    some ((List.range n).map (fun i => bar4Byte s (off + i)))
  else none

/-- Vendor ID, Device ID and class code that a port presents (R565), from the end of boot step 4 on: until then it answers configuration
requests with Retry Status (R574). -/
def configIdentity (s : State) : Option (Nat × Nat × Nat) :=
  if s.host.answering then some (Config.vendorId, regField s glbBase 31 16, 0x120000) else none

/-- MSIX_VECTOR_UNMASK (R586). -/
def execMsixVectorUnmask (port vector : Nat) (s : State) : Result :=
  let p := hostPort s port
  .next (match Tab.get? p.table vector with
    | none => s
    | some e => sendWaiting (setHostPort s port { p with table := Tab.put p.table vector { e with masked := false } }) port vector)

/-! ## The host ports' links (R30, R567) -/

/-- The record of what befalls the owner's link. -/
def logLink (s : State) (port rule : Nat) : State :=
  if controlRuns s ∧ port = s.host.owner then logUnit s .hostPort port (unitCode .active) (unitCode .active) rule else s

/-- PERST_N of a port asserts: that function alone is reset. -/
def execPerstNAssert (port : Nat) (s : State) : Result :=
  .next (if (hostPort s port).perst then s else logLink (setHostPort s port HostPort.blank) port 567)
/-- PERST_N of a port deasserts. -/
def execPerstNDeassert (port : Nat) (s : State) : Result := .next (setHostPort s port { hostPort s port with perst := false })
/-- A port's link leaves L0: with the owner's the module keeps running in its present state and logs one record (R567), and the standby die
fails its test on its own (R532). -/
def execHostLinkLoss (port : Nat) (s : State) : Result :=
  .next (if (hostPort s port).linkUp then
      let s := logLink (setHostPort s port (portDown (hostPort s port))) port 567
      if !controlRuns s ∨ port = s.host.owner then s
      else if standsBy s .mgmt port then failStandby { s with age := { s.age with hostPortBad := true } } else s
    else s)
/-- The generation and the width to which a link trains, as its partner requires (R564): free values. -/
def trainedGen (n : Nat) : Nat := 1 + (Config.freeValue n).toNat % 6
def trainedWidth (n : Nat) : Nat := 2 ^ ((Config.freeValue n).toNat / 6 % 4)

/-- A port's link reaches L0: that of a management die that runs, out of reset. -/
def execHostLinkUp (port : Nat) (s : State) : Result :=
  .next (if controlRuns s ∧ !(hostPort s port).perst ∧ (dieState s (ordMgmt port) = .active ∨ dieState s (ordMgmt port) = .standby)
    then setHostPort { s with fresh := s.fresh + 1 } port
      { hostPort s port with linkUp := true, linkGen := trainedGen s.fresh, width := trainedWidth s.fresh }
    else s)

/-- A host-memory read that gets no completion within 10 ms: the next read of the range is that one, which takes the ABORT column and is
counted (R567). -/
def execHostReadTimeout (addr len : Nat) (s : State) : Result :=
  .next (if !controlRuns s then s
    else { s with memFaults := s.memFaults ++ [{ base := hostAddr addr, len := len, kind := .silent, once := true }] })

/-- NON_OWNER_MEMORY_REQUEST (R30). -/
def execNonOwnerMemoryRequest (port : Nat) (s : State) : Result :=
  .next (if controlRuns s ∧ port ≠ s.host.owner then emit s (.unsupported port) else s)

end Sys2Proof.Machine
end

