-- ==== Sys2Proof/Machine/Boot.lean ====
section
/-!
DEFINITION. Power-up and boot (R505, R573, R574): what survives a power cycle, the choice of a firmware slot and its measurement
(R443 to R446), memory training (R316), the offered features (R580), and the entry to MAINT.
-/
namespace Sys2Proof.Machine

open Sys2Proof

/-! ## What survives a power cycle (R344, R531, R558) -/

/-- Whether a byte of memory keeps its value: host and accelerator memory, the flash, and the harbour's dump region. -/
def keepsByte (a : Nat) : Bool :=
  decide (a < 256 * spaceSize) || (decide (512 * spaceSize ≤ a) && decide (a < 512 * spaceSize + dumpRegionBytes)) || decide (768 * spaceSize ≤ a)

/-- A unit of the bunting after a power cycle: a spare is untested, and a die that was draining has left. -/
def restUnit (u : UnitRec) : UnitRec :=
  let st := match u.state with
    | .spareTested => .spareUntested
    | .testing => .spareUntested
    | .draining => .failed
    | x => x
  { state := st, before := st, testedAt := none }

/-- A block after a power cycle: one that was draining and still serves its number goes on serving it. -/
def restBlock (s : State) (n : Nat) (u : UnitRec) : UnitRec :=
  if u.state = .draining ∧ (numberOf s n).isSome then { state := .active, before := .active, testedAt := none } else restUnit u

/-- A port after a power cycle: its cable stays plugged, and its failed lanes stay failed. -/
def restPort (r : Port) : Port := { Port.blank with present := r.present, lanesFailed := r.lanesFailed }

/-- Whether the last run ended with a failed clock-and-power die: a fatal CP_DIE, or a root PLL that lost lock with its reference
running (R510, R533). -/
def clockFailed (s : State) : Bool := decide (s.dump.cause = fcCpDie) || (decide (s.dump.cause = fcClock) && regBit s (cpBase + 0x20) 1)

/-- The module in RESET, with what it keeps from before (R505). -/
def powerUp (s : State) : State :=
  let b := State.blank s.variant
  { b with
    pending := s.pending, fresh := s.fresh, out := s.out, mem := s.mem.filter (fun c => keepsByte c.1), memFaults := s.memFaults,
    pins := { s.pins with pgCtl := true },
    power := { b.power with rootClockDie := s.power.rootClockDie, pmbusAnswers := s.power.pmbusAnswers },
    sec := { b.sec with fusesBlown := s.sec.fusesBlown, selfTest0 := s.sec.selfTest0, ensignOut := s.sec.ensignOut },
    ports := s.ports.map (fun e => (e.1, restPort e.2)),
    hb := { b.hb with retired := s.hb.retired },
    age := { b.age with
      dies := s.age.dies.map restUnit, blocks := s.age.blocks.zipIdx.map (fun x => restBlock s x.2 x.1), serving := s.age.serving,
      fwSlotsBad := s.age.fwSlotsBad, hostPortBad := s.age.hostPortBad, degraded := s.age.degraded &&& ~~~((1 : BitVec 9) <<< kindCode .memory),
      planeList := s.age.planeList, replace := s.age.replace, retiredClock := s.age.retiredClock },
    dump := { b.dump with dumpSeq := s.dump.dumpSeq, regionOk := s.dump.regionOk } }

/-- The standby clock-and-power die in service where the other has failed (R510, R533, R573). -/
def restClock (failed : Bool) (s : State) : State :=
  if !failed then s
  else
    let old := s.power.rootClockDie
    match spareFor s .clock old with
    | none => setUnit s .clock old .failed 510
    | some n => setUnit (setUnit { s with power := { s.power with rootClockDie := n } } .clock n .active 510) .clock old .failed 510

/-- PG_CTL_ASSERT (R505). An EPO_N that is low takes the module to EPO_OFF at once, a FAST_SHED_N that is low to the floor state where the
rails are up already (R511, R517, R610). -/
def execPgCtlAssert (s : State) : Result :=
  .next (if s.mode ≠ .off then s
    else
      let t := restClock (clockFailed s) (floorIfShed (powerUp s))
      if s.pins.epoLow then enterEpo t else t)

/-- PG_CTL_DEASSERT: OFF from any state (R507, R571). EPO_N counts as raised from here on: no row reports that it rises (log 214). -/
def execPgCtlDeassert (s : State) : Result :=
  .next { gateData s with mode := .off, degraded := false, sec := { s.sec with saveKey := none }, pins := { s.pins with pgCtl := false, epoLow := false },
                          host := { s.host with answering := false, standbyReady := false, request := none, stopping := false,
                                                port0 := portDown s.host.port0, port1 := portDown s.host.port1 } }

/-! ## Measurement and the boot ROM (R445, R446) -/

/-- Measurement register n extended with a 48-byte value. -/
def extend (s : State) (n : Nat) (d : Bytes) : State :=
  { s with sec := { s.sec with meas := s.sec.meas.set n (sha384 (s.sec.meas.getD n [] ++ d)) } }

/-- The bytes of an image header that are measured. -/
def measuredHeader (s : State) (slot off : Nat) : Bytes := slotRead s slot off 264

/-- The slots in the order in which the boot ROM tries them (R445). -/
def slotOrder (s : State) : List Nat :=
  let g := governing s
  (if g.confirmed = 0 ∧ g.tries = 0 then [] else [g.active % 2]) ++ [1 - g.active % 2, 2]

/-- The slots that are tried after one that failed. -/
def slotsAfter (s : State) (slot : Nat) : List Nat :=
  let a := (governing s).active % 2
  if slot = a then [1 - a, 2] else if slot = 2 then [] else [2]

/-- A slot's first stage started: TRIES is one less for an unconfirmed ACTIVE slot, and M0 and M4 are extended. -/
def startSlot (s : State) (slot : Nat) : State :=
  let g := governing s
  let mine := decide (slot = g.active % 2)
  let s := if mine ∧ g.confirmed = 0 then writeBootRec s g.active 0 (g.tries - 1) else s
  let s := { s with sec := { s.sec with bootSlot := slot, confirmed := mine && decide (g.confirmed ≠ 0) } }
  let s := extend s 0 (sha384 (measuredHeader s slot 0))
  extend s 4 (sha384 ([BitVec.ofNat 8 s.sec.fusesBlown, BitVec.ofNat 8 s.role.toNat, BitVec.ofNat 8 (b01 s.lockstep), BitVec.ofNat 8 slot] ++ zeros 12))

/-- The first of a list of slots whose first stage is valid started; with none BOOT_SLOT reads 3. -/
def bootFrom (s : State) (slots : List Nat) : State := match slots.find? (firstStageOk s) with
  | none => { s with sec := { s.sec with bootSlot := 3, confirmed := false } }
  | some slot => startSlot s slot

/-- The management dies at the end of RESET: die 0 is active unless it failed its self-test in the last boot, and the other is
the standby; a die that is FAILED stays so (R531, R573, R624). -/
def bootMgmt (s : State) : State :=
  let gone := fun d => decide (dieState s (ordMgmt d) = .failed)
  let a := if (!s.sec.selfTest0 || gone 0) && !gone 1 then 1 else 0
  let s := { s with host := { s.host with owner := a } }
  let s := if gone a then s else setUnit s .mgmt a .active 573
  if gone (1 - a) ∨ dieState s (ordMgmt (1 - a)) = .spareFailed then s else setUnit s .mgmt (1 - a) .standby 573

/-- The end of RESET: event records count from here, the straps are sampled, and the boot ROM starts; the security processor draws the key that wraps the keys of this boot (R1, R438, R505, R524, R574, R584). -/
def leaveReset (s : State) (role : BitVec 2) (lockstep selfTest0 : Bool) : State :=
  let s := bootMgmt { s with bootAt := s.now, host := { s.host with eventSeq := 0 } }
  let s := setReg s (cpBase + 0x20) ((reg s (cpBase + 0x20) &&& 4) ||| 3)
  let (key, s) := draw s 32
  let s := { s with role := role, lockstep := lockstep, sec := { s.sec with selfTest0 := selfTest0, wrapKey := key } }
  let s := bootFrom s (slotOrder s)
  { s with mode := .boot }

/-- ROOT_PLL_LOCK (R505): the straps, the self-test of management die 0, and what the environment holds, the flash included. -/
def execRootPllLock (role : BitVec 2) (lockstep selfTest0 : Bool) (env : Env) (s : State) : Result :=
  .next (if s.mode = .reset then leaveReset (applyEnv s env) role lockstep selfTest0 else s)

/-! ## Firmware (R446, R574, R594) -/

/-- The incarnation drawn: never zero (R594). -/
def drawIncarnation (s : State) : State :=
  let (bs, s) := draw s 4
  setReg s (glbBase + 0xC) (if leNat bs = 0 then 1 else BitVec.ofNat 32 (leNat bs))

/-- The main firmware runs: M1 to M3 are extended, and the incarnation is drawn. -/
def runMain (s : State) (dieImages tables : List Bytes) : State :=
  let s := extend s 1 (sha384 (measuredHeader s s.sec.bootSlot mainOffset))
  let s := dieImages.foldl (fun s i => extend s 2 (sha384 i)) s
  let s := extend s 3 (sha384 tables.flatten)
  let svn := byteAt (measuredHeader s s.sec.bootSlot mainOffset) 5
  drawIncarnation { s with sec := { s.sec with svn := svn, mainOk := true } }

/-- MAIN_IMAGE_CHECK (R445, R574): a slot whose main image is not valid fails, and the next is tried. -/
def execMainImageCheck (dieImages tables : List Bytes) (s : State) : Result :=
  .next (if s.mode ≠ .boot ∨ s.sec.mainOk ∨ 3 ≤ s.sec.bootSlot then s
    else if mainImageOk s s.sec.bootSlot then runMain s dieImages tables
    else bootFrom s (slotsAfter s s.sec.bootSlot))

/-- Cable and port bring-up started, once firmware runs and every rail is good (R505, R574). -/
def startDataPlane (s : State) : State :=
  if s.mode = .boot ∧ s.host.answering ∧ railsUp s ∧ s.power.gated ∧ !s.power.noRestart then
    (List.range (portCount s.variant)).foldl tryCable { s with power := { s.power with gated := false, lanesOff := false } }
  else s

/-- CONFIG_ANSWER_START (R574, step 4). -/
def execConfigAnswerStart (s : State) : Result :=
  .next (if s.mode = .boot ∧ s.sec.mainOk then
      startDataPlane { s with host := { s.host with answering := true,
                                                    standbyReady := decide (dieState s (ordMgmt (1 - s.host.owner % 2)) = .standby) } }
    else s)

/-- DATA_PLANE_PG_ASSERT (R505): a rail that was lost and returns, or comes after the 500 ms of BOOT, does not start the data plane (R507). -/
def execDataPlanePgAssert (rail : Rail) (s : State) : Result :=
  .next (startDataPlane (floorIfShed { s with pins := setRail s.pins rail true }))

/-- POWER_GOOD_BOOT_TIMEOUT (R505, log 6): the record names the first rail that is not good, and the module stays in BOOT. -/
def execPowerGoodBootTimeout (s : State) : Result :=
  .next (if s.mode = .boot ∧ !railsUp s ∧ !s.power.noRestart then
      let s := advanceTo { s with power := { s.power with noRestart := true } } (s.bootAt + us 500000)
      match [Rail.core, .serdes, .io, .memory].find? (fun r => needsRail s.variant r && !railGood s r) with
      | none => s
      | some r => logPower s (railCode r) 505
    else s)

/-! ## Memory training and features (R316, R346, R580) -/

/-- A rate at which a device can train; any other leaves the device out of service. -/
def trainedRate (r : BitVec 6) : BitVec 6 := if r = 48 ∨ r = 40 ∨ r = 32 then r else 0

/-- The offered features: bits 0 and 7 with a harbour, bit 3 with LOCKSTEP strapped, bits 1, 2, 4, 5 and 6 always. -/
def offerFeatures (s : State) : State :=
  setReg s (glbBase + 0x10) (BitVec.ofNat 32 (0x76 + (if devicesIn s = 0 then 0 else 0x81) + 8 * b01 s.lockstep))

/-- The harbour as it has trained. Recovery firmware does not write HB_UNITS_TOTAL (R574). -/
def trainMemory (s : State) (rates : List (BitVec 6)) : State :=
  let devices := (List.range (2 * memCount s.variant)).map (fun i => trainedRate (rates.getD i 0))
  let s := showDevices { s with age := { s.age with devices := devices } }
  let s := if recovery s then s else { s with hb := { s.hb with unitsTotal := unitsOfDevices s.variant (devicesIn s) } }
  let s := if s.dump.regionOk then setRegField s (mgBase + 0xA2C) 0 0 1 else s
  let s := (devices.zipIdx.filter (fun x => decide (x.1 = 0))).foldl (fun s x => degrade s .memory x.2) (spareNow s)
  offerFeatures s

/-- MEMORY_TRAINING_DONE: the rate of each device, 0 where it failed at every rate (R316). -/
def execMemoryTrainingDone (rates : List (BitVec 6)) (s : State) : Result :=
  .next (if s.mode = .boot ∧ !s.power.gated ∧ memCount s.variant ≠ 0 ∧ s.age.devices.isEmpty then trainMemory s rates else s)

/-! ## The entry to MAINT (R161, R344, R574) -/

/-- The harbour zeroised, but for its dump region. -/
def zeroHarbour (s : State) : State := memZero s (harbourAddr dumpRegionBytes) (spaceSize - dumpRegionBytes)

/-- Whether every step of boot that the variant has is done. -/
def bootReady (s : State) : Bool :=
  decide (s.mode = .boot) && s.sec.mainOk && s.host.answering && !s.power.gated && (decide (memCount s.variant = 0) || !s.age.devices.isEmpty)

/-- Boot ends: recovery firmware leaves out step 6 (R574). -/
def finishBoot (s : State) : State :=
  let s := if recovery s then s else zeroHarbour s
  let s := moveClock (lowerPools (offerFeatures (zeroScratch s)))
  setMode s .maint 574

/-- BOOT_COMPLETE (R574). -/
def execBootComplete (s : State) : Result := .next (if bootReady s then settle (finishBoot s) else s)

end Sys2Proof.Machine
end

