-- ==== Sys2Proof/Machine/CollRows.lean ====
section
/-!
DEFINITION. The rows of collectives: the launch and group commands (R242 to R253), every COLL and COLL_CTRL message at a
module and at a member block (R272, R273), and the claim and stall timers (R254, R256, R267).
-/
namespace Sys2Proof.Machine

open Sys2Proof

/-! ## Commands -/

/-- COLL_LAUNCH (R246, R258). -/
def execCollLaunch (block queue : Nat) (s : State) : Result := .next (settle (acceptLaunch s block queue))
/-- COLL_EXT: one that no launch consumed completes with PROTOCOL (R251). -/
def execCollExt (block queue : Nat) (s : State) : Result := .next (match dropExt s block queue with
  | some s => s
  | none => acceptRun s block queue (isOp 0x62) checkLoneExt startNothing)
/-- REGROUP (R242, R268). -/
def execRegroup (block queue : Nat) (s : State) : Result :=
  .next (settle (acceptRun s block queue (isOp 0x61) checkRegroup startRegroup))
/-- GROUP_DEFINE (R242, R243). -/
def execGroupDefine (block queue : Nat) (s : State) : Result :=
  .next (settle (acceptRun s block queue (isOp 0x63) checkDefineGroup startDefineGroup))
/-- GROUP_CLOSE (R242). -/
def execGroupClose (block queue : Nat) (s : State) : Result :=
  .next (settle (acceptRun s block queue (isOp 0x64) checkCloseGroup startCloseGroup))

/-! ## Messages -/

/-- A packet that a module takes for a collective, and a member block for its launch. -/
def bothRow (s : State) (pkt : Packet) (ty : BitVec 4) (opcode : Byte) (mod : State → Plan → Coll → CollMsg → State)
    (mem : State → Plan → Launch → Cmd → CollMsg → State) : Result :=
  .next (settle (collPacket s pkt ty opcode (fun s at_ u m _ => match at_ with
    | .module => atModule s u m (fun s p c => mod s p c m)
    | .member b => atMember s b m false (fun s p l c => mem s p l c m))))

/-- A packet that only modules act on: a member block acknowledges and drops it. -/
def upRow (s : State) (pkt : Packet) (ty : BitVec 4) (opcode : Byte) (mod : State → Plan → Coll → CollMsg → State) : Result :=
  bothRow s pkt ty opcode mod (fun s _ _ _ _ => s)

/-- A packet whose data a reduction die adds before it has verified it (R261). -/
def dataRow (s : State) (pkt : Packet) (opcode : Byte) (mod : State → Plan → Coll → CollMsg → Bool → State) : Result :=
  .next (settle (collPacket s pkt tyColl opcode (fun s at_ u m bad => match at_ with
    | .module => atModule s u m (fun s p c => mod s p c m bad)
    | .member b => atMember s b m false (fun s _ _ _ => s))))

/-- A packet of a group. -/
def groupRow (s : State) (pkt : Packet) (opcode : Byte) (current : State → CollMsg → Bool) (k : State → CollMsg → State) : Result :=
  .next (settle (collPacket s pkt tyCollCtrl opcode (fun s at_ u m _ => atGroup s at_ u m (current s m) (fun s => k s m))))

/-- PLAN: a fragment of a record, or a refusal (R243). The epoch of a plan is one to come. -/
def execPlan (pkt : Packet) (s : State) : Result := groupRow s pkt ccPlan (fun _ _ => true) (fun s m => match m.body with
  | .planFragment start data last regroup => onFragment s m start data last regroup
  | .planRefuse status lost => onRefuse s m status lost
  | _ => s)
/-- JOIN, or its refusal (R243). -/
def execJoin (pkt : Packet) (s : State) : Result := groupRow s pkt ccJoin epochHeld (fun s m => match m.body with
  | .join refuse => onJoin s m refuse
  | _ => s)
/-- The stall limit of a joining group past (R243, step 6, log 6). -/
def execJoinTimeout (group : BitVec 12) (s : State) : Result := .next (if inService s then settle (onJoinTimeout s group) else s)
/-- ACTIVATE (R243, step 5). -/
def execActivate (pkt : Packet) (s : State) : Result := groupRow s pkt ccActivate epochHeld onActivate
/-- CLOSE (R241, R245). -/
def execClose (pkt : Packet) (s : State) : Result := groupRow s pkt ccClose epochHeld onClose

/-- Whether the module takes a collective's first message under an epoch. -/
def planHeld (s : State) (m : CollMsg) : Bool := (planAt s m.group m.epoch).any (fun p => decide (p.ctx = m.ctx))

/-- READY (R258). A duplicate is acknowledged and discarded (R271). -/
def execReady (pkt : Packet) (s : State) : Result := groupRow s pkt ccReady planHeld (fun s m => match m.body, planAt s m.group m.epoch with
  | .ready f prefixLen, some p =>
    if (collOf s (keyOf m)).any (fun c => c.ready.any (fun r => decide (r.1 = m.src))) then s else onReady s p m f prefixLen
  | _, _ => s)

/-- The head claim of a class is granted where its slots are free (R254). -/
def execClaimGrant (cls : BitVec 3) (s : State) : Result := .next (if inService s then settle (grantHead s cls) else s)
/-- A claim that has waited for CLAIM_LIMIT_US is withdrawn, and the fallback block takes over (R256, log 6). READY goes up for it now
(R258, step 3). -/
def execClaimTimeout (key : CollKey) (s : State) : Result := .next (match claimOf s key, collOf s key with
  | some cl, some c => match planAt s key.group key.epoch with
    | none => s
    | some p =>
      if !inService s ∨ cl.granted ∨ cl.fallback then s
      else settle (readyNext (fallBack (advanceTo s (cl.placedAt + us (regField s (mgBase + 0x300) 15 0))) p c) key)
  | _, _ => s)

/-- GO, of phase SCAN or DATA (R259, R260). -/
def execGo (pkt : Packet) (s : State) : Result := bothRow s pkt tyCollCtrl ccGo
  (fun s p c m => match m.body with
    | .go phase count => onGo s p c m phase count
    | _ => s)
  (fun s p l c m => match m.body with
    | .go .scan _ => memberScan s p l c m
    | .go .data count => memberData s p l c m count
    | _ => s)
/-- SCAN (R46, R259). -/
def execScan (pkt : Packet) (s : State) : Result := upRow s pkt tyCollCtrl ccScan (fun s p c m => match m.body with
  | .scan words => onScan s p c m words
  | _ => s)
/-- ANCHORS (R46, R259). -/
def execAnchors (pkt : Packet) (s : State) : Result := upRow s pkt tyCollCtrl ccAnchors (fun s p c m => match m.body with
  | .anchors words => onAnchors s p c m words
  | _ => s)
/-- CONTRIB (R260, R261). -/
def execContrib (pkt : Packet) (s : State) : Result := dataRow s pkt coContrib (fun s p c m bad => match m.body with
  | .contrib data => onContrib s p c m data bad
  | _ => s)
/-- PARTIAL (R57, R260, R274). `negZeros` names the elements of it whose contributions were all -0 (R50, log 21). -/
def execPartialSum (pkt : Packet) (negZeros : List Nat) (s : State) : Result := dataRow s pkt coPartial (fun s _ c m bad => match m.body with
  | .partialSum data => onPartial s c m data negZeros bad
  | _ => s)
/-- RESULT (R260, R261): a member block writes it and acknowledges it then. -/
def execResult (pkt : Packet) (s : State) : Result :=
  .next (settle (collPacket s pkt tyColl coResult (fun s at_ u m _ => match m.body, at_ with
    | .result data, .module => atModule s u m (fun s p c => onResult s p c m data)
    | .result data, .member b => atMember s b m true (fun s p l c => memberResult s p l c m data)
    | _, _ => s)))
/-- CHECKED (R262). -/
def execChecked (pkt : Packet) (s : State) : Result := upRow s pkt tyCollCtrl ccChecked (fun s p c m => match m.body with
  | .checked count corrupt overflow => onChecked s p c m count corrupt overflow
  | _ => s)
/-- DELIVERED (R262). -/
def execDelivered (pkt : Packet) (s : State) : Result := upRow s pkt tyCollCtrl ccDelivered onDelivered
/-- COMMIT (R262, R265). -/
def execCommit (pkt : Packet) (s : State) : Result := bothRow s pkt tyCollCtrl ccCommit
  (fun s p c m => match m.body with
    | .commit overflow => onCommitMsg s p c m overflow
    | _ => s)
  (fun s p l c m => match m.body with
    | .commit overflow => memberCommit s p l c m overflow
    | _ => s)
/-- RETRACT (R263), which the root sends to every module and member block: the chunk's try becomes the new one. -/
def execRetract (pkt : Packet) (s : State) : Result := bothRow s pkt tyCollCtrl ccRetract
  (fun s _ c m => match m.body with
    | .retract newTry => onRetract s c m newTry
    | _ => s)
  (fun s _ l _ m => match m.body with
    | .retract newTry => setLaunch s { l with tries := l.tries ++ [(m.chunk, newTry)] }
    | _ => s)
/-- ABORT (R264): the primary root passes the first on whether or not it holds the collective. -/
def execAbort (pkt : Packet) (s : State) : Result :=
  .next (settle (collPacket s pkt tyCollCtrl ccAbort (fun s at_ u m _ => match m.body, at_ with
    | .abort status member fault, .module => atGroup s at_ u m (planHeld s m) (fun s => match planAt s m.group m.epoch with
      | none => s
      | some p => onAbort_ s p m status member fault)
    | .abort status member fault, .member b => atMember s b m false (fun s _ l _ => memberEnd s l status member fault)
    | _, _ => s)))
/-- STALL (R267). -/
def execStall (pkt : Packet) (s : State) : Result := groupRow s pkt ccStall epochHeld (fun s m => match m.body with
  | .stall missing => onStall s m missing
  | _ => s)

/-! ## Stalls (R267) -/

/-- What a module awaits of a collective and a chunk of it, and since when it has needed it: the READY of children, their SCAN, their data
and their CHECKED of each piece, and their DELIVERED. -/
def awaited (s : State) (p : Plan) (c : Coll) (k : Nat) : List (Nat × Fid) :=
  let n := p.members.length
  let kids := kidsOf p (me s)
  let ready := if c.ready.isEmpty ∨ c.started ∨ c.readySent then [] else kids.filter (fun f => !c.ready.any (fun r => decide (r.1 = f)))
  ready.map (fun f => (c.since, f)) ++ (match c.chunkAt k with
    | none => []
    | some x =>
      let size := chunkSize c.fields n k
      let scans := if !x.scanGone ∨ x.scanSent then []
        else kids.filter (fun f => kidGives p c.fields f k 0 size && (scanOf x f (groupsOf c.fields n k)).isNone)
      let data := x.pieces.flatMap (fun q => if q.sent then []
        else (kids.filter (fun f => decide (countFor q.cover f ≠ kidShare p c.fields f k q.first q.count))).map (fun f => (q.since, f)))
      let checks := x.pieces.flatMap (fun q => ((goKids p c.fields (me s) k q.first q.count).filter (fun f =>
        decide (f ∈ moduleKids p (me s)) && decide (countFor q.checked f ≠ q.count))).map (fun f => (q.since, f)))
      let deliver := match x.resultAt with
        | none => []
        | some t => ((moduleKids p (me s)).filter (fun f => decide (resultElems p c.fields f k ≠ 0) && decide (f ∉ x.delivered))).map (fun f => (t, f))
      scans.map (fun f => (x.scanAt, f)) ++ data ++ checks ++ deliver)

/-- STALL_TIMEOUT: what the module has awaited longest has not come within the stall limit of MG_COLL_CFG since it first needed it; every
child whose limit has passed by then is missing (R267, R276, log 6). -/
def stallOut (s : State) (group : BitVec 12) (collId : Word) (chunk : Nat) : State :=
  match (groupOf s group).bind (fun g => (collOf s { ctx := g.plan.ctx, group := group, epoch := g.plan.epoch, collId := collId }).map
      (fun c => (g, c))) with
  | none => s
  | some (g, c) =>
    match awaited s g.plan c chunk with
    | [] => s
    | a :: l =>
      if g.state ≠ .active then s
      else
        let first := (l.map (·.1)).foldl min a.1
        let s := advanceTo s (first + us (stallUs s))
        declareStall s group collId chunk (((a :: l).filter (fun w => decide (w.1 + us (stallUs s) ≤ s.now))).map (·.2)).eraseDups

/-- STALL_TIMEOUT (R267). -/
def execStallTimeout (group : BitVec 12) (collId : Word) (chunk : Nat) (s : State) : Result :=
  .next (if inService s then settle (stallOut s group collId chunk) else s)

/-! ## The end of a collective -/

/-- DONE (R265, step 3). -/
def execDone (pkt : Packet) (s : State) : Result := upRow s pkt tyColl coDone (fun s p c m => match m.body with
  | .done data => onDone s p c m data
  | _ => s)
/-- FINISH (R265, R487). -/
def execFinish (pkt : Packet) (s : State) : Result := bothRow s pkt tyCollCtrl ccFinish
  (fun s p c m => match m.body with
    | .finish _ digest => onFinish s p c digest
    | _ => s)
  (fun s p l _ m => match m.body with
    | .finish value digest => memberFinish s p l value digest
    | _ => s)
/-- PROV_CRC (R486). -/
def execProvCrc (pkt : Packet) (s : State) : Result := upRow s pkt tyCollCtrl ccProvCrc (fun s p c m => match m.body with
  | .provCrc values => onProvCrc s p c m values
  | _ => s)
/-- PROV_LIST (R486). -/
def execProvList (pkt : Packet) (s : State) : Result := upRow s pkt tyCollCtrl ccProvList (fun s p c m => match m.body with
  | .provList values => onProvList s p c m values
  | _ => s)

end Sys2Proof.Machine
end

