-- ==== Sys2Proof/Machine/HarbourRows.lean ====
section
/-!
DEFINITION. The rows of the harbour: its commands, and the messages and timers of the commit vote.
-/
namespace Sys2Proof.Machine

open Sys2Proof

/-! ## The rows -/

/-- HB_SET_CREATE (R318). -/
def execHbSetCreate (block queue : Nat) (s : State) : Result := .next (acceptRun s block queue (isOp 0x70) checkCreate startCreate)
/-- HB_SET_DESTROY (R340). -/
def execHbSetDestroy (block queue : Nat) (s : State) : Result := .next (acceptRun s block queue (isOp 0x71) checkDestroy startDestroy)
/-- HB_PORT_BIND (R330). -/
def execHbPortBind (block queue : Nat) (s : State) : Result := .next (acceptRun s block queue (isOp 0x72) checkBind startBind)
/-- HB_PORT_UNBIND (R330). -/
def execHbPortUnbind (block queue : Nat) (s : State) : Result :=
  .next (settle (acceptRun s block queue (isOp 0x73) checkUnbind startUnbind))
/-- HB_SWEEP (R329). -/
def execHbSweep (block queue : Nat) (s : State) : Result := .next (acceptRun s block queue (isOp 0x74) checkSweep startSweep)
/-- HB_COMMIT (R332). -/
def execHbCommit (block queue : Nat) (s : State) : Result := .next (acceptRun s block queue (isOp 0x75) checkCommit startCommit)
/-- HB_STEP_ABORT (R336). -/
def execHbStepAbort (block queue : Nat) (s : State) : Result := .next (acceptRun s block queue (isOp 0x76) checkAbort startAbort)
/-- HB_QUOTA (R340). -/
def execHbQuota (block queue : Nat) (s : State) : Result := .next (acceptRun s block queue (isOp 0x77) checkQuota startQuota)

/-- A vote record of a KIND that arrives on its own row: one that R333 refuses, or that breaks its layout, does nothing (R8). -/
def voteRow (s : State) (m : VoteMsg) (kind : Byte) (f : State → VoteMsg → State) : Result :=
  .next (if voteLegal s m ∧ voteRecordOk m.record ∧ voteKind m = kind then settle (f s m) else s)

/-- PREPARE (R332). -/
def execPrepare (msg : VoteMsg) (s : State) : Result := voteRow s msg vkPrepare onPrepare
/-- VOTE_YES (R334). -/
def execVoteYes (msg : VoteMsg) (s : State) : Result := voteRow s msg vkYes onYes
/-- VOTE_NO (R334). -/
def execVoteNo (msg : VoteMsg) (s : State) : Result := voteRow s msg vkNo onNo
/-- DECIDE_COMMIT (R334). -/
def execDecideCommit (msg : VoteMsg) (s : State) : Result := voteRow s msg vkCommit onCommit
/-- DECIDE_ABORT (R334). -/
def execDecideAbort (msg : VoteMsg) (s : State) : Result := voteRow s msg vkAbort onAbort
/-- QUERY (R335). -/
def execQuery (msg : VoteMsg) (s : State) : Result := voteRow s msg vkQuery onQuery
/-- STATE_REPLY (R335). -/
def execStateReply (msg : VoteMsg) (s : State) : Result := voteRow s msg vkReply onReply

/-- The vote of the coordinator past its stall limit: the first failure that it holds, or TIMEOUT for a missing vote (R334, log 6). -/
def execVoteTimeout (key : SetKey) (s : State) : Result := .next (match (if inService s then voteOf s key else none) with
  | none => s
  | some v => if v.coordinator ∧ !v.deciding then
      settle (voteAbort (advanceTo s (v.votedAt + us (stallUs s))) v (abortStatus v)) else s)

/-- A prepare that waited beyond the stall limit: a NO vote with reason WAIT (R332). -/
def execPrepareWaitExpiry (key : SetKey) (s : State) : Result := .next (match (if inService s then voteOf s key else none) with
  | none => s
  | some v => if v.preparing then settle (castNo (advanceTo s (v.votedAt + us (stallUs s))) v vrWait) else s)

/-- A shard that stayed PREPARED for the stall limit asks every other shard; one whose last round has lost the coordinator and brought
nothing but PREPARED aborts, whichever shard still owes an answer (R335). -/
def execPreparedQueryTimer (key : SetKey) (s : State) : Result := .next (match (if inService s then voteOf s key else none), shardOf s key with
  | some v, some h =>
    if v.coordinator ∨ v.preparing ∨ h.state ≠ .prepared then s
    else
      let s := advanceTo s (v.votedAt + us (stallUs s))
      if coordinatorGone v then settle (applyAbort (dropVote s v.key) h) else
      let v := { v with votedAt := s.now, coordinatorLost := false, answers := [], waiting := (peersBut v h.rootIndex).map (·.1) }
      sendAllVotes (setVote s v) v h.rootIndex false (voteBytes vkQuery 0 h.rootIndex v.key.hset v.step [])
  | _, _ => s)

end Sys2Proof.Machine
end

