-- ==== Sys2Proof/Machine/Dispatch.lean ====
section
/-!
DEFINITION. The dispatch of a command to its meaning: one arm for each constructor of Instr.
-/
namespace Sys2Proof.Machine

open Sys2Proof

/-- The effect of a command on everything but the queue. -/
def exec (i : Instr) (s : State) : Host.Outcome State Fault Refusal :=
  match i with
  | .pgCtlAssert => Sys2Proof.Machine.execPgCtlAssert s
  | .rootPllLock role lockstep selfTest0 env => Sys2Proof.Machine.execRootPllLock role lockstep selfTest0 env s
  | .mainImageCheck dieImages tables => Sys2Proof.Machine.execMainImageCheck dieImages tables s
  | .configAnswerStart => Sys2Proof.Machine.execConfigAnswerStart s
  | .memoryTrainingDone rates => Sys2Proof.Machine.execMemoryTrainingDone rates s
  | .bootComplete => Sys2Proof.Machine.execBootComplete s
  | .powerGoodBootTimeout => Sys2Proof.Machine.execPowerGoodBootTimeout s
  | .pgCtlDeassert => Sys2Proof.Machine.execPgCtlDeassert s
  | .dataPlanePgLoss rail => Sys2Proof.Machine.execDataPlanePgLoss rail s
  | .rootPllLockLoss refLost => Sys2Proof.Machine.execRootPllLockLoss refLost s
  | .epoAssert => Sys2Proof.Machine.execEpoAssert s
  | .thermalTrip => Sys2Proof.Machine.execThermalTrip s
  | .fastShedAssert => Sys2Proof.Machine.execFastShedAssert s
  | .fastShedRelease => Sys2Proof.Machine.execFastShedRelease s
  | .capCodeSample code => Sys2Proof.Machine.execCapCodeSample code s
  | .powerMeasure watts => Sys2Proof.Machine.execPowerMeasure watts s
  | .coreVsetStep => Sys2Proof.Machine.execCoreVsetStep s
  | .thermalCapStep hottest => Sys2Proof.Machine.execThermalCapStep hottest s
  | .perstNAssert port => Sys2Proof.Machine.execPerstNAssert port s
  | .hostLinkLoss port => Sys2Proof.Machine.execHostLinkLoss port s
  | .hostReadTimeout addr len => Sys2Proof.Machine.execHostReadTimeout addr len s
  | .nonOwnerMemoryRequest port => Sys2Proof.Machine.execNonOwnerMemoryRequest port s
  | .registerWrite off data => Sys2Proof.Machine.execRegisterWrite off data s
  | .counterReadClear off size => Sys2Proof.Machine.execCounterReadClear off size s
  | .pairLoRead off size => Sys2Proof.Machine.execPairLoRead off size s
  | .leaveMaintRequest role env => Sys2Proof.Machine.execLeaveMaintRequest role env s
  | .enterMaintRequest role => Sys2Proof.Machine.execEnterMaintRequest role s
  | .stateReqReservedTarget target role => Sys2Proof.Machine.execStateReqReservedTarget target role s
  | .arm die => Sys2Proof.Machine.execArm die s
  | .residueInjectFire die => Sys2Proof.Machine.execResidueInjectFire die s
  | .retrain port => Sys2Proof.Machine.execRetrain port s
  | .release port => Sys2Proof.Machine.execRelease port s
  | .portEnableWrite port value => Sys2Proof.Machine.execPortEnableWrite port value s
  | .cacheEnWrite block value => Sys2Proof.Machine.execCacheEnWrite block value s
  | .halyardEnable h cfg => Sys2Proof.Machine.execHalyardEnable h cfg s
  | .halyardClear h => Sys2Proof.Machine.execHalyardClear h s
  | .eventRingEnable lo hi => Sys2Proof.Machine.execEventRingEnable lo hi s
  | .mboxTailWrite index env => Sys2Proof.Machine.execMboxTailWrite index env s
  | .mailboxRequest => Sys2Proof.Machine.execMailboxRequest s
  | .start env => Sys2Proof.Machine.execStart env s
  | .firmwareProgramDone flashOk => Sys2Proof.Machine.execFirmwareProgramDone flashOk s
  | .next => Sys2Proof.Machine.execNext s
  | .confirm => Sys2Proof.Machine.execConfirm s
  | .run => Sys2Proof.Machine.execRun s
  | .plannerPeriod => Sys2Proof.Machine.execPlannerPeriod s
  | .takeover => Sys2Proof.Machine.execTakeover s
  | .resume => Sys2Proof.Machine.execResume s
  | .hostDoorbellPageWrite page off data => Sys2Proof.Machine.execHostDoorbellPageWrite page off data s
  | .standbyMsixWrite off data => Sys2Proof.Machine.execStandbyMsixWrite off data s
  | .bar2Access off len write => Sys2Proof.Machine.execBar2Access off len write s
  | .submissionDoorbell path doorbell env => Sys2Proof.Machine.execSubmissionDoorbell path doorbell env s
  | .consumerDoorbell path doorbell => Sys2Proof.Machine.execConsumerDoorbell path doorbell s
  | .descriptorFetch block queue => Sys2Proof.Machine.execDescriptorFetch block queue s
  | .counterWaitSatisfied block queue => Sys2Proof.Machine.execCounterWaitSatisfied block queue s
  | .tileStart block queue => Sys2Proof.Machine.execTileStart block queue s
  | .pennantWrite block queue => Sys2Proof.Machine.execPennantWrite block queue s
  | .contextAdmit block => Sys2Proof.Machine.execContextAdmit block s
  | .write block queue => Sys2Proof.Machine.execWrite block queue s
  | .read block queue => Sys2Proof.Machine.execRead block queue s
  | .vread block queue => Sys2Proof.Machine.execVread block queue s
  | .atomic block queue => Sys2Proof.Machine.execAtomic block queue s
  | .copyPush block queue => Sys2Proof.Machine.execCopyPush block queue s
  | .copyPull block queue => Sys2Proof.Machine.execCopyPull block queue s
  | .copyLocal block queue => Sys2Proof.Machine.execCopyLocal block queue s
  | .fence block queue => Sys2Proof.Machine.execFence block queue s
  | .checkAccumulate block queue => Sys2Proof.Machine.execCheckAccumulate block queue s
  | .checkRead block queue => Sys2Proof.Machine.execCheckRead block queue s
  | .checkLoad block queue => Sys2Proof.Machine.execCheckLoad block queue s
  | .ownXfer block queue => Sys2Proof.Machine.execOwnXfer block queue s
  | .ownershipTransferApply msg => Sys2Proof.Machine.execOwnershipTransferApply msg s
  | .xlateInval block queue => Sys2Proof.Machine.execXlateInval block queue s
  | .ctxDefine block queue => Sys2Proof.Machine.execCtxDefine block queue s
  | .queueEnable block queue => Sys2Proof.Machine.execQueueEnable block queue s
  | .queueDisable block queue => Sys2Proof.Machine.execQueueDisable block queue s
  | .ctrWrite block queue => Sys2Proof.Machine.execCtrWrite block queue s
  | .ctrAdd block queue => Sys2Proof.Machine.execCtrAdd block queue s
  | .ctrRead block queue => Sys2Proof.Machine.execCtrRead block queue s
  | .nop block queue => Sys2Proof.Machine.execNop block queue s
  | .collLaunch block queue => Sys2Proof.Machine.execCollLaunch block queue s
  | .collExt block queue => Sys2Proof.Machine.execCollExt block queue s
  | .regroup block queue => Sys2Proof.Machine.execRegroup block queue s
  | .groupDefine block queue => Sys2Proof.Machine.execGroupDefine block queue s
  | .groupClose block queue => Sys2Proof.Machine.execGroupClose block queue s
  | .progLoad block queue => Sys2Proof.Machine.execProgLoad block queue s
  | .progUnload block queue => Sys2Proof.Machine.execProgUnload block queue s
  | .halyardWatch block queue => Sys2Proof.Machine.execHalyardWatch block queue s
  | .hbSetCreate block queue => Sys2Proof.Machine.execHbSetCreate block queue s
  | .hbSetDestroy block queue => Sys2Proof.Machine.execHbSetDestroy block queue s
  | .hbPortBind block queue => Sys2Proof.Machine.execHbPortBind block queue s
  | .hbPortUnbind block queue => Sys2Proof.Machine.execHbPortUnbind block queue s
  | .hbSweep block queue => Sys2Proof.Machine.execHbSweep block queue s
  | .hbCommit block queue => Sys2Proof.Machine.execHbCommit block queue s
  | .hbStepAbort block queue => Sys2Proof.Machine.execHbStepAbort block queue s
  | .hbQuota block queue => Sys2Proof.Machine.execHbQuota block queue s
  | .teardown block queue => Sys2Proof.Machine.execTeardown block queue s
  | .teardownQuietExpiry ctx => Sys2Proof.Machine.execTeardownQuietExpiry ctx s
  | .tdReq pkt => Sys2Proof.Machine.execTdReq pkt s
  | .tdDone pkt => Sys2Proof.Machine.execTdDone pkt s
  | .tdDoneTimeout peer ctx => Sys2Proof.Machine.execTdDoneTimeout peer ctx s
  | .orderedReqReceive pkt => Sys2Proof.Machine.execOrderedReqReceive pkt s
  | .readReqReceive pkt => Sys2Proof.Machine.execReadReqReceive pkt s
  | .answerReceive unit pkt => Sys2Proof.Machine.execAnswerReceive unit pkt s
  | .resendTimeout request => Sys2Proof.Machine.execResendTimeout request s
  | .ledgerEntryExpiry block key seq => Sys2Proof.Machine.execLedgerEntryExpiry block key seq s
  | .combinablePacketArrive pkt => Sys2Proof.Machine.execCombinablePacketArrive pkt s
  | .combineWindowClose die => Sys2Proof.Machine.execCombineWindowClose die s
  | .combinedAdd pkt => Sys2Proof.Machine.execCombinedAdd pkt s
  | .blockRestart port pkt => Sys2Proof.Machine.execBlockRestart port pkt s
  | .blockRestartRepeat fid => Sys2Proof.Machine.execBlockRestartRepeat fid s
  | .spareBlockQuietExpiry block => Sys2Proof.Machine.execSpareBlockQuietExpiry block s
  | .packetIngress port pkt => Sys2Proof.Machine.execPacketIngress port pkt s
  | .cellArrive port cell => Sys2Proof.Machine.execCellArrive port cell s
  | .reassemblyTimeout port ingress packetId => Sys2Proof.Machine.execReassemblyTimeout port ingress packetId s
  | .egressTransmit port => Sys2Proof.Machine.execEgressTransmit port s
  | .congNotify pkt => Sys2Proof.Machine.execCongNotify pkt s
  | .rateLimitRecover block fid => Sys2Proof.Machine.execRateLimitRecover block fid s
  | .routeWithdraw port pkt => Sys2Proof.Machine.execRouteWithdraw port pkt s
  | .routeRestore port pkt => Sys2Proof.Machine.execRouteRestore port pkt s
  | .routeRestoreDelayExpiry fid => Sys2Proof.Machine.execRouteRestoreDelayExpiry fid s
  | .cableInsert port => Sys2Proof.Machine.execCableInsert port s
  | .cableModuleLowPwr port cmisRev appsOk => Sys2Proof.Machine.execCableModuleLowPwr port cmisRev appsOk s
  | .cableModuleReady port => Sys2Proof.Machine.execCableModuleReady port s
  | .cableDpActivated port => Sys2Proof.Machine.execCableDpActivated port s
  | .cableBringupFail port stepNo => Sys2Proof.Machine.execCableBringupFail port stepNo s
  | .cableRetryExpiry port => Sys2Proof.Machine.execCableRetryExpiry port s
  | .cableRemove port => Sys2Proof.Machine.execCableRemove port s
  | .cablePoll port flags => Sys2Proof.Machine.execCablePoll port flags s
  | .sdaStuck port stillLow => Sys2Proof.Machine.execSdaStuck port stillLow s
  | .linkInit port frame => Sys2Proof.Machine.execLinkInit port frame s
  | .initAck port frame => Sys2Proof.Machine.execInitAck port frame s
  | .trainingTimeout port => Sys2Proof.Machine.execTrainingTimeout port s
  | .los port lanes => Sys2Proof.Machine.execLos port lanes s
  | .fecFail port corrected uncorrectable => Sys2Proof.Machine.execFecFail port corrected uncorrectable s
  | .swapReq port frame => Sys2Proof.Machine.execSwapReq port frame s
  | .swapReady port frame => Sys2Proof.Machine.execSwapReady port frame s
  | .swapMarker port transmit => Sys2Proof.Machine.execSwapMarker port transmit s
  | .swapTimeout port => Sys2Proof.Machine.execSwapTimeout port s
  | .dataFrameReceive port frame => Sys2Proof.Machine.execDataFrameReceive port frame s
  | .credit port frame => Sys2Proof.Machine.execCredit port frame s
  | .creditSendTimer port => Sys2Proof.Machine.execCreditSendTimer port s
  | .linkRetry port frame => Sys2Proof.Machine.execLinkRetry port frame s
  | .apWr port tag ctx window addr data => Sys2Proof.Machine.execApWr port tag ctx window addr data s
  | .apRd port tag ctx window addr len vol => Sys2Proof.Machine.execApRd port tag ctx window addr len vol s
  | .cpl port tag status data => Sys2Proof.Machine.execCpl port tag status data s
  | .attachTimeout port tag => Sys2Proof.Machine.execAttachTimeout port tag s
  | .plan pkt => Sys2Proof.Machine.execPlan pkt s
  | .join pkt => Sys2Proof.Machine.execJoin pkt s
  | .joinTimeout group => Sys2Proof.Machine.execJoinTimeout group s
  | .activate pkt => Sys2Proof.Machine.execActivate pkt s
  | .close pkt => Sys2Proof.Machine.execClose pkt s
  | .ready pkt => Sys2Proof.Machine.execReady pkt s
  | .claimGrant cls => Sys2Proof.Machine.execClaimGrant cls s
  | .claimTimeout key => Sys2Proof.Machine.execClaimTimeout key s
  | .go pkt => Sys2Proof.Machine.execGo pkt s
  | .scan pkt => Sys2Proof.Machine.execScan pkt s
  | .anchors pkt => Sys2Proof.Machine.execAnchors pkt s
  | .contrib pkt => Sys2Proof.Machine.execContrib pkt s
  | .partialSum pkt negZeros => Sys2Proof.Machine.execPartialSum pkt negZeros s
  | .result pkt => Sys2Proof.Machine.execResult pkt s
  | .checked pkt => Sys2Proof.Machine.execChecked pkt s
  | .delivered pkt => Sys2Proof.Machine.execDelivered pkt s
  | .commit pkt => Sys2Proof.Machine.execCommit pkt s
  | .retract pkt => Sys2Proof.Machine.execRetract pkt s
  | .abort pkt => Sys2Proof.Machine.execAbort pkt s
  | .stall pkt => Sys2Proof.Machine.execStall pkt s
  | .stallTimeout group collId chunk => Sys2Proof.Machine.execStallTimeout group collId chunk s
  | .done pkt => Sys2Proof.Machine.execDone pkt s
  | .finish pkt => Sys2Proof.Machine.execFinish pkt s
  | .provCrc pkt => Sys2Proof.Machine.execProvCrc pkt s
  | .provList pkt => Sys2Proof.Machine.execProvList pkt s
  | .prepare msg => Sys2Proof.Machine.execPrepare msg s
  | .voteYes msg => Sys2Proof.Machine.execVoteYes msg s
  | .voteNo msg => Sys2Proof.Machine.execVoteNo msg s
  | .decideCommit msg => Sys2Proof.Machine.execDecideCommit msg s
  | .decideAbort msg => Sys2Proof.Machine.execDecideAbort msg s
  | .voteTimeout key => Sys2Proof.Machine.execVoteTimeout key s
  | .preparedQueryTimer key => Sys2Proof.Machine.execPreparedQueryTimer key s
  | .query msg => Sys2Proof.Machine.execQuery msg s
  | .stateReply msg => Sys2Proof.Machine.execStateReply msg s
  | .hello msg => Sys2Proof.Machine.execHello msg s
  | .keyInstall msg => Sys2Proof.Machine.execKeyInstall msg s
  | .keyActivate msg => Sys2Proof.Machine.execKeyActivate msg s
  | .keyRetire msg => Sys2Proof.Machine.execKeyRetire msg s
  | .sessionEnd msg => Sys2Proof.Machine.execSessionEnd msg s
  | .sessionIdleTimeout session => Sys2Proof.Machine.execSessionIdleTimeout session s
  | .ensignFwd pkt => Sys2Proof.Machine.execEnsignFwd pkt s
  | .ensignRsp pkt => Sys2Proof.Machine.execEnsignRsp pkt s
  | .lsPair port pkt => Sys2Proof.Machine.execLsPair port pkt s
  | .lsRecord port pkt => Sys2Proof.Machine.execLsRecord port pkt s
  | .lsMatchTimeout kind key => Sys2Proof.Machine.execLsMatchTimeout kind key s
  | .lsDiverge port pkt => Sys2Proof.Machine.execLsDiverge port pkt s
  | .lsResume port pkt => Sys2Proof.Machine.execLsResume port pkt s
  | .monitorSample readings => Sys2Proof.Machine.execMonitorSample readings s
  | .failLimitResponse monitor => Sys2Proof.Machine.execFailLimitResponse monitor s
  | .spareTest kind unit => Sys2Proof.Machine.execSpareTest kind unit s
  | .spareTestDone kind unit pass => Sys2Proof.Machine.execSpareTestDone kind unit pass s
  | .planeSwap worn spare => Sys2Proof.Machine.execPlaneSwap worn spare s
  | .reductionDieSwap worn spare => Sys2Proof.Machine.execReductionDieSwap worn spare s
  | .endPointBlockSwap block => Sys2Proof.Machine.execEndPointBlockSwap block s
  | .planeFail die => Sys2Proof.Machine.execPlaneFail die s
  | .reductionDieFail die => Sys2Proof.Machine.execReductionDieFail die s
  | .endPointBlockFail block => Sys2Proof.Machine.execEndPointBlockFail block s
  | .memoryDeviceFail device => Sys2Proof.Machine.execMemoryDeviceFail device s
  | .harbourLineRetire line edcRetries found => Sys2Proof.Machine.execHarbourLineRetire line edcRetries found s
  | .heartbeatLoss => Sys2Proof.Machine.execHeartbeatLoss s
  | .fatalError cause => Sys2Proof.Machine.execFatalError cause s
  | .dumpStart => Sys2Proof.Machine.execDumpStart s
  | .dumpDone => Sys2Proof.Machine.execDumpDone s
  | .clearFaults => Sys2Proof.Machine.execClearFaults s
  | .statusWord => Sys2Proof.Machine.execStatusWord s
  | .readTemperature1 => Sys2Proof.Machine.execReadTemperature1 s
  | .readPin => Sys2Proof.Machine.execReadPin s
  | .pmbusRevision => Sys2Proof.Machine.execPmbusRevision s
  | .mfrPowerCap write => Sys2Proof.Machine.execMfrPowerCap write s
  | .mfrCapState => Sys2Proof.Machine.execMfrCapState s
  | .pmbusUnsupportedCommand code => Sys2Proof.Machine.execPmbusUnsupportedCommand code s
  | .dataPlanePgAssert rail => Sys2Proof.Machine.execDataPlanePgAssert rail s
  | .lanesAligned port lanes => Sys2Proof.Machine.execLanesAligned port lanes s
  | .spareLaneLock port => Sys2Proof.Machine.execSpareLaneLock port s
  | .contextQuantumExpiry block ctx => Sys2Proof.Machine.execContextQuantumExpiry block ctx s
  | .prepareWaitExpiry key => Sys2Proof.Machine.execPrepareWaitExpiry key s
  | .managementDieFault => Sys2Proof.Machine.execManagementDieFault s
  | .standbyDieFault => Sys2Proof.Machine.execStandbyDieFault s
  | .perstNDeassert port => Sys2Proof.Machine.execPerstNDeassert port s
  | .hostLinkUp port => Sys2Proof.Machine.execHostLinkUp port s
  | .msixVectorUnmask port vector => Sys2Proof.Machine.execMsixVectorUnmask port vector s

end Sys2Proof.Machine
end

