-- ==== Sys2Proof/Safety.lean ====
section
/-!
DEFINITION. What the statements call a sound state: memory and the register file in their canonical forms.
-/
namespace Sys2Proof

open Sys2Proof.Machine

/-- The canonical form of the register file: offsets rise strictly and no entry holds its reset value. -/
def regsWf (s : State) : Bool := sparseWf (regReset s.variant) s.regs

/-- A sound state: memory and registers are in canonical form. -/
def Sound (s : State) : Prop := Memory.wf s.mem = true ∧ regsWf s = true

end Sys2Proof
end

