-- ==== Sys2Proof/Certificates/Slice0/Obligations.lean ====
section
/-!
DEFINITION. The statements for the provers, from the numbered rules of the spec.
-/
open Sys2Proof Sys2Proof.Machine

/-! ## The step -/

/-- The command at the front of the queue is carried out on the state with the queue's rest. On an empty queue the block idles: one
microsecond of local time passes (log 2). With no lane swap on any port and no request to be carried out nothing else changes; a
request that is BUSY is carried out (log 10). -/
def Obligations.StepTakesTheFront : Prop :=
  (∀ (c : Instr) (rest : List Instr) (s : State), s.pending = c :: rest → step s = exec c { s with pending := rest }) ∧
  (∀ s : State, s.pending = [] → (∀ e ∈ s.ports, e.2.swap = none) →
    (s.host.request = none → step s = .next { s with now := s.now + us 1 }) ∧
    (∀ target role, s.host.request = some (target, role) → s.host.stopping = false → configurable s = true →
      step s = .next (settle (request { s with now := s.now + us 1 } target role))))
/-- What reset leaves: RESET with PG_CTL asserted and the data plane stopped, sound and empty, and the reset values of registers
that the tables print. -/
def Obligations.ResetState : Prop :=
  Sound State.reset ∧ State.reset.mode = .reset ∧ State.reset.pins.pgCtl = true ∧ State.reset.power.gated = true ∧
  State.reset.pending = [] ∧ State.reset.queues = [] ∧ State.reset.ctxs = [] ∧ State.reset.ports = [] ∧
  (∀ a, memByte State.reset a = 0) ∧
  reg State.reset (mgBase + 0x300) = 0x003200C8 ∧ reg State.reset (mgBase + 0x400) = 0x330 ∧
  reg State.reset (mgBase + 0x200) = 0xC35 ∧ reg State.reset (epBase 0 + 0x800) = 0x08190032 ∧
  reg State.reset (epBase 31 + 0xA00) = 1 ∧ reg State.reset (ptBase 143) = 0x10000001 ∧ reg State.reset (cpBase + 8) = 0xAF0

/-! ## Power -/

/-- PG_CTL asserted in OFF, after a run that did not end with a failed clock die: the module is in RESET, or with EPO_N low in
EPO_OFF, and with FAST_SHED_N low and the rails up in the floor state; there is nothing of its contexts, queues, keys and
collectives. Host memory, accelerator memory and flash keep their bytes, and scratch windows and the harbour beyond its dump
region do not. PG_CTL deasserted: OFF at once, from any state, with every data-plane clock gated and no host link; the save key
is gone, and EPO_N counts as raised (log 214). Emergency off: whatever the state, but for OFF and EPO_OFF itself, the module
goes to EPO_OFF with its clocks gated, its lane transmitters off and DP_OFF_N low, and logs one event record; a request that was
being carried out loses, with a record of its own (R571, R575). -/
def Obligations.PowerPins : Prop :=
  (∀ s : State, s.mode = .off → clockFailed s = false →
    ∃ t, exec .pgCtlAssert s = .next t ∧ t.mode = (if s.pins.epoLow then .epoOff else .reset) ∧ t.variant = s.variant ∧
      t.pins = { s.pins with pgCtl := true } ∧ t.power.gated = true ∧ t.power.floor = (railsUp s && s.pins.shedLow) ∧
      t.queues = [] ∧ t.cmds = [] ∧ t.ctxs = [] ∧ t.groups = [] ∧ t.colls = [] ∧ t.sec.keys = [] ∧ t.sec.sessions = [] ∧
      (s.pins.epoLow = false → s.pins.shedLow = false → t.regs = []) ∧ t.pending = s.pending ∧
      (∀ a, memByte t a = if keepsByte a then memByte s a else 0) ∧
      (∀ a, keepsByte (hostAddr a) = true) ∧ (∀ b a, b < 32 → keepsByte (accAddr b a) = true) ∧ (∀ a, keepsByte (flashAddr a) = true) ∧
      (∀ d a, d < 26 → keepsByte (scratchAddr d a) = false)) ∧
  (∀ s : State, exec .pgCtlDeassert s = .next
    { s with
      mode := .off, degraded := false, pins := { s.pins with pgCtl := false, epoLow := false },
      power := { s.power with gated := true, lanesOff := true }, sec := { s.sec with saveKey := none },
      host := { s.host with answering := false, standbyReady := false, request := none, stopping := false,
                            port0 := { s.host.port0 with linkUp := false, linkGen := 0, width := 0 },
                            port1 := { s.host.port1 with linkUp := false, linkGen := 0, width := 0 } } }) ∧
  (∀ s : State, s.mode ≠ .off → s.mode ≠ .epoOff →
    ∃ t, exec .epoAssert s = .next t ∧ t.mode = .epoOff ∧ t.degraded = false ∧ t.power.gated = true ∧ t.power.lanesOff = true ∧
      t.power.dpOffLow = true ∧ t.host.eventSeq = s.host.eventSeq + (if s.host.request.isSome then 2 else 1) ∧
      t.host.request = none ∧ (s.host.request.isSome = true → t.host.reqStatus = stStateRejected ∧ t.host.reqReason = rrWrongState) ∧
      t.pins = { s.pins with epoLow := true } ∧
      t.queues = s.queues ∧ t.cmds = s.cmds ∧ t.ctxs = s.ctxs ∧ t.hb = s.hb ∧ t.age = s.age ∧ t.pending = s.pending ∧
      t.sec = (if s.mode = .service then { s.sec with saveKey := none } else s.sec) ∧
      (∀ a, spaceSize ≤ a → memByte t a = memByte s a))
/-- A FATAL-class error in BOOT, MAINT or SERVICE: the data plane stops, the cause and the state before are recorded, and the module
is in FATAL. What queues, contexts and the harbour hold stays as it was; the save key goes with SERVICE, and a request that was
being carried out loses. Firmware starts the dump in FATAL; where the dump is written, or finished in EPO_OFF, it is no longer
unwritten and the state stays. -/
def Obligations.FatalAndDump : Prop :=
  (∀ s : State, (s.mode = .boot ∨ s.mode = .maint ∨ s.mode = .service) →
    ∀ c : Instr, ∀ cause : BitVec 4,
      (c = .fatalError cause ∨ (c = .thermalTrip ∧ cause = 3) ∨ (∃ r, c = .rootPllLockLoss r ∧ cause = 2) ∨
       (∃ r, c = .dataPlanePgLoss r ∧ railGood s r = true ∧ needsRail s.variant r = true ∧ cause = 1) ∨
       (c = .managementDieFault ∧ s.host.standbyReady = false ∧ cause = 4)) →
      ∃ t, exec c s = .next t ∧ t.mode = .fatal ∧ t.power.gated = true ∧ t.power.lanesOff = true ∧ t.degraded = false ∧
        t.dump.cause = cause ∧ t.dump.stateBefore = s.mode ∧ t.dump.unwritten = true ∧
        t.queues = s.queues ∧ t.cmds = s.cmds ∧ t.ctxs = s.ctxs ∧ t.hb = s.hb ∧ t.pending = s.pending ∧
        t.sec = (if s.mode = .service then { s.sec with saveKey := none } else s.sec) ∧
        t.host.request = none ∧ (s.host.request.isSome = true → t.host.reqStatus = stStateRejected ∧ t.host.reqReason = rrWrongState)) ∧
  (∀ s : State,
    (s.mode = .fatal → ∃ t, exec .dumpStart s = .next t ∧ t.mode = .dump ∧ t.dump = s.dump ∧ t.host.eventSeq = s.host.eventSeq + 1 ∧
      t.queues = s.queues ∧ t.hb = s.hb ∧ t.pending = s.pending) ∧
    (s.dump.unwritten = true → (s.mode = .dump ∨ s.mode = .epoOff) → ∃ t, exec .dumpDone s = .next t ∧ t.mode = s.mode ∧
      t.dump.unwritten = false ∧ t.dump.cause = s.dump.cause ∧ t.power = s.power ∧ t.queues = s.queues ∧ t.pending = s.pending))
/-- A stopped module: FATAL, DUMP, EPO_OFF or OFF, with every data-plane clock gated. -/
def Sys2Proof.Stopped (s : State) : Prop :=
  (s.mode = .fatal ∨ s.mode = .dump ∨ s.mode = .epoOff ∨ s.mode = .off) ∧ s.power.gated = true

/-- A stopped module stays stopped, whatever command comes, until PG_CTL asserts in OFF: EPO_OFF is left only for OFF, DUMP only for
EPO_OFF and OFF, and OFF for nothing else. -/
def Obligations.StoppedModuleStaysStopped : Prop :=
  ∀ s t : State, Stopped s → (∀ rest, s.pending ≠ .pgCtlAssert :: rest) → step s = .next t →
    Stopped t ∧ (s.mode = .off → t.mode = .off) ∧ (s.mode = .epoOff → t.mode = .epoOff ∨ t.mode = .off) ∧
      (s.mode = .dump → t.mode = .dump ∨ t.mode = .epoOff ∨ t.mode = .off)

/-! ## Boot -/

/-- The first configuration answer: the host interface answers, the standby is ready where a standby die is there, and the data
plane starts where every rail that the variant needs is good and none was lost or late. A rail that becomes good is shown. It
starts the data plane in BOOT where it was the last one missing and the host interface answers, but never after a rail was lost
or late; where FAST_SHED_N is low the last one brings the floor state; and otherwise it changes nothing else. 500 ms of BOOT
without every power-good: one event record names the first rail that is missing, and the module stays in BOOT: a rail that comes
later starts nothing. -/
def Obligations.DataPlaneStarts : Prop :=
  (∀ s : State, s.mode = .boot → s.sec.mainOk = true →
    ∃ t, exec .configAnswerStart s = .next t ∧ t.host.answering = true ∧
      t.host.standbyReady = decide (dieState s (ordMgmt (1 - s.host.owner % 2)) = .standby) ∧
      t.power.gated = (s.power.gated && !(railsUp s && !s.power.noRestart)) ∧ t.mode = .boot ∧ t.mem = s.mem ∧ t.regs = s.regs) ∧
  (∀ (r : Rail) (s : State),
    ∃ t, exec (.dataPlanePgAssert r) s = .next t ∧ t.pins = setRail s.pins r true ∧
      (railsUp { s with pins := setRail s.pins r true } = true → s.mode = .boot → s.host.answering = true → s.power.noRestart = false →
        t.power.gated = false) ∧
      (s.power.noRestart = true → t.power.gated = s.power.gated) ∧
      (railsUp { s with pins := setRail s.pins r true } = true → s.mode ≠ .off → s.pins.shedLow = true → t.power.floor = true) ∧
      (s.mode ≠ .boot → s.pins.shedLow = false → t = { s with pins := setRail s.pins r true })) ∧
  (∀ s : State, s.mode = .boot → railsUp s = false → s.power.noRestart = false →
    ∃ r, needsRail s.variant r = true ∧ railGood s r = false ∧ exec .powerGoodBootTimeout s =
      .next (logPower (advanceTo { s with power := { s.power with noRestart := true } } (s.bootAt + us 500000)) (railCode r) 505))
/-- The root PLL locks in RESET: BOOT, with the straps sampled, the reference shown good and locked, management die 0 active unless
its self-test failed in the last boot or it has failed, and this boot's self-test result kept for the next. A loss of lock that
CP_CLK_STATUS holds stays until it is cleared. The main image of the booted slot checked: a valid one runs, M1, M2 and M3 are
extended in order and the others keep their values, and the incarnation is drawn and is not zero. Memory training on a variant
with memory dies, outside recovery: each device trains at a rate of R316 or is out of service, and the harbour has the units of
the devices in service. Boot complete: the module is in MAINT, with an event record for it, before anything that waited goes on. -/
def Obligations.BootSteps : Prop :=
  (∀ (role : BitVec 2) (ls st0 : Bool) (env : Env) (s : State), s.mode = .reset →
    ∃ t, exec (.rootPllLock role ls st0 env) s = .next t ∧ t.mode = .boot ∧ t.role = role ∧ t.lockstep = ls ∧ t.bootAt = s.now ∧
      t.sec.selfTest0 = st0 ∧ reg t (cpBase + 0x20) = (reg s (cpBase + 0x20) &&& 4) ||| 3 ∧ t.variant = s.variant ∧ t.power = s.power ∧ t.pins = s.pins ∧
      (dieState s (ordMgmt 0) ≠ .failed → t.host.owner = if s.sec.selfTest0 ∨ dieState s (ordMgmt 1) = .failed then 0 else 1)) ∧
  (∀ (dies tables : List Bytes) (s : State), s.mode = .boot → s.sec.mainOk = false → s.sec.bootSlot < 3 →
    mainImageOk s s.sec.bootSlot = true → s.sec.meas.length = 8 →
    ∃ t, exec (.mainImageCheck dies tables) s = .next t ∧ t.sec.mainOk = true ∧ t.mode = .boot ∧ reg t (glbBase + 0xC) ≠ 0 ∧
      t.sec.meas[1]? = some (sha384 (s.sec.meas.getD 1 [] ++ sha384 (measuredHeader s s.sec.bootSlot mainOffset))) ∧
      t.sec.meas[2]? = some (dies.foldl (fun m d => sha384 (m ++ sha384 d)) (s.sec.meas.getD 2 [])) ∧
      t.sec.meas[3]? = some (sha384 (s.sec.meas.getD 3 [] ++ sha384 tables.flatten)) ∧
      (∀ i, i ≠ 1 → i ≠ 2 → i ≠ 3 → t.sec.meas[i]? = s.sec.meas[i]?) ∧ t.mem = s.mem ∧ t.fresh = s.fresh + 4) ∧
  (∀ (rates : List (BitVec 6)) (s : State), s.mode = .boot → s.power.gated = false → memCount s.variant ≠ 0 → s.age.devices = [] →
    ∃ t, exec (.memoryTrainingDone rates) s = .next t ∧ t.age.devices.length = 2 * memCount s.variant ∧
      (∀ i, i < 2 * memCount s.variant → t.age.devices.getD i 0 = trainedRate (rates.getD i 0)) ∧
      (recovery s = false → t.hb.unitsTotal = unitsOfDevices s.variant (devicesIn t)) ∧ t.mode = .boot) ∧
  (∀ s : State, bootReady s = true →
    ∃ u, exec .bootComplete s = .next (settle u) ∧ u.mode = .maint ∧ u.variant = s.variant ∧ u.pending = s.pending ∧
      u.sec = s.sec ∧ (∀ a, spaceSize ≤ a → a < 256 * spaceSize → memByte u a = memByte s a) ∧
      (recovery s = false → ∀ x, dumpRegionBytes ≤ x → x < spaceSize → memByte u (harbourAddr x) = 0))
/-! ## Caps and the core set point -/

/-- The effective cap of two caps and a thermal cut, in watts. -/
def Sys2Proof.capOf (code : BitVec 4) (pmbus cut : Nat) : Nat := (4 * min (28 * (100 - 5 * code.toNat)) (if pmbus = 0 then 2800 else pmbus) - cut) / 4

/-- The fast-shed pin: with the data-plane rails up it brings the floor state with arithmetic at half rate, and its release ends the
floor state; the pin shows in both cases. The harbour writes that waited for the end of the floor state are made. CAP_CODE
sampled: a code is taken where three samples in a row agree, and CAP_W then shows the lower of the code's cap and the PMBus cap
less the thermal cut; where they do not agree the shown cap stays. Nothing changes but the samples and CP_CAP_STATE. One
millisecond of the thermal cap while the data plane runs: over 105 °C the cut grows by 175 quarters of a watt, to the whole of
the lower cap at most, at or below 100 °C it shrinks by UP_SLEW from there, and CP_CAP_STATE shows the cap that results. A
measurement of the draw: CP_POWER shows it, the draw may rise by one step of UP_SLEW or fall by one of DOWN_SLEW at most, toward
what it is held to (log 185), more issue slots are withheld while it is over that, and an overrun begins where the draw is over
the shown cap. A step of the core set point, once there is one: at most 5 mV toward what the guard band asks for, within the
clamp, and at least 100 µs after the last; memory, queues and contexts stay. -/
def Obligations.PowerSteps : Prop :=
  (∀ s : State,
    (s.mode ≠ .off → s.power.floor = false → railsUp s = true → ∃ t, exec .fastShedAssert s = .next t ∧ t.power.floor = true ∧
      t.power.arithHalf = true ∧ regBit t (cpBase + 8) 20 = true ∧ regBit t (cpBase + 0x10) 1 = true ∧ t.pins.shedLow = true ∧
      t.mode = s.mode ∧ t.mem = s.mem ∧ t.queues = s.queues ∧ t.hb = s.hb) ∧
    (s.power.floor = true → configurable s = false → ∃ t, exec .fastShedRelease s = .next t ∧ t.power.floor = false ∧
      t.power.arithHalf = false ∧ regBit t (cpBase + 8) 20 = false ∧ t.pins.shedLow = false ∧ t.mode = s.mode ∧
      t.hb.held = [] ∧ (s.hb.held = [] → t.mem = s.mem) ∧ t.queues = s.queues) ∧
    (s.power.floor = true → configurable s = true → ∃ u, u.power.floor = false ∧ u.power.arithHalf = false ∧
      regBit u (cpBase + 8) 20 = false ∧ u.pins = { s.pins with shedLow := false } ∧ u.mode = s.mode ∧ u.hb.held = [] ∧
      (s.hb.held = [] → u.mem = s.mem) ∧ u.queues = s.queues ∧
      exec .fastShedRelease s = .next (settle (resumePieces (retryPrepares (runSweeps (releasePorts (fitHarbour u)))))))) ∧
  (∀ (code : BitVec 4) (a b : BitVec 4) (l : List (BitVec 4)) (s : State), controlRuns s = true → s.power.floor = false →
    s.power.capSamples = l ++ [a, b] →
    ∃ t, exec (.capCodeSample code) s = .next t ∧ t.mem = s.mem ∧ t.mode = s.mode ∧ t.queues = s.queues ∧
      (∀ o, o ≠ cpBase + 8 → reg t o = reg s o) ∧
      (a = code ∧ b = code → capCode t = code ∧ capNow t = capOf code s.power.pmbusCap s.power.thermalCut % 4096) ∧
      (a ≠ code ∨ b ≠ code → reg t (cpBase + 8) = reg s (cpBase + 8))) ∧
  (∀ (hot : BitVec 16) (s : State), controlRuns s = true → s.power.gated = false →
    ∃ t, exec (.thermalCapStep hot) s = .next t ∧ t.mode = s.mode ∧ t.mem = s.mem ∧ t.queues = s.queues ∧
      (105 < celsius (signed 16 hot.toNat) → t.power.thermalOn = true ∧ t.power.thermalCut = min (s.power.thermalCut + 175) (4 * lowerCap s)) ∧
      (celsius (signed 16 hot.toNat) ≤ 100 → t.power.thermalOn = false ∧
        t.power.thermalCut = min s.power.thermalCut (4 * lowerCap s) - 4 * regField s (cpBase + 4) 9 0) ∧
      (s.power.floor = false → capNow t = capOf (capCode s) s.power.pmbusCap t.power.thermalCut % 4096)) ∧
  (∀ (watts : BitVec 12) (s : State), controlRuns s = true →
    ∃ t, exec (.powerMeasure watts) s = .next t ∧ reg t (cpBase + 0xC) = BitVec.ofNat 32 watts.toNat ∧ t.mode = s.mode ∧
      t.queues = s.queues ∧ t.cmds = s.cmds ∧ t.hb = s.hb ∧
      (s.power.floor = false → 100 * watts.toNat ≤ heldTo s → t.power.ceiling ≤ 100 * watts.toNat + upStep s ∧ t.power.ceiling ≤ heldTo s) ∧
      (s.power.floor = false → heldTo s < 100 * watts.toNat → 100 * watts.toNat ≤ t.power.ceiling + downStep s) ∧
      (t.power.ceiling < 100 * watts.toNat → t.power.withheld ≤ 64 ∧ (s.power.withheld < 64 → s.power.withheld < t.power.withheld)) ∧
      (s.power.overrunSince = none → t.power.overrunSince = (if capNow s < watts.toNat then some s.now else none) ∧ t.mem = s.mem)) ∧
  (∀ s : State, controlRuns s = true → regField s (cpBase + 0x24) 9 0 ≠ 0 → (clampMv (wantedMv s)).toNat < 1024 →
    ∃ t, exec .coreVsetStep s = .next t ∧ t.mem = s.mem ∧ t.queues = s.queues ∧ t.mode = s.mode ∧
      (let cur := regField s (cpBase + 0x24) 9 0
       let want := (clampMv (wantedMv s)).toNat
       regField t (cpBase + 0x24) 9 0 = (if cur < want then min (cur + 5) want else max (cur - 5) want)) ∧
      (regField s (cpBase + 0x24) 9 0 ≠ (clampMv (wantedMv s)).toNat → s.power.lastVsetAt + us 100 ≤ t.now))
/-! ## PMBus -/

/-- The PMBus target while the control plane is powered: each command answers or stores as R516 gives, and nothing else changes. -/
def Obligations.PmbusCommands : Prop :=
  ∀ s : State, s.mode ≠ .off →
    exec .clearFaults s = .next { s with power := { s.power with cml := false } } ∧
    exec .statusWord s = .next (pmbAnswer s (toLe 2 (pmbStatus s))) ∧
    (∀ v, hottest s = some v → exec .readTemperature1 s = .next (pmbAnswer s (toLe 2 (linear11 16 0 (celsius v))))) ∧
    (hottest s = none → ∃ x : Nat, exec .readTemperature1 s = .next (pmbAnswer { s with fresh := s.fresh + 1 } (toLe 2 x))) ∧
    exec .readPin s = .next (pmbAnswer s (toLe 2 (linear11 16 0 (regField s (cpBase + 0xC) 11 0 : Nat)))) ∧
    exec .pmbusRevision s = .next (pmbAnswer s [0x44]) ∧
    exec (.mfrPowerCap none) s = .next (pmbAnswer s (toLe 2 (linear11 16 0 (s.power.pmbusCap : Nat)))) ∧
    (∀ w, s.power.floor = false → ∃ t, exec (.mfrPowerCap (some w)) s = .next t ∧ t.power.pmbusCap = pmbusTaken (linearValue w) ∧
      capNow t = capOf (capCode s) (pmbusTaken (linearValue w)) s.power.thermalCut % 4096 ∧ t.mem = s.mem ∧
      (∀ o, o ≠ cpBase + 8 → reg t o = reg s o)) ∧
    exec .mfrCapState s = .next (pmbAnswer s (toLe 2 (regField s (cpBase + 8) 15 0))) ∧
    (∀ code : Byte, code ∉ ([0x03, 0x79, 0x8D, 0x97, 0x98, 0xD0, 0xD1] : List Byte) →
      exec (.pmbusUnsupportedCommand code) s = .next { s with power := { s.power with cml := true } })
/-! ## The host ports -/

/-! ## BAR0 and BAR2 -/

/-- A write of four aligned bytes in MAINT or SERVICE to a register of the GLB, CP, HB, XB or MEM block that takes the value: rw
fields take it, w1c bits written 1 clear, every other bit and every other register stay. What may go on after the write is
`settle`. A write that the register refuses, or to a register that only MAINT writes while the module is in SERVICE: discarded,
with one event record, and every register outside the event ring's own stays. -/
def Obligations.RegisterWrites : Prop :=
  (∀ (off : Nat) (v : Word) (r : RegSpec) (b : Blk) (i o : Nat) (s : State), configurable s = true → off % 4 = 0 → off < bar0Bytes →
    liveReg s off = some r → blkOf off = some (b, i, o) → (b = .glb ∨ b = .cp ∨ b = .hb ∨ b = .xb ∨ b = .mem) → r.half = .single →
    (r.maint = true → s.mode = .maint) → valueOk s b o v = true →
    ∃ u, exec (.registerWrite off (toLe 4 v.toNat)) s = .next (settle u) ∧
      reg u off = ((reg s off &&& ~~~r.rw &&& ~~~(v &&& r.w1c)) ||| (v &&& r.rw)) ∧
      (∀ o', o' ≠ off → reg u o' = reg s o') ∧ u.mem = s.mem ∧ u.mode = s.mode ∧ u.queues = s.queues ∧ u.out = s.out ∧ u.host = s.host) ∧
  (∀ (off : Nat) (v : Word) (r : RegSpec) (b : Blk) (i o : Nat) (s : State), configurable s = true → off % 4 = 0 → off < bar0Bytes →
    liveReg s off = some r → blkOf off = some (b, i, o) → ((r.maint = true ∧ s.mode = .service) ∨ valueOk s b o v = false) →
    ∃ u, exec (.registerWrite off (toLe 4 v.toNat)) s = .next (settle u) ∧ u = logRegWrite s off v.toNat ∧
      u.host.eventSeq = s.host.eventSeq + 1 ∧ u.mode = s.mode ∧ u.queues = s.queues ∧ u.ports = s.ports ∧ u.hb = s.hb ∧
      (∀ o', o' ≠ mgBase + 0x1C → o' ≠ mgBase + 0x24 → o' ≠ mgBase + 0x28 → reg u o' = reg s o'))
/-- An aligned read of four bytes of a register that is served: it answers the register's value and clears the rc fields; a second
read at once answers those fields as zero. No other register changes. A read of _LO latches _HI: the next read of _HI answers
what _HI held when _LO was read, whatever _HI reads by then. -/
def Obligations.RegisterReads : Prop :=
  (∀ (off : Nat) (r : RegSpec) (s : State), off % 4 = 0 → off < bar0Bytes → controlRuns s = true → readsNow s off = true →
    liveReg s off = some r → r.half = .single →
    ∃ t, exec (.counterReadClear off 4) s = .next t ∧ t.out = s.out ++ [.regRead off (regValue s off)] ∧
      reg t off = reg s off &&& ~~~r.rc ∧ (∀ o, o ≠ off → reg t o = reg s o) ∧ t.mem = s.mem ∧ t.mode = s.mode ∧ t.host = s.host) ∧
  (∀ (off : Nat) (r q : RegSpec) (s : State), off % 4 = 0 → off + 4 < bar0Bytes → controlRuns s = true → readsNow s off = true →
    readsNow s (off + 4) = true → liveReg s off = some r → r.half = .lo → liveReg s (off + 4) = some q → q.half = .hi →
    ∃ t, exec (.pairLoRead off 4) s = .next t ∧ t.out = s.out ++ [.regRead off (regValue s off)] ∧
      ∀ u : State, u.host.hiLatch = t.host.hiLatch → u.variant = s.variant → u.mode = s.mode → liveReg u (off + 4) = some q →
        readsNow u (off + 4) = true → (readWord u (off + 4)).1 = regValue s (off + 4))
/-- An access beyond the 256 MiB of BAR0, or beyond the 64 GiB of BAR2, is the one fault of the model (log 147). BAR2 in MAINT with
a harbour: a read answers the bytes of the window; in any other state the access is an Unsupported Request, and nothing changes.
A write reaches the harbour alone, and in the floor state it waits. -/
def Obligations.BarLimits : Prop :=
  (∀ (off n : Nat) (d : Bytes) (s : State),
    (bar0Bytes ≤ off → exec (.registerWrite off d) s = .fault (.outsideBar off) ∧
      exec (.counterReadClear off n) s = .fault (.outsideBar off) ∧ exec (.pairLoRead off n) s = .fault (.outsideBar off)) ∧
    (bar2Bytes < off + n → exec (.bar2Access off n none) s = .fault (.outsideBar off)) ∧
    (bar2Bytes < off + d.length → exec (.bar2Access off 0 (some d)) s = .fault (.outsideBar off))) ∧
  (∀ (off len : Nat) (s : State), off + len ≤ bar2Bytes → controlRuns s = true →
    (s.mode = .maint → memCount s.variant ≠ 0 →
      exec (.bar2Access off len none) s = .next (emit s (.bar2 (bar2Read s (windowBase s + off) len)))) ∧
    (s.mode ≠ .maint → exec (.bar2Access off len none) s = .next (emit s (.unsupported s.host.owner))) ∧
    (∀ d : Bytes, off + d.length ≤ bar2Bytes → s.mode = .maint → memCount s.variant ≠ 0 → ∃ t,
      exec (.bar2Access off len (some d)) s = .next t ∧ t.mode = s.mode ∧ t.regs = s.regs ∧ (s.power.floor = true → t.mem = s.mem) ∧
      (∀ a, (a < harbourAddr 0 ∨ harbourAddr 0 + spaceSize ≤ a) → memByte t a = memByte s a)))
/-! ## Requests for a module state -/

/-- A request to enter MAINT: rejected where tenant state is left or the module is degraded; otherwise the queues are disabled, and
once none is left the module is in MAINT with outcome OK, and the save-record key is gone; until then the request stays BUSY
(log 10). A request with a reserved target ends with PROTOCOL and changes no state. A plain write of MG_STATE_REQ with GO makes
the request, BUSY reads 1, and while it does a further write is discarded with a record. A request to leave MAINT: the first
check of R576 that fails rejects it with its reason, and the module stays as it was but for the outcome and the record; where
every check passes the module is in SERVICE with outcome OK. BUSY is clear in both cases. What rejects a request to leave MAINT,
by rule: a role other than the strapped one, a reserved strap, and a feature accepted that was not offered. -/
def Obligations.MaintRequests : Prop :=
  (∀ (role : BitVec 2) (s : State), configurable s = true →
    (s.host.request.isSome = true →
      exec (.enterMaintRequest role) s = .next (settle (logRegWrite s (mgBase + 4) (257 + 16 * role.toNat)))) ∧
    (s.host.request = some (1, role) → s.host.stopping = true → s.queues = [] → (carryOut s).mode = .maint ∧
      (carryOut s).host.reqStatus = stOk ∧ (carryOut s).host.reqReason = 0 ∧ (carryOut s).host.request = none ∧
      (carryOut s).sec.saveKey = none ∧ (carryOut s).ls.state = .off) ∧
    (∀ r, s.host.request = none → liveReg s (mgBase + 4) = some r → r.maint = false → r.half = .single → ∃ u,
      exec (.registerWrite (mgBase + 4) (toLe 4 (257 + 16 * role.toNat))) s = .next (settle u) ∧ u.host.request = some (1, role) ∧
      (mgState u).getLsbD 9 = true ∧ u.mode = s.mode ∧ u.queues = s.queues ∧ u.mem = s.mem) ∧
    (s.host.request = none →
    (∀ why, maintRefusal s = some why → ∃ u, exec (.enterMaintRequest role) s = .next (settle u) ∧ u.mode = s.mode ∧
      u.host.reqStatus = stStateRejected ∧ u.host.reqReason = why ∧ u.queues = s.queues ∧ u.sec = s.sec) ∧
    (maintRefusal s = none → ∃ u, exec (.enterMaintRequest role) s = .next (settle u) ∧
      ((u.mode = .maint ∧ u.host.reqStatus = stOk ∧ u.host.reqReason = 0 ∧ u.host.request = none ∧ u.sec.saveKey = none ∧
        u.ls.state = .off) ∨ (s.queues ≠ [] ∧ u.queues ≠ [] ∧ u.host.stopping = true))) ∧
    (∀ target : BitVec 4, target ≠ 1 → target ≠ 2 → ∃ u, exec (.stateReqReservedTarget target role) s = .next (settle u) ∧
      u.mode = s.mode ∧ u.host.reqStatus = stProtocol ∧ u.host.reqReason = 0 ∧ u.queues = s.queues ∧ u.sec = s.sec ∧ u.mem = s.mem))) ∧
  (∀ (role : BitVec 2) (s : State), configurable s = true → s.host.request = none → reg s (mgBase + 4) = BitVec.ofNat 32 (2 + 16 * role.toNat) →
    (∀ why, serviceRefusal s role = some why → ∃ u, exec (.leaveMaintRequest role {}) s = .next (settle u) ∧ u.mode = s.mode ∧
      u.host.reqStatus = stStateRejected ∧ u.host.reqReason = why ∧ u.host.request = none ∧ u.queues = s.queues ∧ u.sec = s.sec ∧
      u.gens = s.gens) ∧
    (serviceRefusal s role = none → ∃ u, exec (.leaveMaintRequest role {}) s = .next (settle u) ∧ u.mode = .service ∧
      u.host.reqStatus = stOk ∧ u.host.reqReason = 0 ∧ u.host.request = none ∧ u.sec.saveKey.isSome)) ∧
  (∀ (role : BitVec 2) (s : State), s.mode = .maint → recovery s = false →
    (2 ≤ s.role.toNat → serviceRefusal s role = some rrRoleReserved) ∧
    (s.role.toNat < 2 → role ≠ s.role → serviceRefusal s role = some rrRoleMismatch) ∧
    (s.role.toNat < 2 → role = s.role → ∀ i, i < 128 → accepted s i = true → offered s i = false → serviceRefusal s role = some rrNotOffered))
/-! ## Registers that start something -/

/-! ## Ports and halyards under the driver's hand -/

/-- RETRAIN, RELEASE and PT_CFG. A port that is not UP trains anew on RETRAIN where it is enabled with a ready cable and 4 usable
lanes, and one in QUARANTINE only records the cause; RELEASE takes QUARANTINE alone to TRAINING, with the LINK_INIT that came in
it; a PT_CFG value that a rule refuses is discarded, ENABLE 0 takes the port DOWN with cause DISABLED, and ENABLE 1 starts
training or the cable's bring-up. A halyard's ENABLE written 1: ACTIVE with the entry as written where every condition of R372
holds, and otherwise ENABLE 0 and STATE REFUSED with a record; written 0: ENABLE 0 and STATE 0. No other halyard changes. -/
def Obligations.PortAndHalyardControl : Prop :=
  (∀ (p : Nat) (v : Word) (s : State), configurable s = true →
    ((portOf s p).state = .down ∨ (portOf s p).state = .training →
      s.power.gated = false → portEnabled s p = true → (portOf s p).cable = .ready → 4 ≤ laneCount (usableLanes (portOf s p)) →
      ∃ u, exec (.retrain p) s = .next (settle u) ∧ (portOf u p).state = .training ∧ (portOf u p).cause = caRetrain ∧
        (portOf u p).trainingAt = s.now ∧ (∀ q, q ≠ p → portOf u q = portOf s q) ∧ u.regs = s.regs ∧ u.mem = s.mem ∧ u.mode = s.mode) ∧
    ((portOf s p).state = .quarantine →
      exec (.retrain p) s = .next (settle (setPort s p { portOf s p with cause := caRetrain }))) ∧
    ((portOf s p).state = .quarantine → ∃ t, exec (.release p) s = .next t ∧ (portOf t p).state = .training ∧
      (portOf t p).trainingAt = s.now ∧ (portOf t p).peerInit = (portOf s p).peerInit ∧ (∀ q, q ≠ p → portOf t q = portOf s q) ∧
      t.regs = s.regs ∧ t.mem = s.mem ∧ t.mode = s.mode) ∧
    ((portOf s p).state ≠ .quarantine → exec (.release p) s = .next s) ∧
    (portCfgOk s p v = false → exec (.portEnableWrite p v) s = .next (settle (logRegWrite s (ptBase p) v.toNat))) ∧
    (portCfgOk s p v = true → v.getLsbD 0 = false → (portOf s p).state ≠ .up →
      ∃ u, exec (.portEnableWrite p v) s = .next (settle u) ∧ (portOf u p).state = .down ∧ (portOf u p).cause = caDisabled ∧
        reg u (ptBase p) = v &&& 0xFF000003 ∧ (∀ q, q ≠ p → portOf u q = portOf s q) ∧ (∀ o, o ≠ ptBase p → reg u o = reg s o)) ∧
    (portCfgOk s p v = true → v.getLsbD 0 = true → s.power.gated = false → (portOf s p).state = .down →
      ((portOf s p).cable = .ready → 4 ≤ laneCount (usableLanes (portOf s p)) → ∃ u, exec (.portEnableWrite p v) s = .next (settle u) ∧
        (portOf u p).state = .training ∧ reg u (ptBase p) = v &&& 0xFF000003 ∧ (∀ q, q ≠ p → portOf u q = portOf s q)) ∧
      ((portOf s p).cable = .absent → (portOf s p).present = true → ∃ u, exec (.portEnableWrite p v) s = .next (settle u) ∧
        (portOf u p).state = .down ∧ (portOf u p).cable = .waitLowPwr ∧ u.out = s.out ++ [.sideband p sbReleaseReset]))) ∧
  (∀ (h : Nat) (cfg : Word) (s : State), configurable s = true → recovery s = false → h < 4096 →
    (regBit s (halyardOff h) 31 = false →
      (mayAdmit (setReg s (halyardOff h) (cfg &&& 0x47FFFFFF)) h = true → ∃ t, exec (.halyardEnable h cfg) s = .next t ∧
        reg t (halyardOff h) = (cfg &&& 0x47FFFFFF) ||| 0x80000000 ∧ reg t (halyardOff h + 8) = 1 ∧ t.mem = s.mem ∧ t.switch = s.switch ∧
        (∀ o, o ≠ halyardOff h → o ≠ halyardOff h + 8 → reg t o = reg s o)) ∧
      (mayAdmit (setReg s (halyardOff h) (cfg &&& 0x47FFFFFF)) h = false → ∃ t, exec (.halyardEnable h cfg) s = .next t ∧
        reg t (halyardOff h) = cfg &&& 0x47FFFFFF ∧ reg t (halyardOff h + 8) = 3 ∧ t.host.eventSeq = s.host.eventSeq + 1 ∧
        t.switch = s.switch ∧ t.queues = s.queues)) ∧
    (regBit s (halyardOff h) 31 = true → (∀ w ∈ s.switch.watches, w.1 ≠ h) → ∃ t, exec (.halyardClear h) s = .next t ∧
      regBit t (halyardOff h) 31 = false ∧ reg t (halyardOff h + 8) = 0 ∧ t.mem = s.mem ∧ t.cmds = s.cmds ∧
      (∀ o, o ≠ halyardOff h → o ≠ halyardOff h + 8 → reg t o = reg s o)))
/-- ARM in MAINT or SERVICE reads 1 until an error is injected; outside them the write is discarded with a record. The injected
residue error fires on the accumulator that an armed die updates next: the residue that it carries into that update is one too
high, ARM reads 0, and nothing else changes. With no update awaited, ARM waits. EP_RLC_CFG written in MAINT: CACHE_EN takes the
value and the block's lines of its die's cache are gone. The event ring: EVENT_RING_ENABLE in MAINT stores _LO with ENABLE and
_HI. A ring that was off starts with PROD and CONS at 0, and one that was on goes on; memory, queues and the module state stay.
In SERVICE both writes are discarded, each with a record. -/
def Obligations.WritesThatStart : Prop :=
  (∀ (d : Nat) (s : State), d < ariCount s.variant → liveReg s (ariBase d + 0x414) ≠ none →
    (configurable s = true → ∃ u, exec (.arm d) s = .next (settle u) ∧ reg u (ariBase d + 0x414) = 1 ∧
      (∀ o, o ≠ ariBase d + 0x414 → reg u o = reg s o) ∧ u.mem = s.mem ∧ u.colls = s.colls ∧ u.mode = s.mode) ∧
    (configurable s = false → controlRuns s = true → exec (.arm d) s = .next (logRegWrite s (ariBase d + 0x414) 1))) ∧
  (∀ (d : Nat) (s : State), s.mode = .service →
    (∀ (k : CollKey) (n first i : Nat), armedTarget s d = some (k, n, first, i) →
      ∃ t, exec (.residueInjectFire d) s = .next t ∧
        t.colls = (updPiece s k n first (fun q => { q with accs := inject q.accs i })).colls ∧
        (∀ (l : List Acc) (a : Acc), l[i]? = some a → inject l i = l.set i { a with residue := residueAdd a.residue 1 }) ∧
        regBit t (ariBase d + 0x414) 0 = false ∧ (∀ o, o ≠ ariBase d + 0x414 → reg t o = reg s o) ∧
        t.mem = s.mem ∧ t.out = s.out ∧ t.mode = s.mode ∧ t.queues = s.queues) ∧
    (armedTarget s d = none → exec (.residueInjectFire d) s = .next s)) ∧
  (∀ (b : Nat) (v : Word) (r : RegSpec) (s : State), b < 32 → s.mode = .maint → liveReg s (epBase b + 0xA00) = some r → r.rw = 1 → r.w1c = 0 →
    r.half = .single →
    ∃ u, exec (.cacheEnWrite b v) s = .next (settle u) ∧ regBit u (epBase b + 0xA00) 0 = v.getLsbD 0 ∧
      (∀ l ∈ u.cache, l ∈ s.cache ∧ ¬(l.die = epDie s b ∧ (∃ x, ((b, l.ctx), x) ∈ s.ctxBlocks))) ∧ u.mem = s.mem ∧ u.queues = s.queues) ∧
  (∀ (lo hi : Word) (s : State),
    (s.mode = .maint → regBit s (mgBase + 0x14) 0 = false → ∃ v, exec (.eventRingEnable lo hi) s = .next (settle v) ∧
      regBit v (mgBase + 0x14) 0 = true ∧ reg v (mgBase + 0x1C) = 0 ∧ reg v (mgBase + 0x20) = 0 ∧ v.mem = s.mem ∧ v.queues = s.queues ∧
      v.mode = s.mode) ∧
    (s.mode = .maint → regBit s (mgBase + 0x14) 0 = true → ∃ v, exec (.eventRingEnable lo hi) s = .next (settle v) ∧
      regBit v (mgBase + 0x14) 0 = true ∧ reg v (mgBase + 0x1C) = reg s (mgBase + 0x1C) ∧ reg v (mgBase + 0x20) = reg s (mgBase + 0x20) ∧
      v.mem = s.mem ∧ v.queues = s.queues ∧ v.mode = s.mode) ∧
    (s.mode = .service → ∃ v, exec (.eventRingEnable lo hi) s = .next (settle v) ∧ v.host.eventSeq = s.host.eventSeq + 2 ∧
      reg v (mgBase + 0x14) = reg s (mgBase + 0x14) ∧ reg v (mgBase + 0x18) = reg s (mgBase + 0x18) ∧ v.queues = s.queues))
/-! ## The mailbox and firmware updates -/

/-- A write of SEC_MBOX_TAIL in MAINT or SERVICE, after what the host stored before it: taken where the ring has room for it, else
discarded with a count and a record. The next request of the mailbox: with the mailbox enabled, nothing forwarded and a request
there, one that cannot be read or is malformed is answered PROTOCOL (a read that failed is counted in the port's AER registers,
R567), and one for this module is handled and its answer stored; HEAD moves on by one slot. -/
def Obligations.MailboxRing : Prop :=
  (∀ (index : BitVec 16) (env : Env) (s : State), configurable s = true →
    ∃ t, exec (.mboxTailWrite index env) s = .next t ∧ t.mode = s.mode ∧ t.queues = s.queues ∧ t.sec = s.sec ∧
      ((index.toNat + 65536 - regField s (secBase + 0x14) 15 0) % 65536 ≤ mboxSize s →
        reg t (secBase + 0x10) = BitVec.ofNat 32 index.toNat ∧ (∀ o, o ≠ secBase + 0x10 → reg t o = reg s o) ∧ t.mem = (applyEnv s env).mem) ∧
      (mboxSize s < (index.toNat + 65536 - regField s (secBase + 0x14) 15 0) % 65536 →
        reg t (secBase + 0x10) = reg s (secBase + 0x10) ∧
        reg t (secBase + 0x34) = (if reg s (secBase + 0x34) = 0xFFFFFFFF then 0xFFFFFFFF else reg s (secBase + 0x34) + 1) ∧
        t.host.eventSeq = s.host.eventSeq + 1)) ∧
  (∀ (r : Bytes) (s : State), configurable s = true → regBit s (secBase + 4) 31 = true → s.sec.forwards = [] →
    regField s (secBase + 0x10) 15 0 ≠ regField s (secBase + 0x14) 15 0 →
    (let slot := regField s (secBase + 0x14) 15 0 % mboxSize s
     let read := hostRead s (pairBase s (secBase + 8) (secBase + 0xC) 12 + slot * 4096) 2048
     let n := fieldAt r 10 2
     ((∃ e, read = .error e) →
        ∃ u, exec .mailboxRequest s = .next (settle (answerMailbox u slot stProtocol [])) ∧ u.sec = s.sec ∧ u.regs = s.regs ∧ u.mem = s.mem ∧
          (hostLinkOk s = true → (hostPort u s.host.owner).aerCount = (hostPort s s.host.owner).aerCount + 1)) ∧
     ((read = .ok r ∧ (2 ≤ (byteAt r 2).toNat ∨ n < 16 ∨ 2040 < n)) →
        ∃ u, exec .mailboxRequest s = .next (settle u) ∧ u = answerMailbox s slot stProtocol [] ∧
          regField u (secBase + 0x14) 15 0 = (regField s (secBase + 0x14) 15 0 + 1) % 65536 ∧ u.sec = s.sec) ∧
     (read = .ok r → byteAt r 2 = 0 → allZero (slice r 3 5) = true → 16 ≤ n → n ≤ 2040 →
        exec .mailboxRequest s = .next (settle
          (answerMailbox (handleEnsign s (slice r 8 n)).1 slot stOk (handleEnsign s (slice r 8 n)).2)))))
/-- START of a firmware update in MAINT or SERVICE, after what the host stored: the image is read and checked and RESULT says how it
went; FIRMWARE_PROGRAM_DONE then leaves the image in the target slot where the flash took it. -/
def Obligations.FirmwareUpdate : Prop :=
  ∀ (env : Env) (image : Bytes) (ok : Bool) (s : State), configurable s = true →
    (let s1 := applyEnv s env
     let n := regField s (secBase + 0x2C) 25 0
     let read := hostRead s1 (pairBase s (secBase + 0x24) (secBase + 0x28) 12) n
     s.sec.fwResult ≠ fwBusyCode → ∃ t, exec (.start env) s = .next t ∧ t.mem = s1.mem ∧ t.regs = s.regs ∧ t.mode = s.mode ∧
       (slotBytes < n → t.sec.fwResult = 3) ∧
       (n ≤ slotBytes → (∀ e, read = .error e → t.sec.fwResult = fwAborted) ∧
         (read = .ok image → (∀ f, imageFail s1 (image.take mainOffset) 1 (min n mainOffset) = some f → t.sec.fwResult = fwFailCode f) ∧
           (imageFail s1 (image.take mainOffset) 1 (min n mainOffset) = none →
             (∀ f, imageFail s1 (image.drop mainOffset) 2 (n - mainOffset) = some f → t.sec.fwResult = fwFailCode f) ∧
             (imageFail s1 (image.drop mainOffset) 2 (n - mainOffset) = none → t.sec.fwResult = fwBusyCode ∧ t.sec.fwImage = image))))) ∧
    (s.sec.fwResult = fwBusyCode → ∃ t, exec (.firmwareProgramDone ok) s = .next t ∧ t.regs = s.regs ∧ t.mode = s.mode ∧
      t.sec.fwResult = (if ok = true ∧ s.age.degraded.getLsbD 7 = false then fwOkCode else fwFlashError) ∧
      (∀ a, memByte t a = if ok = true ∧ flashAddr (slotAt s.sec.fwTarget) ≤ a ∧ a < flashAddr (slotAt s.sec.fwTarget) + s.sec.fwImage.length
        then byteAt s.sec.fwImage (a - flashAddr (slotAt s.sec.fwTarget)) else memByte s a))

/-- NEXT and CONFIRM: the boot control record that governs afterwards names the target slot, unconfirmed with three tries, or the
booted slot as confirmed with the tries that it had; its generation is one higher, and the fuses are blown up to the image's
SVN. -/
def Obligations.BootRecordGoverns : Prop :=
  ∀ s : State, configurable s = true → (governing s).generation + 1 < 2 ^ 64 →
    (s.sec.fwResult = fwOkCode → s.sec.fwTarget < 2 → ∃ t, exec .next s = .next t ∧ (governing t).active = s.sec.fwTarget ∧
      (governing t).confirmed = 0 ∧ (governing t).tries = 3 ∧ (governing t).generation = (governing s).generation + 1 ∧
      (∀ a, (a < bootRecAt 0 ∨ bootRecAt 1 + 32 ≤ a) → memByte t a = memByte s a) ∧ t.sec = s.sec ∧ t.regs = s.regs) ∧
    (s.sec.confirmed = false → s.sec.bootSlot < 2 → ∃ t, exec .confirm s = .next t ∧ (governing t).active = s.sec.bootSlot ∧
      (governing t).confirmed = 1 ∧ (governing t).tries = (governing s).tries ∧ (governing t).generation = (governing s).generation + 1 ∧
      t.sec.confirmed = true ∧ t.sec.fusesBlown = max s.sec.fusesBlown s.sec.svn.toNat ∧ t.regs = s.regs)

/-! ## The planner and takeover -/

/-- A planner run, by RUN or after 15 minutes: while a swap is in progress it is due later, and RUN reads 1 until then; otherwise,
with nothing worn but slack that G can still mend, and no swap waiting, G moves as R530 gives from the lowest slack and SRAM
margins, LAST_ACTION says how, and the inputs start afresh. -/
def Obligations.PlannerRuns : Prop :=
  ∀ (c : Instr) (s : State), (c = .run ∨ c = .plannerPeriod) → configurable s = true → recovery s = false →
    (let slack := lowestOf s (fun n => decide (monKind n = 3))
     let sram := lowestOf s (fun n => decide (monKind n = 4))
     let due : State := { s with age := { s.age with runDue := true } }
     (swapRuns s = true → exec c s = .next (settle (if c = .run then setRegField due (mgBase + 0x604) 0 0 1 else due))) ∧
     (swapRuns s = false → s.age.swapQueue = [] → (∀ e ∈ s.age.lowest, 0 ≤ marginOf (monKind (keyMon e.1).1) e.2 ∨
         (monKind (keyMon e.1).1 = 3 ∧ guardMv s ≠ 25 ∧ heldAtClamp s = false)) →
       ∃ u, exec c s = .next (settle u) ∧ u.age.lowest = [] ∧ u.age.runDue = false ∧ u.mode = s.mode ∧ u.mem = s.mem ∧ u.ports = s.ports ∧
         (∀ o, o ≠ mgBase + 0x600 → o ≠ mgBase + 0x604 → reg u o = reg s o) ∧ regBit u (mgBase + 0x604) 0 = false ∧
         regBit u (mgBase + 0x604) 1 = regBit s (mgBase + 0x604) 1 ∧
         (regBit s (mgBase + 0x604) 1 = true → guardMv u = guardMv s ∧ regField u (mgBase + 0x600) 11 8 = 4) ∧
         (regBit s (mgBase + 0x604) 1 = false →
           (∀ x, slack = some x → x < 20 → guardMv s < 25 → guardMv u = guardMv s + 5 ∧ regField u (mgBase + 0x600) 11 8 = 1) ∧
           (∀ x y, slack = some x → sram = some y → 40 ≤ x → 40 ≤ y → -25 < guardMv s →
             guardMv u = guardMv s - 5 ∧ regField u (mgBase + 0x600) 11 8 = 2) ∧
           (∀ x, slack = some x → 20 ≤ x → x < 40 → guardMv u = guardMv s ∧ regField u (mgBase + 0x600) 11 8 = 0))))

/-- An MSI-X vector unmasked: a message that waits for it is sent where the port is the owner's and its link carries traffic, and it
no longer waits; a vector with nothing waiting only becomes unmasked. The standby window of BAR4: an entry written whole in the
standby's table reads back as written, and after a takeover, until the old die stands by again, the window changes nothing.
Events of the two host ports: PERST resets that function alone; a link that comes up needs its port out of reset and a
management die that runs, and trains to one of the generations and widths of R564 (free values); a link that leaves L0 fails the
test of a standby die, and the owner's leaves the state as it is but for one record; a read without a completion within 10 ms
takes the ABORT column once and is counted; a memory request on the standby port is an Unsupported Request. The other port,
memory and registers stay, but for the record of the owner's link. A takeover, by the driver or because the heartbeat or the
active die is lost, while the standby is ready: the other die owns the module, the old owner's link is down, the standby is no
longer ready, a firmware update is cut off, and a new owner without a link leaves the host-port kind degraded. Where no halyard
ends at the old die, contexts, queues, ports and collectives stay. Without a ready standby the driver's request is discarded
with a record. -/
def Obligations.HostPorts : Prop :=
  (∀ (port v : Nat) (e : MsixEntry) (s : State), port < 2 → Tab.get? (hostPort s port).table v = some e →
    ∃ t, exec (.msixVectorUnmask port v) s = .next t ∧ Tab.get? (hostPort t port).table v = some { e with masked := false } ∧
      v ∉ (hostPort t port).waiting ∧ hostPort t (1 - port) = hostPort s (1 - port) ∧ t.mem = s.mem ∧ t.regs = s.regs ∧
      t.out = s.out ++ (if v ∈ (hostPort s port).waiting ∧ port = s.host.owner ∧ hostLinkOk s = true
        then [.msix port v e.addr e.data] else [])) ∧
  (∀ (v : Nat) (e : MsixEntry) (s : State), v < 2048 → s.host.owner < 2 → controlRuns s = true → s.host.answering = true →
    (s.host.standbyReady = true ∨ s.host.ownerCause = 0 → ∃ t, exec (.standbyMsixWrite (standbyAt + 16 * v) (msixBytes e)) s = .next t ∧
      Tab.get? (hostPort t (1 - s.host.owner)).table v = some e ∧ hostPort t s.host.owner = hostPort s s.host.owner ∧
      (∀ w, w ≠ v → Tab.get? (hostPort t (1 - s.host.owner)).table w = Tab.get? (hostPort s (1 - s.host.owner)).table w) ∧
      t.mem = s.mem ∧ t.regs = s.regs ∧ t.out = s.out) ∧
    (s.host.standbyReady = false → s.host.ownerCause ≠ 0 → exec (.standbyMsixWrite (standbyAt + 16 * v) (msixBytes e)) s = .next s)) ∧
  (∀ (port : Nat) (s : State), port < 2 →
    ((hostPort s port).perst = false → s.host.owner = port → controlRuns s = true → ∃ t, exec (.perstNAssert port) s = .next t ∧
      (hostPort t port).perst = true ∧ (hostPort t port).linkUp = false ∧ (hostPort t port).table = [] ∧
      hostPort t (1 - port) = hostPort s (1 - port) ∧ t.host.eventSeq = s.host.eventSeq + 1 ∧ t.mode = s.mode ∧ t.queues = s.queues ∧
      t.mem = s.mem) ∧
    ((hostPort s port).perst = false → s.host.owner ≠ port →
      exec (.perstNAssert port) s = .next (setHostPort s port HostPort.blank)) ∧
    exec (.perstNDeassert port) s = .next (setHostPort s port { hostPort s port with perst := false }) ∧
    ((hostPort s port).linkUp = true → ∃ t, exec (.hostLinkLoss port) s = .next t ∧ (hostPort t port).linkUp = false ∧
      (hostPort t port).table = (hostPort s port).table ∧ t.mode = s.mode ∧
      (standsBy s .mgmt port = false ∨ controlRuns s = false → t.queues = s.queues) ∧
      (s.host.owner = port → controlRuns s = true → t.host.eventSeq = s.host.eventSeq + 1 ∧ t.degraded = s.degraded ∧ t.age = s.age) ∧
      (s.host.owner ≠ port → standsBy s .mgmt port = true → controlRuns s = true → t.host.standbyReady = false ∧ dieState t (ordMgmt port) = .spareFailed ∧
        t.age.hostPortBad = true)) ∧
    (controlRuns s = true → (hostPort s port).perst = false →
      (dieState s (ordMgmt port) = .active ∨ dieState s (ordMgmt port) = .standby) →
      ∃ gen width, 1 ≤ gen ∧ gen ≤ 6 ∧ width ∈ [1, 2, 4, 8] ∧ exec (.hostLinkUp port) s =
        .next (setHostPort { s with fresh := s.fresh + 1 } port { hostPort s port with linkUp := true, linkGen := gen, width := width })) ∧
    (controlRuns s = true → s.host.owner ≠ port → exec (.nonOwnerMemoryRequest port) s = .next (emit s (.unsupported port))) ∧
    (∀ addr len, controlRuns s = true → s.host.owner = port → ∃ t, exec (.hostReadTimeout addr len) s = .next t ∧
      t.host = s.host ∧ t.mem = s.mem ∧ t.regs = s.regs ∧
      (∀ a n, a < spaceSize → hostLinkOk s = true → hostAddr addr < a + n → a < hostAddr addr + len → hostRead t a n = .error .abort ∧
        (hostPort (noteHostRead t a n) port).aerCount = (hostPort s port).aerCount + 1 ∧
        (memFaultAt s a n = none → memFaultAt (noteHostRead t a n) a n = none)))) ∧
  (∀ (c : Instr) (s : State), s.host.owner < 2 →
    ((s.host.standbyReady = true ∧ ((c = .takeover ∧ configurable s = true ∧ recovery s = false) ∨ (c = .heartbeatLoss ∧ controlRuns s = true) ∨
        (c = .managementDieFault ∧ controlRuns s = true))) →
      ∃ u, exec c s = .next (settle u) ∧ u.host.owner = 1 - s.host.owner ∧ u.host.standbyReady = false ∧
        (hostPort u s.host.owner).linkUp = false ∧ u.mode = s.mode ∧
        ((hostPort s (1 - s.host.owner)).linkUp = false → u.age.degraded.getLsbD (kindCode .hostPort) = true) ∧
        ((∀ h ∈ activeHalyards s, halyardIn s h ≠ 186 + s.host.owner ∧ halyardEg s h ≠ 186 + s.host.owner) →
          u.ports = s.ports ∧ u.queues = s.queues ∧ u.cmds = s.cmds ∧ u.ctxs = s.ctxs ∧ u.colls = s.colls ∧ u.hb = s.hb)) ∧
    (s.host.standbyReady = false → configurable s = true → exec .takeover s = .next (settle (logRegWrite s (mgBase + 0xA04) 1))))
/-! ## Queues: doorbells, fetch, pennants, residency -/

/-- A doorbell path that reaches queue `q` of block `b`: a page of BAR4 in MAINT or SERVICE of a block in service, or an attach port
that is UP. -/
def Sys2Proof.RingsAt (s : State) (path : DbPath) (b q : Nat) : Prop := match path with
  | .page h => configurable s = true ∧ s.host.answering = true ∧ b = h / 8 ∧ q = 512 + h % 8 ∧ b < blockCount s.variant ∧ blockServes s b = true
  | .attach p => attachUp s p = true ∧ b = p / 2 ∧ q < 512

/-- Doorbells of R172. A clean submission doorbell that moves TAIL on by no more than the free entries is taken and closes one
hoist; a clean consumer doorbell that moves CONSUMED by no more than what is written is taken; any other on a page is discarded,
counted and recorded. What the submitter stored before it is in memory first, and a doorbell page written with 8 bytes at offset
0 is one. A doorbell that is taken makes its queue's context a candidate for residency (R194); one that repeats the accepted
index has no effect (R582). A write to a doorbell page that is no aligned write of 8 bytes is discarded, counted at the page's
block and recorded, in every state in which the ports answer. -/
def Obligations.Doorbells : Prop :=
  (∀ (path : DbPath) (env : Env) (b q i : Nat) (d : DWord) (x : Queue) (s : State),
    exec (.submissionDoorbell path d env) s = exec (.submissionDoorbell path d {}) (applyEnv s env) ∧
    (∀ h, configurable s = true → s.host.answering = true → exec (.hostDoorbellPageWrite h 0 (toLe 8 d.toNat)) s =
      (if dbKind d = 0 then exec (.submissionDoorbell (.page h) d {}) s else exec (.consumerDoorbell (.page h) d) s)) ∧
    (RingsAt s path b q → queueOf s b q = some x → x.takingDoorbells = true → inTeardown s x.entry.ctx = false → dbClean d = true →
      dbQueue d = q → dbIndex d = i →
      (dbKind d = 0 → i < 2 * ringLen x → modSub i x.tail (2 * ringLen x) ≤ ringLen x - modSub x.tail x.head (2 * ringLen x) →
        ∃ u, exec (.submissionDoorbell path d {}) s = .next (settle u) ∧
          queueOf u b q = some { x with
            tail := i, hoistEnds := if i = x.tail then x.hoistEnds else x.hoistEnds ++ [i], bells := if i = x.tail then x.bells else x.bells ++ [s.fresh] } ∧
          (∀ b' q', (b', q') ≠ (b, q) → queueOf u b' q' = queueOf s b' q') ∧ u.regs = s.regs ∧ u.mem = s.mem ∧ u.cmds = s.cmds ∧ u.out = s.out ∧
          (i = x.tail → u = s) ∧
          (i ≠ x.tail → isResident s b x.entry.ctx = false → definedAt s x.entry.ctx b = true → x.entry.ctx ∈ Tab.getD u.admitNext b [])) ∧
      (dbKind d = 1 → i < 2 * cplLen x → modSub i x.consumed (2 * cplLen x) ≤ modSub x.written x.consumed (2 * cplLen x) →
        ∃ u, exec (.consumerDoorbell path d) s = .next (settle u) ∧ queueOf u b q = some { x with consumed := i } ∧
          (∀ b' q', (b', q') ≠ (b, q) → queueOf u b' q' = queueOf s b' q') ∧ u.regs = s.regs ∧ u.mem = s.mem ∧ u.cmds = s.cmds ∧ u.out = s.out ∧
          (i = x.consumed → u = s) ∧
          (i ≠ x.consumed → isResident s b x.entry.ctx = false → definedAt s x.entry.ctx b = true →
            x.entry.ctx ∈ Tab.getD u.admitNext b [])) ∧
      (∀ h, path = .page h → dbKind d = 0 → (2 * ringLen x ≤ i ∨ (i ≠ x.tail ∧
          ringLen x - modSub x.tail x.head (2 * ringLen x) < modSub i x.tail (2 * ringLen x))) →
        ∃ u, exec (.submissionDoorbell path d {}) s = .next (settle u) ∧ queueOf u b q = some x ∧
          reg u (epBase b + 0xB10) = (if reg s (epBase b + 0xB10) = 0xFFFFFFFF then 0xFFFFFFFF else reg s (epBase b + 0xB10) + 1) ∧
          u.host.eventSeq = s.host.eventSeq + 1 ∧ u.queues = s.queues ∧ u.cmds = s.cmds) ∧
      (∀ p, path = .attach p → dbKind d = 0 → (2 * ringLen x ≤ i ∨ (i ≠ x.tail ∧
          ringLen x - modSub x.tail x.head (2 * ringLen x) < modSub i x.tail (2 * ringLen x))) →
        exec (.submissionDoorbell path d {}) s = .next (settle (violation (badDoorbell s b q d) p nakMalformed 3 (sentOfLast s p 3 16)))))) ∧
  (∀ (h off : Nat) (data : Bytes) (s : State), controlRuns s = true → s.host.answering = true → h / 8 < blockCount s.variant → (off ≠ 0 ∨ data.length ≠ 8) →
    ∃ t, exec (.hostDoorbellPageWrite h off data) s = .next t ∧ t.queues = s.queues ∧ t.cmds = s.cmds ∧ t.mode = s.mode ∧
      reg t (epBase (h / 8) + 0xB10) = (if reg s (epBase (h / 8) + 0xB10) = 0xFFFFFFFF then 0xFFFFFFFF else reg s (epBase (h / 8) + 0xB10) + 1) ∧
      t.host.eventSeq = s.host.eventSeq + 1)
/-- DESCRIPTOR_FETCH of a host-space queue: the oldest hoist is read whole, its descriptors wait in ring order, HEAD moves to the
hoist's end and is written to HEAD_WB; with no hoist nothing happens. PENNANT_WRITE of a host-space queue in service: the oldest
pennant goes to the completion ring's next entry where its own reservation or a free entry takes it, with PHASE by the lap.
Where there is none, it takes the entry of a later pennant that waits behind it, which keeps the order of completion (R186, log
197), and it waits where no pennant holds one. -/
def Obligations.QueueRings : Prop :=
  (∀ (b q e : Nat) (rest : List Nat) (l : List (Nat × Bytes)) (x : Queue) (s : State), s.mode = .service → queueOf s b q = some x →
    (x.hoistEnds = [] → exec (.descriptorFetch b q) s = .next (settle s)) ∧
    (x.hoistEnds = e :: rest → x.entry.hostSpace = true →
      readDescs s b x (modSub e x.head (2 * ringLen x)) x.head = .ok l →
      ∃ u y, exec (.descriptorFetch b q) s = .next (settle u) ∧ queueOf u b q = some y ∧ y.head = e ∧ y.hoistEnds = rest ∧
        y.tail = x.tail ∧ y.entry = x.entry ∧ y.pennants = x.pennants ∧ y.reserved = x.reserved ∧
        y.fetched.map (·.bytes) = x.fetched.map (·.bytes) ++ l.map (·.2) ∧
        y.fetched.map (·.index) = x.fetched.map (·.index) ++ l.map (·.1) ∧ y.bells = x.bells.drop 1 ∧
        y.fetched.map (·.bell) = x.fetched.map (·.bell) ++ l.map (fun _ => x.bells.headD 0) ∧
        (hostLinkOk s = true → u.mem = (memWrite s (hostAddr x.entry.headWb) (toLe 8 e)).mem) ∧ (hostLinkOk s = false → u.mem = s.mem) ∧
        (∀ b' q', (b', q') ≠ (b, q) → queueOf u b' q' = queueOf s b' q') ∧ u.cmds = s.cmds ∧ u.regs = s.regs)) ∧
  (∀ (b q : Nat) (p : Pennant) (rest : List Pennant) (x : Queue) (s : State), configurable s = true → queueOf s b q = some x →
    x.takingDoorbells = true → (q < 512 → x.entry.notify = false) → x.pennants = p :: rest →
    ((p.held = true ∨ 0 < freeEntries x) → x.entry.hostSpace = true →
      ∃ u, exec (.pennantWrite b q) s = .next (settle u) ∧
        queueOf u b q = some { x with
          pennants := rest, written := (x.written + 1) % (2 * cplLen x), reserved := if p.held = true then x.reserved - 1 else x.reserved } ∧
        (hostLinkOk s = true → u.mem = (memWrite s (hostAddr (x.entry.cplBase + x.written % cplLen x * 32)) (pennantBytes x q p)).mem) ∧
        (hostLinkOk s = false → u.mem = s.mem) ∧ u.cmds = s.cmds ∧ u.ctxs = s.ctxs) ∧
    (p.held = false → freeEntries x = 0 →
      ((∀ p' ∈ rest, p'.held = false) → exec (.pennantWrite b q) s = .next (settle s)) ∧
      (∀ l, giveEntry rest = some l → x.entry.hostSpace = true → ∃ u, exec (.pennantWrite b q) s = .next (settle u) ∧
        queueOf u b q = some { x with pennants := l, written := (x.written + 1) % (2 * cplLen x), reserved := x.reserved - 1 } ∧
        (l.filter (·.held)).length + 1 = (rest.filter (·.held)).length ∧ l.map (·.fetchNo) = rest.map (·.fetchNo) ∧ u.cmds = s.cmds)))
/-- CONTEXT_ADMIT: the head candidate of a block that runs becomes resident where its grants fit and its save record opens, and the
admission is counted; with no candidate nothing happens, and one that does not fit waits while no resident context is beyond its
quantum. A resident context's quantum is over: local time has reached it, and with no candidate at the block nothing else
happens. A held command whose counter has reached its value no longer waits, and starts where nothing else holds it; the first
started copy of a queue whose context is resident and not being parked, and whose next tile the block admits, goes on with that
tile. -/
def Obligations.ContextResidency : Prop :=
  (∀ (b : Nat) (c : CtxId) (l : List CtxId) (x : CtxAtBlock) (s : State), s.mode = .service → blockRuns s b = true →
    (Tab.getD s.admitNext b [] = [] → exec (.contextAdmit b) s = .next (settle s)) ∧
    (Tab.getD s.admitNext b [] = c :: l → fits s b c = false → (∀ e ∈ residents s b, e.2.parking = false ∧ s.now ≤ e.2.admittedAt + quantum s b e.1) →
      exec (.contextAdmit b) s = .next (settle s)) ∧
    (Tab.getD s.admitNext b [] = c :: l → fits s b c = true → atBlock s c b = some x → recordOpens s b c x = true →
      ∃ u y, exec (.contextAdmit b) s = .next (settle u) ∧ atBlock u c b = some y ∧ y.resident = true ∧ y.admittedAt = s.now ∧
        y.counters = x.counters ∧ y.channels = x.channels ∧ Tab.getD u.admitNext b [] = l ∧
        reg u (epBase b + 0xB18) = (if reg s (epBase b + 0xB18) = 0xFFFFFFFF then 0xFFFFFFFF else reg s (epBase b + 0xB18) + 1) ∧
        u.mem = s.mem ∧ u.queues = s.queues ∧ u.cmds = s.cmds ∧
        (∀ b' c', (b', c') ≠ (b, c) → atBlock u c' b' = atBlock s c' b'))) ∧
  (∀ (b : Nat) (c : CtxId) (x : CtxAtBlock) (s : State), s.mode = .service → blockRuns s b = true → atBlock s c b = some x → x.resident = true →
    exec (.contextQuantumExpiry b c) s = .next (settle (admitContext (advanceTo s (x.admittedAt + quantum s b c + 1)) b)) ∧
    (Tab.getD s.admitNext b [] = [] → exec (.contextQuantumExpiry b c) s = .next (settle (advanceTo s (x.admittedAt + quantum s b c + 1))))) ∧
  (∀ (b q : Nat) (c : Cmd) (s : State), s.mode = .service →
    ((cmdsOf s b q).find? (fun c => decide (c.phase = .accepted) && (descHdr c.desc).waitEn && !c.waitDone) = some c →
      (waitMet s c = false → exec (.counterWaitSatisfied b q) s = .next s) ∧
      (waitMet s c = true →
        (mayStart (setCmd s { c with waitDone := true }) { c with waitDone := true } = false →
          exec (.counterWaitSatisfied b q) s = .next (settle (setCmd s { c with waitDone := true }))) ∧
        (mayStart (setCmd s { c with waitDone := true }) { c with waitDone := true } = true →
          exec (.counterWaitSatisfied b q) s = .next (settle (startHeld (setCmd s { c with waitDone := true }) { c with waitDone := true }))))) ∧
    ((cmdsOf s b q).find? (fun c => betweenTiles c && mayRun s b c.ctx && admitsTile s c) = some c →
      blockRuns s b = true → isQuiet s b = false → exec (.tileStart b q) s = .next (settle (finishCmd (nextTileOf s c) c.id))) ∧
    ((∀ x ∈ cmdsOf s b q, betweenTiles x = true → mayRun s b x.ctx = false ∨ admitsTile s x = false) → exec (.tileStart b q) s = .next s))
/-! ## Queue commands -/

/-- The rows that accept a queue's next descriptor: the descriptors that are the row's, what judges them, what starting one does,
and what follows. -/
inductive Sys2Proof.QueueRow : (Nat → Nat → Instr) → (Bytes → Bool) → (State → Cmd → State × Verdict) → (State → Cmd → State) → (State → State) → Prop
  | write : QueueRow .write (isOp 0x01) checkWrite startWrite id
  | read : QueueRow .read (isOp 0x02) checkReadCmd startRead id
  | vread : QueueRow .vread (isOp 0x03) checkReadCmd startRead id
  | atomic : QueueRow .atomic (isOp 0x10) checkAtomic startAtomic id
  | copyPush : QueueRow .copyPush (isOp 0x20) checkPush startCopy id
  | copyPull : QueueRow .copyPull (isOp 0x21) checkPull startCopy id
  | copyLocal : QueueRow .copyLocal (isOp 0x22) checkLocal startCopy id
  | fence : QueueRow .fence (isOp 0x30) checkFence startFence id
  | checkAccumulate : QueueRow .checkAccumulate (fun d => isOp 0x31 d && decide (ckOp d = 0 ∨ ckOp d = 3)) checkCheck startAccumulate id
  | checkRead : QueueRow .checkRead (fun d => isOp 0x31 d && decide (ckOp d = 1)) checkCheck startCheckRead id
  | checkLoad : QueueRow .checkLoad (fun d => isOp 0x31 d && decide (ckOp d = 2)) checkCheck startCheckLoad id
  | ownXfer : QueueRow .ownXfer (isOp 0x40) checkXfer startXfer id
  | xlateInval : QueueRow .xlateInval (isOp 0x41) checkInval startInval id
  | collExt : QueueRow .collExt (isOp 0x62) checkLoneExt startNothing id
  | regroup : QueueRow .regroup (isOp 0x61) checkRegroup startRegroup settle
  | groupDefine : QueueRow .groupDefine (isOp 0x63) checkDefineGroup startDefineGroup settle
  | groupClose : QueueRow .groupClose (isOp 0x64) checkCloseGroup startCloseGroup settle
  | progLoad : QueueRow .progLoad (isOp 0x65) checkLoad startLoad id
  | progUnload : QueueRow .progUnload (isOp 0x66) checkUnload startUnload id
  | halyardWatch : QueueRow .halyardWatch (isOp 0x67) checkWatch startWatch id
  | hbSetCreate : QueueRow .hbSetCreate (isOp 0x70) checkCreate startCreate id
  | hbSetDestroy : QueueRow .hbSetDestroy (isOp 0x71) checkDestroy startDestroy id
  | hbPortBind : QueueRow .hbPortBind (isOp 0x72) checkBind startBind id
  | hbPortUnbind : QueueRow .hbPortUnbind (isOp 0x73) checkUnbind startUnbind settle
  | hbSweep : QueueRow .hbSweep (isOp 0x74) checkSweep startSweep id
  | hbCommit : QueueRow .hbCommit (isOp 0x75) checkCommit startCommit id
  | hbStepAbort : QueueRow .hbStepAbort (isOp 0x76) checkAbort startAbort id
  | hbQuota : QueueRow .hbQuota (isOp 0x77) checkQuota startQuota id
  | ctxDefine : QueueRow .ctxDefine (isOp 0xE0) checkDefine startDefine id
  | queueEnable : QueueRow .queueEnable (isOp 0xE1) checkEnable startEnable id
  | queueDisable : QueueRow .queueDisable (isOp 0xE2) checkDisable startDisable id
  | ctrWrite : QueueRow .ctrWrite (isOp 0xE4) checkCtr startCtrWrite id
  | ctrAdd : QueueRow .ctrAdd (isOp 0xE5) checkCtr startCtrAdd id
  | ctrRead : QueueRow .ctrRead (isOp 0xE6) checkCtr startCtrRead id
  | nop : QueueRow .nop (fun d => isOp 0xE7 d || !knownOpcode (descHdr d).opcode) checkNop startNop id
  | teardown : QueueRow .teardown (isOp 0xE8) checkTeardown startTeardown settle

/-- The state in which a queue's next descriptor has become a command. -/
def Sys2Proof.accepting (s : State) (b q : Nat) (x : Queue) (f : Fetched) (rest : List Fetched) : State :=
  setQueue { s with fresh := s.fresh + 1, cmds := s.cmds ++ [newCmd s b q x f] } b q { x with fetched := rest, extAt := none }

/-- A queue whose next descriptor is `f`, in service, with every earlier command sent. -/
def Sys2Proof.NextIs (s : State) (b q : Nat) (x : Queue) (f : Fetched) (rest : List Fetched) : Prop :=
  s.mode = .service ∧ queueOf s b q = some x ∧ x.takingDoorbells = true ∧ x.fetched = f :: rest ∧ (cmdsOf s b q).all (allSent s) = true

/-- The acceptance of a queue's next descriptor by the row that is its own (R176, R179, R232): a torn-down context's command
completes with CONTEXT_GONE, a descriptor that breaks a rule with PROTOCOL, one that its check turns away with the check's
status; one that may start has the row's effect at once, and one that may not is held. A COLL_EXT here is one that no launch
takes. COLL_LAUNCH takes the next slot's COLL_EXT with it where its descriptor asks for one, and uses it where it lies in the
launch's own hoist; then it is accepted as every queue command is. A COLL_EXT that a launch asked for and that was fetched later
is consumed without a pennant (R251). -/
def Obligations.DescriptorAcceptance : Prop :=
  (∀ row mine check start after, QueueRow row mine check start after →
    ∀ (b q : Nat) (x : Queue) (f : Fetched) (rest : List Fetched) (s : State), NextIs s b q x f rest → mine f.bytes = true →
      (isExt f.bytes = true → x.extAt ≠ some f.index) →
      (inTeardown s x.entry.ctx = true →
        exec (row b q) s = .next (after (goneCmd (accepting s b q x f rest) (newCmd s b q x f)))) ∧
      (inTeardown s x.entry.ctx = false →
        ((headerOk s x.entry.ctx f.bytes = false ∨ knownOpcode (descHdr f.bytes).opcode = false) →
          exec (row b q) s = .next (after (rejectCmd (accepting s b q x f rest) (newCmd s b q x f) stProtocol 0))) ∧
        (headerOk s x.entry.ctx f.bytes = true → knownOpcode (descHdr f.bytes).opcode = true →
          (∀ t st r, check (accepting s b q x f rest) (newCmd s b q x f) = (t, .reject st r) →
            exec (row b q) s = .next (after (rejectCmd t (newCmd s b q x f) st r))) ∧
          (∀ t d c, check (accepting s b q x f rest) (newCmd s b q x f) = (t, .go d) →
            c = { newCmd s b q x f with dst := d, waitDone := waitMet t (newCmd s b q x f) } →
            (mayStart (setCmd t c) c = false → exec (row b q) s = .next (after (setCmd t c))) ∧
            (mayStart (setCmd t c) c = true → exec (row b q) s = .next (after (finishCmd
              (start (markStarted (setCmd t c) c).1 (markStarted (setCmd t c) c).2) c.id))))))) ∧
  (∀ (b q : Nat) (x : Queue) (f : Fetched) (rest : List Fetched) (s : State), NextIs s b q x f rest →
    (isOp 0x62 f.bytes = true → x.extAt = some f.index →
      exec (.collExt b q) s = .next (setQueue s b q { x with fetched := rest, extAt := none })) ∧
    (isOp 0x60 f.bytes = true → ∀ (ext : Option Bytes) (rest' : List Fetched) (at_ : Option Nat),
      ((ext = none ∧ rest' = rest ∧ (takesExt f.bytes = false ∨ ∀ e l, rest = e :: l → isOp 0x62 e.bytes = false) ∧
          at_ = (if rest = [] ∧ takesExt f.bytes = true then some ((f.index + 1) % (2 * ringLen x)) else none)) ∨
        (∃ e, rest = e :: rest' ∧ takesExt f.bytes = true ∧ isOp 0x62 e.bytes = true ∧ at_ = none ∧
          ext = (if e.hoist = f.hoist then some e.bytes else none))) →
      (let c0 := { newCmd s b q x f with ext := ext }
       let s0 := setQueue { s with fresh := s.fresh + 1, cmds := s.cmds ++ [c0] } b q { x with fetched := rest', extAt := at_ }
       (inTeardown s x.entry.ctx = true → exec (.collLaunch b q) s = .next (settle (goneCmd s0 c0))) ∧
       (inTeardown s x.entry.ctx = false →
        (headerOk s x.entry.ctx f.bytes = false → exec (.collLaunch b q) s = .next (settle (rejectCmd s0 c0 stProtocol 0))) ∧
        (headerOk s x.entry.ctx f.bytes = true →
         (∀ t st r, checkLaunch s0 c0 = (t, .reject st r) → exec (.collLaunch b q) s = .next (settle (rejectCmd t c0 st r))) ∧
         (∀ t d c, checkLaunch s0 c0 = (t, .go d) → c = { c0 with dst := d, waitDone := waitMet t c0 } →
           (mayStart (setCmd t c) c = false → exec (.collLaunch b q) s = .next (settle (setCmd t c))) ∧
           (mayStart (setCmd t c) c = true → exec (.collLaunch b q) s = .next (settle (finishCmd
             (startLaunch (markStarted (setCmd t c) c).1 (markStarted (setCmd t c) c).2) c.id)))))))))
/-- A command of a tenant that may start at once and asks for nothing but its pennant: no wait, no release or acquire, no signal. -/
def Sys2Proof.Plain (s : State) (b q : Nat) (x : Queue) (f : Fetched) (rest : List Fetched) (y : CtxAtBlock) : Prop :=
  NextIs s b q x f rest ∧ cmdsOf s b q = [] ∧ (∀ c ∈ s.cmds, c.id < s.fresh) ∧ (∀ r ∈ s.reqs, r.cmd ≠ some s.fresh) ∧
  checkBusy (accepting s b q x f rest) (newCmd s b q x f) = false ∧ (∀ r ∈ s.stalled, r.cmd ≠ some s.fresh) ∧ (∀ r ∈ s.attReqs, servesCmd s.fresh r = false) ∧
  inTeardown s x.entry.ctx = false ∧ headerOk s x.entry.ctx f.bytes = true ∧ (descHdr f.bytes).waitEn = false ∧ (descHdr f.bytes).rel = false ∧
  (descHdr f.bytes).acq = false ∧ (descHdr f.bytes).sigEn = false ∧ (descHdr f.bytes).pennant = true ∧
  blockRuns s b = true ∧ isQuiet s b = false ∧ atBlock s x.entry.ctx b = some y ∧ y.resident = true ∧ y.parking = false ∧ entryLeft x = true

/-- The queue after a command that completed with a status and a RESULT: its pennant waits in a reserved entry. -/
def Sys2Proof.pennantOf (x : Queue) (f : Fetched) (rest : List Fetched) (status : Byte) (result : DWord) : Queue :=
  let p : Pennant := {
    result := result, userTag := BitVec.ofNat 32 (descHdr f.bytes).userTag, abandoned := false, status := status,
    slot := f.index % ringLen x, fetchNo := f.fetchNo, aux := [], held := true, onlyIfFree := false }
  { x with fetched := rest, extAt := none, reserved := x.reserved + 1, pennants := x.pennants ++ [p] }

/-- NOP, CTR_WRITE, CTR_ADD, CTR_READ, CHECK READ, CHECK LOAD and FENCE, run at once (R182, R90, R226): each completes with OK and
its RESULT; the named counter or channel takes its new value, and every other counter and channel, memory and every register
stays. -/
def Obligations.SimpleCommandsComplete : Prop :=
  ∀ (b q : Nat) (x : Queue) (f : Fetched) (rest : List Fetched) (y : CtxAtBlock) (s : State), Plain s b q x f rest y →
    (let n := ctrNo f.bytes
     let ch := ckChannel f.bytes
     let ok := fun (t : State) (r : DWord) (z : CtxAtBlock) => queueOf t b q = some (pennantOf x f rest stOk r) ∧
       atBlock t x.entry.ctx b = some z ∧ t.mem = s.mem ∧ t.regs = s.regs ∧ t.cmds = s.cmds ∧ t.out = s.out ∧
       (∀ b' c', (b', c') ≠ (b, x.entry.ctx) → atBlock t c' b' = atBlock s c' b')
     (isOp 0xE7 f.bytes = true → reservedZero f.bytes 24 64 = true → ∃ t, exec (.nop b q) s = .next t ∧ ok t 0 y) ∧
     (isOp 0x30 f.bytes = true → reservedZero f.bytes 24 64 = true → ∃ t, exec (.fence b q) s = .next t ∧ ok t 0 y) ∧
     (ctrOk s (newCmd s b q x f) = true →
       (isOp 0xE4 f.bytes = true → ∃ t, exec (.ctrWrite b q) s = .next t ∧ ok t 0 { y with counters := y.counters.set n (ctrValue f.bytes) }) ∧
       (isOp 0xE5 f.bytes = true → ∃ t, exec (.ctrAdd b q) s = .next t ∧
         ok t 0 { y with counters := y.counters.set n (y.counters.getD n 0 + ctrValue f.bytes) }) ∧
       (isOp 0xE6 f.bytes = true → ∃ t, exec (.ctrRead b q) s = .next t ∧ ok t (y.counters.getD n 0) y)) ∧
     (isOp 0x31 f.bytes = true → ∀ t', checkCheck (accepting s b q x f rest) (newCmd s b q x f) = (t', .go 0) →
       (ckOp f.bytes = 1 → ∃ t, exec (.checkRead b q) s = .next t ∧ ok t (y.channels.getD ch 0) y) ∧
       (ckOp f.bytes = 2 → ∃ t, exec (.checkLoad b q) s = .next t ∧
         ok t 0 { y with channels := y.channels.set ch (BitVec.ofNat 64 (fieldAt f.bytes 48 8)) })))

/-- A request on a stream (R76, R87, R371): it leaves at once as one sealed packet with the stream's next SEQ, which then is one
higher, and is outstanding with its first timer, and its bytes are taken from the limit that its block keeps for its
destination; without a send epoch, at the stream's epoch limit, while such a limit delays it, or behind one of its stream that
waits, it is kept and nothing is sent. -/
def Obligations.RequestsAreNumbered : Prop :=
  ∀ (r : SendReq) (s : State), (∀ port, r.kind ≠ .mgmt port) → (∀ m, r.kind ≠ .ownXfer m) →
    (let k : StreamKey := { src := r.src, ctx := r.ctx, dst := r.dst, read := decide (r.ptype = tyRead) }
     let t := srcStream s k
     let epoch := match t.under with
       | some e => some e
       | none => sendEpoch s r.ctx
     let u := sendRequest s r
     (∀ e, epoch = some e → t.inEpoch + 1 < 2 ^ 32 → reqWaits s r = false → ∃ p l, u.out = s.out ++ l ++ [.packet r.unit p] ∧
       (t.inEpoch + 1 ≠ 2 ^ 31 → l = []) ∧
       p.hdr.seq = BitVec.ofNat 32 t.next ∧ p.hdr.src = r.src ∧ p.hdr.dst = r.dst ∧ p.hdr.ptype = r.ptype ∧ p.hdr.opcode = r.opcode ∧
       p.hdr.region = r.region ∧ p.hdr.offset = BitVec.ofNat 48 r.offset ∧ p.hdr.length = BitVec.ofNat 13 r.len ∧
       (srcStream u k).next = (t.next + 1) % 2 ^ 32 ∧ (srcStream u k).inEpoch = t.inEpoch + 1 ∧
       (∃ o, u.reqs = s.reqs ++ [o] ∧ o.pkt = p ∧ o.kind = r.kind ∧ o.cmd = r.cmd ∧ o.tries = 1 ∧
         o.deadline = s.now + us (cfgFirst (resendCfg s r.unit))) ∧ u.stalled = s.stalled ∧
       (∀ m, unitLimit s r.unit r.dst = some m → ∀ n, unitLimit u r.unit r.dst = some n →
         n.rate = m.rate ∧ n.freeAt = s.now + limitCycles (48 + p.body.length) m.rate)) ∧
     (epoch = none → u = { s with stalled := s.stalled ++ [r] }) ∧
     (∀ e, epoch = some e → t.inEpoch + 1 < 2 ^ 32 → reqWaits s r = true → u = { s with stalled := s.stalled ++ [r] }) ∧
     (2 ^ 32 ≤ t.inEpoch + 1 → u.stalled = s.stalled ++ [r] ∧ u.reqs = s.reqs))

/-! ## Translation and its caches -/

/-- An entry of a mirror that points to the next level, and one that maps a page of a size, as R109 takes them. -/
def Sys2Proof.NonLeaf (e : Nat) : Prop :=
  bit e 0 = true ∧ bits e 55 52 = 0 ∧ bits e 7 4 = 0 ∧ bit e 1 = false ∧ bit e 2 = false ∧ bit e 3 = false
def Sys2Proof.LeafOf (e size : Nat) : Prop :=
  bit e 0 = true ∧ bits e 55 52 = 0 ∧ bits e 7 4 = 0 ∧ bit e 1 = true ∧ bits e 51 8 * 256 % size = 0

/-- What the caches of a block hold (R112): no failed translation, no entry with VALID 0 and no result of a failed table read; a
parked context leaves no entry tagged with it, and every other entry stays, those of regions and windows too. No cache grows
beyond its size (R111). An invalidate that has started leaves no entry that it names at a block on which it acts (R121 to R123).
A walk at a block that holds no entry follows the tables as R109 gives it: it ends at the first leaf of levels 2 to 0, or at the
first entry that is not valid. -/
def Obligations.Translations : Prop :=
  (∀ (s : State) (b : Nat) (id : CtxId) (c : Context) (via : Option Word) (va : Nat) (acc : Access),
    (let l := mirrorLook s b id c via va acc
     (∀ p ∈ l.fill, bit (leNat p.2) 0 = true) ∧ (∀ k, l.out = .error k → ∀ p ∈ l.fill, p.1.kind = .node))) ∧
  (∀ (s : State) (b : Nat) (id : CtxId) (region : Word) (off n : Nat) (acc : Access) (pr : Bool),
    (let l := regionLook s b id region off n acc pr
     (∀ p ∈ l.fill, bit (leNat p.2) 0 = true) ∧ (∀ k, l.out = .error k → ∀ p ∈ l.fill, p.1.kind = .node ∨ p.1.kind = .entry))) ∧
  (∀ (s : State) (b : Nat) (id : CtxId) (c : Context) (rank : Nat),
    (let l := rankLook s b id c rank
     (∀ p ∈ l.fill, bit (leNat p.2) 16 = true) ∧ (∀ k, l.out = .error k → l.fill = []))) ∧
  (∀ (s : State) (b : Nat) (id : CtxId) (x : CtxAtBlock), atBlock s id b = some x → ∀ e,
    (e ∈ (park s b id).tables ↔ e ∈ s.tables ∧ ¬ (e.block = b ∧ e.tag.ctx = id ∧ e.tag.kind ≠ .entry))) ∧
  (∀ (s : State) (b : Nat) (l : Look Unit),
    (∀ b' k, (s.tables.filter (fun e => decide (e.block = b') && sharesCache e.tag.kind k)).length ≤ cacheSize k) →
    ∀ b' k, ((warm s b l).tables.filter (fun e => decide (e.block = b') && sharesCache e.tag.kind k)).length ≤ cacheSize k) ∧
  (∀ (s : State) (c : Cmd), ∀ e ∈ (startInval s c).tables, ¬ (invalActs s c e.block = true ∧ namesTag c e.tag = true)) ∧
  (∀ (s : State) (b : Nat) (id : CtxId) (c : Context) (via : Option Word) (va : Nat) (acc : Access),
    (∀ e ∈ s.tables, e.block ≠ b) →
    (let reads := fun (table level e : Nat) =>
       ∃ bs, tableRead s b c.hostTables (table + levelIndex level va * 8) 8 = .ok bs ∧ leNat bs = e
     let page := fun (e size : Nat) => walk s b id c via va acc =
       if acc.rd = true ∧ bit e 2 = false then .error .access
       else if acc.wr = true ∧ bit e 3 = false then .error .access
       else .ok (bits e 51 8 * 256 + va % size)
     (2 ^ 48 ≤ va → walk s b id c via va acc = .error .notPresent) ∧
     (va < 2 ^ 48 → ∀ e3, reads c.mirrorRoot 3 e3 →
       (bit e3 0 = false → walk s b id c via va acc = .error .notPresent) ∧
       (bit e3 0 = true → bit e3 1 = true → walk s b id c via va acc = .error .badEntry) ∧
       (NonLeaf e3 → ∀ e2, reads (bits e3 51 8 * 256) 2 e2 →
         (bit e2 0 = false → walk s b id c via va acc = .error .notPresent) ∧
         (LeafOf e2 (2 ^ 30) → page e2 (2 ^ 30)) ∧
         (NonLeaf e2 → ∀ e1, reads (bits e2 51 8 * 256) 1 e1 →
           (bit e1 0 = false → walk s b id c via va acc = .error .notPresent) ∧
           (LeafOf e1 (2 ^ 21) → page e1 (2 ^ 21)) ∧
           (NonLeaf e1 → ∀ e0, reads (bits e1 51 8 * 256) 0 e0 →
             (bit e0 0 = false → walk s b id c via va acc = .error .notPresent) ∧
             (LeafOf e0 (2 ^ 16) → page e0 (2 ^ 16)) ∧
             (NonLeaf e0 → walk s b id c via va acc = .error .badEntry)))))))
/-! ## Teardown -/

/-- An MGMT packet of an opcode that reaches the module's own fabric ID and passes steps 1 to 5 of R82 there, with its payload. -/
def Sys2Proof.MgmtOpens (s : State) (opcode : Byte) (p : Packet) (payload : Bytes) : Prop :=
  p.hdr.ptype = tyMgmt ∧ p.hdr.opcode = opcode ∧ blockOfFid s p.hdr.dst = none ∧ p.hdr.dst = me s ∧ tooOld s p.hdr = false ∧
  malformed s p = false ∧ p.hdr.dgen = genOf s p.hdr.dst ∧ p.hdr.sgen = genOf s p.hdr.src ∧ burgeeDead s p.hdr = false ∧
  openPacket s p = .ok payload

/-- The steps of a teardown in SERVICE (R466, R467). TD_REQ for a context that is not defined is answered TD_DONE; one that is being
torn down already gains a requester; any other loses its keys, programs, ledger entries and cached lines and is torn down from
now. TD_DONE takes its peer off the list of the oldest teardown that waits for it; 400 µs after the stop time, with the
harbour's shards gone, the context is undefined; a peer silent for 100 ms is unconfirmed. One whose payload sets a reserved bit
is malformed, and one at a block's fabric ID is a stray (R8, R619). -/
def Obligations.TeardownSteps : Prop :=
  ∀ (p : Packet) (bs : Bytes) (src : Fid) (ctx : CtxId) (s : State), s.mode = .service →
    ((∀ b c, (c = .tdReq p ∧ p.hdr.opcode = mgTdReq) ∨ (c = .tdDone p ∧ p.hdr.opcode = mgTdDone) → p.hdr.ptype = tyMgmt →
      blockOfFid s p.hdr.dst = some b → exec c s = .next (countPkt s (unitOfBlock s b) .stray)) ∧
     (∀ c, (c = .tdReq p ∧ MgmtOpens s mgTdReq p bs) ∨ (c = .tdDone p ∧ MgmtOpens s mgTdDone p bs) → tdOk bs = false →
      exec c s = .next (refuseMalformed s (unitMgmt s) p.hdr))) ∧
    (MgmtOpens s mgTdReq p bs → tdOk bs = true → ctx = tdCtx bs → src = p.hdr.src →
      (ctxOf s ctx = none → exec (.tdReq p) s = .next (sendTd (ackMgmt s p.hdr) mgTdDone ctx src)) ∧
      (∀ x, ctxOf s ctx = some x → x.teardown = true → ∃ t, exec (.tdReq p) s = .next t ∧ t.ctxs = s.ctxs ∧ t.mem = s.mem ∧
        (∀ r, s.teardowns.find? (fun r => decide (r.ctx = ctx) && !r.quiet && decide (src ∉ r.requesters)) = some r → t.teardowns =
          s.teardowns.map (fun y => if y.no = r.no then { y with requesters := y.requesters ++ [src] } else y)) ∧
        ((∀ r ∈ s.teardowns, r.ctx = ctx → r.quiet = false → src ∈ r.requesters) → t.teardowns = s.teardowns)) ∧
      (∀ x, ctxOf s ctx = some x → x.teardown = false → ∃ u, exec (.tdReq p) s = .next (settle u) ∧
        (∃ r ∈ u.teardowns, r.ctx = ctx ∧ r.requesters = [src] ∧ r.quiet = false ∧ r.peers = []) ∧ Tab.get? u.sec.keys ctx = none ∧
        (∀ l ∈ u.cache, l.ctx ≠ ctx) ∧ (∀ e ∈ u.ledger, e.key.ctx ≠ ctx) ∧ (∀ p ∈ u.programs, p.1.1 ≠ ctx))) ∧
    (MgmtOpens s mgTdDone p bs → tdOk bs = true → ctx = tdCtx bs → src = p.hdr.src →
      ((∀ t ∈ s.teardowns, awaits ctx src t = false) → exec (.tdDone p) s = .next (settle (ackMgmt s p.hdr))) ∧
      (∀ t, s.teardowns.find? (awaits ctx src) = some t → exec (.tdDone p) s = .next (settle { ackMgmt s p.hdr with
        teardowns := s.teardowns.map (fun x => if x.no = t.no then { x with peers := x.peers.erase src } else x) }))) ∧
    (∀ t, s.teardowns.find? (fun t => decide (t.ctx = ctx) && !t.quiet) = some t → stillHolds s ctx = false →
      ∃ u, exec (.teardownQuietExpiry ctx) s = .next (settle u) ∧
        ctxOf u ctx = none ∧ (∀ e ∈ u.ctxBlocks, e.1.2 ≠ ctx) ∧
        u.teardowns = s.teardowns.map (fun x => if x.no = t.no then { x with quiet := true } else x)) ∧
    (∀ t p, s.teardowns.find? (awaits ctx src) = some t →
      t.acked.find? (fun p => decide (p.1 = src)) = some p →
      exec (.tdDoneTimeout src ctx) s = .next (settle { advanceTo s (p.2 + us 100000) with
        teardowns := s.teardowns.map (fun x => if x.no = t.no
          then { x with peers := x.peers.erase src, unconfirmed := x.unconfirmed ++ [(src, stTimeout)] } else x) }))

/-! ## Requests at their home -/

/-- A request that passes steps 1 to 5 of R82 at a home: neither quiet, nor too old, nor malformed, for a known context, under
current generations and a live burgee, and its body opens. -/
def Sys2Proof.Opens (s : State) (hu : HomeUnit) (p : Packet) (payload : Bytes) : Prop :=
  configurable s = true ∧ homeOf s p.hdr = some hu ∧ (∀ b, hu = .block b → isQuiet s b = false) ∧ tooOld s p.hdr = false ∧
  malformed s p = false ∧ knownAt s hu (burgeeCtx p.hdr) = true ∧ p.hdr.dgen = genOf s p.hdr.dst ∧ p.hdr.sgen = genOf s p.hdr.src ∧
  burgeeDead s p.hdr = false ∧ openPacket s p = .ok payload

/-- Steps 1 to 5 of R82, in order, for an ORDERED_REQ and a READ_REQ at a home: each step that fails drops the packet with its
count, or answers it with its NAK. -/
def Obligations.HomeStepsInOrder : Prop :=
  ∀ (c : Instr) (p : Packet) (hu : HomeUnit) (s : State), configurable s = true → homeOf s p.hdr = some hu →
    ((c = .orderedReqReceive p ∧ p.hdr.ptype = tyOrdered) ∨ (c = .readReqReceive p ∧ p.hdr.ptype = tyRead)) →
    (∀ b, hu = .block b → isQuiet s b = false) →
    (let u := homeUnitNo s hu
     let h := p.hdr
     (tooOld s h = true → exec c s = .next (settle (countPkt s u .ageDrop))) ∧
     (tooOld s h = false →
       (malformed s p = true → exec c s = .next (settle (logBadPacket (countPkt (sendNak s u h nakMalformed) u .malformed) h))) ∧
       (malformed s p = false →
         (knownAt s hu (burgeeCtx h) = false → exec c s = .next (settle (sendNak s u h nakNoContext))) ∧
         (knownAt s hu (burgeeCtx h) = true →
           (h.dgen ≠ genOf s h.dst → exec c s = .next (settle (sendNak s u h nakStaleGen))) ∧
           (h.dgen = genOf s h.dst →
             (h.sgen ≠ genOf s h.src → exec c s = .next (settle (countPkt s u .genDrop))) ∧
             (h.sgen = genOf s h.src →
               (burgeeDead s h = true → exec c s = .next (settle (countPkt s u .burgeeDrop))) ∧
               (burgeeDead s h = false →
                 (∀ bs, openPacket s p = .tagFail bs → exec c s = .next (settle (sendNak (countPkt s u .tagFail) u h nakTagFail))) ∧
                 (∀ bs, openPacket s p = .crcFail bs → exec c s = .next (settle (sendNak (countPkt s u .crcFail) u h nakCrcFail))))))))))

/-- The next packet of an ordered stream at a home that reaches its bytes at once: a scratch window, or host memory behind a block
in the spine role (R81, R82, R212, R214, R567). A WRITE stores its payload and is acknowledged; an atomic stores its new value,
and one that fetches answers the old value and leaves a ledger entry. The stream expects the next number. A read answers the
bytes and changes no memory. An answer that a rate limit delays is kept for later (R371, log 183). -/
def Obligations.HomeAppliesInOrder : Prop :=
  ∀ (p : Packet) (hu : HomeUnit) (payload : Bytes) (a : Nat) (v s : State), Opens s hu p payload →
    (let h := p.hdr
     let k := streamOf h
     let un := homeUnitNo s hu
     let q : Packet := { p with body := payload }
     let s1 := setHomeStream s k { homeStream s k with held := [q] }
     let answered (u : State) (ty : BitVec 4) : Prop :=
       (answerWaits v un h.src = true → ∃ w, u.out = v.out ∧ u.answerWait = v.answerWait ++ [w] ∧ w.unit = un ∧ w.req = h ∧ w.ptype = ty) ∧
       (answerWaits v un h.src = false → ∃ ans, u.answerWait = v.answerWait ∧ u.out = v.out ++ [.packet un ans] ∧ ans.hdr.ptype = ty ∧
         ans.hdr.seq = h.seq ∧ ans.hdr.tag = h.tag ∧ ans.hdr.dst = h.src)
     (h.ptype = tyOrdered → s.combIn = [] → homeStream s k = { expect := h.seq, held := [], applying := false } →
       (opOf h = none → checkHome s1 hu h accWrite false = (v, .bytes a) → (spineRole s = true → a < spaceSize → hostLinkOk v = true) →
         ∃ u, exec (.orderedReqReceive p) s = .next (settle u) ∧ u.mem = (memWrite v a payload).mem ∧
           homeStream u k = { expect := h.seq + 1, held := [], applying := false } ∧ answered u tyAck ∧ u.ledger = v.ledger ∧ u.regs = v.regs) ∧
       (∀ op w, opOf h = some (op, w) → checkHome s1 hu h accBoth false = (v, .bytes a) → ledgerFull s1 hu = false →
         (spineRole s = true → a < spaceSize → hostLinkOk v = true ∧ memFaultAt v a w = none) →
         ∃ u, exec (.orderedReqReceive p) s = .next (settle u) ∧
           u.mem = (memWrite v a (toLe w (atomicNew op w (leNat (memRead v a w)) payload))).mem ∧
           homeStream u k = { expect := h.seq + 1, held := [], applying := false } ∧
           answered u (if fetches op = true then tyResponse else tyAck) ∧ u.regs = v.regs ∧
           u.ledger.length = v.ledger.length + (if fetches op = true then 1 else 0))) ∧
     (h.ptype = tyRead → checkHome s hu h accRead true = (v, .bytes a) →
       (spineRole s = true → a < spaceSize → hostLinkOk v = true ∧ memFaultAt v a h.length.toNat = none) →
       exec (.readReqReceive p) s = .next (settle (sendResponse v un h 0x01 (memRead v a h.length.toNat)))))

/-- A ledger entry whose time is over is gone, and the streams that wait go on; a transfer of a scratch window writes its new owner
where the sender owns it or forces it, and is refused with OWNER_MISMATCH where it does not; a transfer under an unknown context
is refused, and so is one whose tag or CRC does not verify, which is counted. -/
def Obligations.LedgerAndOwnership : Prop :=
  (∀ (b : Nat) (k : StreamKey) (seq : Word) (e : LedgerEntry) (s : State), s.mode = .service →
    s.ledger.find? (fun e => decide (e.block = b) && decide (e.key = k) && decide (e.seq = seq)) = some e →
    exec (.ledgerEntryExpiry b k seq) s = .next (settle (resumeStreams { advanceTo s e.freeAt with
      ledger := s.ledger.filter (fun x => !(decide (x.block = b) && decide (x.key = k) && decide (x.seq = seq))) }))) ∧
  (∀ (m : OwnMsg) (d : Nat) (s : State), s.mode = .service → homeOf s m.hdr = some (.ari d) →
    (tooOld s m.hdr = false → ownMalformed s m.hdr = false → ownCtx m ≠ 0 → (ctxOf s (ownCtx m)).isNone = true →
      exec (.ownershipTransferApply m) s = .next (settle (sendNak s (unitAri d) m.hdr nakNoContext))) ∧
    (headSteps s (unitAri d) (decide (ownCtx m = 0) || (ctxOf s (ownCtx m)).isSome) (ownMalformed s m.hdr) m.hdr = none →
      (flagEnc m.hdr = true → m.tagOk = false →
        exec (.ownershipTransferApply m) s = .next (settle (sendNak (countPkt s (unitAri d) .tagFail) (unitAri d) m.hdr nakTagFail))) ∧
      ((flagEnc m.hdr = true → m.tagOk = true) → m.crcOk = false →
        exec (.ownershipTransferApply m) s = .next (settle (sendNak (countPkt s (unitAri d) .crcFail) (unitAri d) m.hdr nakCrcFail))) ∧
      ((flagEnc m.hdr = true → m.tagOk = true) → m.crcOk = true → regionGen m.hdr.region = 0 →
      ((m.forced = true ∨ (regBit s (ariBase d + 0x500) 21 = true ∧ regField s (ariBase d + 0x500) 19 0 = (ownCtx m).toNat)) →
        ∃ u, exec (.ownershipTransferApply m) s = .next (settle u) ∧ regField u (ariBase d + 0x500) 19 0 = m.newOwner.toNat ∧
          regBit u (ariBase d + 0x500) 21 = true ∧ (∀ o, o ≠ ariBase d + 0x500 → reg u o = reg s o) ∧ u.mem = s.mem ∧ u.cache = s.cache) ∧
      (m.forced = false → regBit s (ariBase d + 0x500) 21 = true → regField s (ariBase d + 0x500) 19 0 ≠ (ownCtx m).toNat →
        exec (.ownershipTransferApply m) s = .next (settle (sendNak s (unitAri d) m.hdr nakOwnerMismatch))))))

/-- An answer at its unit, by the steps of R618: dropped and counted where it is too old, malformed or stray, under a dead burgee
(the model takes the burgee before the generations, log 173), under an SGEN that is not current, but for STALE_GEN, or where its
tag or CRC does not verify; dropped without a count under a DGEN that is not current (log 69); and otherwise it completes the
request that it answers. A re-send timer sends the request again with RESEND set and its timer doubled up to the cap, or ends it
with TIMEOUT where its tries are used up. -/
def Obligations.AnswersAndTimers : Prop :=
  (∀ (un : Nat) (p : Packet) (s : State), s.mode = .service →
    (let h := p.hdr
     (tooOld s h = true → exec (.answerReceive un p) s = .next (settle (countPkt s un .ageDrop))) ∧
     (tooOld s h = false → malformed s p = true →
       exec (.answerReceive un p) s = .next (settle (logBadPacket (countPkt s un .malformed) h))) ∧
     (tooOld s h = false → malformed s p = false →
       (s.reqs.find? (answers un h) = none → exec (.answerReceive un p) s = .next (settle (countPkt s un .stray))) ∧
       (∀ r, s.reqs.find? (answers un h) = some r →
         (h.ptype = tyResponse → h.length.toNat ≠ expectedLen r →
           exec (.answerReceive un p) s = .next (settle (logBadPacket (countPkt s un .malformed) h))) ∧
         ((h.ptype = tyResponse → h.length.toNat = expectedLen r) →
           (burgeeDead s h = true → exec (.answerReceive un p) s = .next (settle (countPkt s un .burgeeDrop))) ∧
           (burgeeDead s h = false →
             (h.dgen ≠ genOf s h.dst → exec (.answerReceive un p) s = .next (settle s)) ∧
             (h.dgen = genOf s h.dst → h.sgen ≠ genOf s h.src → ¬(h.ptype = tyNak ∧ h.opcode = nakStaleGen) →
               exec (.answerReceive un p) s = .next (settle (countPkt s un .genDrop))) ∧
             (h.dgen = genOf s h.dst → (h.sgen = genOf s h.src ∨ (h.ptype = tyNak ∧ h.opcode = nakStaleGen)) →
               (∀ bs, openAs s (byNonce r) p = .tagFail bs → exec (.answerReceive un p) s = .next (settle (countPkt s un .tagFail))) ∧
               (∀ bs, openAs s (byNonce r) p = .crcFail bs → exec (.answerReceive un p) s = .next (settle (countPkt s un .crcFail))) ∧
               (∀ payload, openAs s (byNonce r) p = .ok payload →
                 (h.ptype ≠ tyNak → exec (.answerReceive un p) s = .next (settle (reqOk s r payload))) ∧
                 (h.ptype = tyNak → exec (.answerReceive un p) s = .next (settle (onNak s un r h))))))))))) ∧
  (∀ (id : Nat) (r : OutReq) (s : State), configurable s = true → s.reqs.find? (fun r => decide (r.id = id)) = some r →
    (r.tries < cfgTries r.cfg → ∃ u, exec (.resendTimeout id) s = .next (settle u) ∧
      u.reqs = s.reqs.map (fun x => if x.id = r.id then
        { r with tries := r.tries + 1, timerUs := min (2 * r.timerUs) (cfgCap r.cfg),
                 deadline := max s.now r.deadline + us (min (2 * r.timerUs) (cfgCap r.cfg)) } else x) ∧
      (∃ q, q.body = r.pkt.body ∧ flagResend q.hdr = true ∧ invariantHdr q.hdr = invariantHdr r.pkt.hdr ∧
        ((∀ port, r.kind ≠ .mgmt (some port)) → (∀ m, r.kind ≠ .ownXfer m) → u.out = s.out ++ [.packet r.unit q]) ∧
        (∀ m, r.kind = .ownXfer m → u.out = s.out ++ [.ownXfer r.unit { m with hdr := q.hdr }]))) ∧
    (cfgTries r.cfg ≤ r.tries → exec (.resendTimeout id) s =
      .next (settle (reqFail (countPkt (advanceTo s r.deadline) r.unit .timeout) r stTimeout))))

/-- Combining at a reduction die (R219, R220): a packet that cannot be combined goes on unchanged, a COMBINED_ADD counted as sent; a
combinable one waits in the window for its target, or opens one; a window of one packet sends it unchanged (a COMBINED_ADD
counts as sent, R235), and one of more sends a single COMBINED_ADD for the same target; at the home each constituent takes the
steps of R82 as its own packet. -/
def Obligations.CombiningWindows : Prop :=
  (∀ (p : Packet) (d : Nat) (s : State), s.mode = .service → combineDie s p.hdr = some d →
    (combinable s p = none →
      (p.hdr.ptype ≠ tyColl → exec (.combinablePacketArrive p) s = .next (emit s (.packet (unitAri d) p))) ∧
      (p.hdr.ptype = tyColl →
        exec (.combinablePacketArrive p) s = .next (bump (emit s (.packet (unitAri d) p)) (ariBase d + 0x604)))) ∧
    (∀ wide l, combinable s p = some (wide, l) → ∃ t, exec (.combinablePacketArrive p) s = .next t ∧ t.out = s.out ∧ t.mem = s.mem ∧
      t.reqs = s.reqs ∧ ((t.windows.map (·.total)).sum = (s.windows.map (·.total)).sum + l.length) ∧
      ((∀ w ∈ s.windows, takesInto s d p l.length w = false) →
        t.windows = s.windows ++ [{ die := d, pkts := [p], total := l.length, closeAt := s.now + windowCycles }]))) ∧
  (∀ (d : Nat) (w : Window) (s : State), s.mode = .service → nextWindow s d = some w →
    (∀ p, w.pkts = [p] → ∃ t, exec (.combineWindowClose d) s = .next t ∧ t.windows = s.windows.erase w ∧
      t.out = s.out ++ [.packet (unitAri w.die) p] ∧ t.mem = s.mem ∧ t.reqs = s.reqs ∧ (∀ o, o ≠ ariBase w.die + 0x604 → reg t o = reg s o) ∧
      reg t (ariBase w.die + 0x604) = (if p.hdr.ptype = tyColl ∧ reg s (ariBase w.die + 0x604) ≠ 0xFFFFFFFF
        then reg s (ariBase w.die + 0x604) + 1 else reg s (ariBase w.die + 0x604))) ∧
    (∀ p q l, w.pkts = p :: q :: l → (∀ x ∈ w.pkts, (combinable s x).isSome = true) →
      nextNonce s (unitAri w.die) (burgeeCtx p.hdr) (burgeeEpoch p.hdr) < 2 ^ 52 →
      ∃ t sent, exec (.combineWindowClose d) s = .next t ∧ t.windows = s.windows.erase w ∧ t.out = s.out ++ [.packet (unitAri w.die) sent] ∧
        sent.hdr.ptype = tyColl ∧ sent.hdr.opcode = 0x10 ∧ sent.hdr.dst = p.hdr.dst ∧ sent.hdr.burgee = p.hdr.burgee ∧
        sent.hdr.region = p.hdr.region ∧ sent.hdr.offset = p.hdr.offset ∧ t.reqs.length = s.reqs.length + 1 ∧ t.mem = s.mem)) ∧
  (∀ (p : Packet) (hu : HomeUnit) (payload : Bytes) (s : State), p.hdr.ptype = tyColl → p.hdr.opcode = 0x10 →
    Opens s hu p payload →
    combinedOk p.hdr payload = true →
    (let l := (List.range (fieldAt payload 0 2)).map (constituent p.hdr payload)
     exec (.combinedAdd p) s = .next (settle (l.foldl (fun s q => sequence s hu q)
       { s with combIn := s.combIn.filter (fun e => decide (invariantHdr e.1 ≠ invariantHdr p.hdr)) ++ [(p.hdr, l.map (fun q => (streamOf q.hdr, q.hdr.seq)))] }))))
/-! ## Notices between modules -/

/-- BLOCK_RESTART on an UP fabric port (R85), which takes the steps of R82 at the module's own fabric ID: what is known already is
only acknowledged; a new generation is taken, and what the home kept of the fabric ID's streams is gone; a payload that is not
laid out as R86 gives it is malformed. The repeat 10 ms later goes out on every fabric port, and a spare's quiet time ends.
ROUTE_WITHDRAW and ROUTE_RESTORE on an UP fabric port (R551, R552): a withdrawal excludes the port for each fabric ID, or for
all, where the table has room; a restoration ends those exclusions and no others. A fabric ID that is reachable again is
announced once 10 ms have passed since its withdrawal. -/
def Obligations.FabricNotices : Prop :=
  (∀ (p : Nat) (pkt : Packet) (bs : Bytes) (f : Fid) (g : BitVec 4) (s : State), configurable s = true →
    (portUp s p = true → attachMode s p = false → MgmtOpens s mgBlockRestart pkt bs →
      (restartOk bs = false → exec (.blockRestart p pkt) s = .next (settle (refuseMalformed s (unitMgmt s) pkt.hdr))) ∧
      (restartOk bs = true → restartEntries bs = [(f, g)] →
        (genOf s f = g → exec (.blockRestart p pkt) s = .next (settle (ackMgmt s pkt.hdr))) ∧
        (genOf s f ≠ g → ∃ u, exec (.blockRestart p pkt) s = .next (settle u) ∧
          (∀ e ∈ u.homeStreams, e.1.src ≠ f) ∧ (∀ e ∈ u.ledger, e.key.src ≠ f) ∧
          ((∀ r ∈ s.reqs, r.pkt.hdr.dst ≠ f) → genOf u f = g ∧ (∀ f', f' ≠ f → genOf u f' = genOf s f') ∧ u.mem = s.mem ∧ u.cmds = s.cmds)))) ∧
    (∀ t, Tab.get? s.repeatAt f = some t → ∃ u, exec (.blockRestartRepeat f) s = .next u ∧ Tab.get? u.repeatAt f = none ∧
      u.now = max s.now t ∧ u.reqs.length = s.reqs.length + (if (ownFid s).isSome then (fabricPorts s).length else 0) ∧
      u.gens = s.gens ∧ u.mem = s.mem) ∧
    (∀ b t, Tab.get? s.quietUntil b = some t →
      exec (.spareBlockQuietExpiry b) s = .next (settle (advanceTo { s with quietUntil := Tab.del s.quietUntil b } t)))) ∧
  (∀ (p : Nat) (pkt : Packet) (bs : Bytes) (s : State), configurable s = true →
    (portUp s p = true → attachMode s p = false → routeOk bs = true →
      (let all := routeAll bs
       let fids := routeFids bs
       (MgmtOpens s mgRouteWithdraw pkt bs → exclUsed s + fids.length < exclSize →
         ∃ u, exec (.routeWithdraw p pkt) s = .next (settle u) ∧
           (∀ f ∈ fids, excluded u f p = true) ∧ (all = true → ∀ f, excluded u f p = true) ∧
           (∀ f q, q ≠ p → excluded u f q = excluded s f q) ∧ u.mem = s.mem ∧ u.mode = s.mode) ∧
       (MgmtOpens s mgRouteRestore pkt bs →
         ∃ u, exec (.routeRestore p pkt) s = .next (settle u) ∧ (all = true → ∀ f, excluded u f p = false) ∧
           (∀ f ∈ fids, (f, p) ∉ u.switch.exclusions) ∧ (∀ f q, q ≠ p → excluded u f q = excluded s f q) ∧
           (all = false → ∀ f, f ∉ fids → excluded u f p = excluded s f p) ∧ u.mem = s.mem))) ∧
    (∀ f t, Tab.get? s.switch.withdrawn f = some t → s.mode = .service → unreachable s f = false →
      ∃ u, exec (.routeRestoreDelayExpiry f) s = .next u ∧ Tab.get? u.switch.withdrawn f = none ∧ u.now = max s.now (t + us 10000) ∧ u.mem = s.mem))
/-! ## The switch core -/

/-- No sampling session runs (R376). -/
def Sys2Proof.noSampling (s : State) : Prop := ∀ i, i < 4 → regBit s (mgBase + 0x4B0 + 8 * i) 31 = false

/-- Reassembly and egress with no swap in progress (R78, R355, R358, R362, R80): a cell that its plane holds is gathered, and with
its last one a packet is complete and is what its cells spell; one whose header shows an uncorrectable error is dropped and
counted; the cells that an ingress port sends pass their error code and spell the packet that they were cut from; a packet that
is not complete in time is gone and counted; the next packet of a port that can send leaves with the time that it spent in the
module and the cable that it came by added to its AGE, with HOPS one higher where it passes through the module (log 53), and
with every other field of its header as it was, COLOUR and the RESEND flag among them, or is dropped over age. -/
def Obligations.CellsAndEgress : Prop :=
  ∀ (p : Nat) (x : Transit) (s : State), configurable s = true → s.age.swap = none →
    (∀ c d : CellMsg, correctCell c = some d → portServes s p = true → c.plane ≠ noPlane → d.egress.toNat = p →
      s.switch.transits.find? (fun t => decide (t.ingress = d.ingress.toNat) && decide (t.packetId = d.packetId.toNat) && decide (t.egress = p)) = some x →
      d.index.toNat ∈ x.missing → x.complete = false → x.planes.getD d.index.toNat noPlane = d.plane →
      ∃ t y, exec (.cellArrive p c) s = .next t ∧ y ∈ t.switch.transits ∧ y.ingress = x.ingress ∧ y.packetId = x.packetId ∧
        y.missing = x.missing.filter (fun i => decide (i ≠ d.index.toNat)) ∧ y.got = x.got ++ [(d.index.toNat, d.payload.take d.valid.toNat)] ∧
        y.complete = y.missing.isEmpty ∧ y.firstAt.isSome = true ∧ y.pkt = (if y.missing.isEmpty then assembled y else x.pkt) ∧
        t.switch.transits.length = s.switch.transits.length ∧ t.regs = s.regs ∧ t.out = s.out ∧ t.mem = s.mem) ∧
    (∀ c : CellMsg, correctCell c = none → portServes s p = true → c.plane ≠ noPlane → ∃ t, exec (.cellArrive p c) s = .next t ∧
      reg t (xbBase c.plane + 0x104) = (if reg s (xbBase c.plane + 0x104) = 0xFFFFFFFF then 0xFFFFFFFF else reg s (xbBase c.plane + 0x104) + 1) ∧
      t.out = s.out ∧ t.mem = s.mem) ∧
    (∀ i, correctCell (cellOf x i) = some (cellOf x i)) ∧
    (x.cells = cellsOf (packetLen x.pkt) →
      x.got = (List.range x.cells).map (fun i => (i, (cellOf x i).payload.take (cellOf x i).valid.toNat)) → assembled x = x.pkt) ∧
    (∀ i pid f, s.switch.transits.find? (fun t => decide (t.ingress = i) && decide (t.packetId = pid) && decide (t.egress = p) && !t.complete) = some x →
      x.firstAt = some f → ∃ t, exec (.reassemblyTimeout p i pid) s = .next t ∧
        t.switch.transits = s.switch.transits.filter (fun y => !(decide (y.ingress = i) && decide (y.packetId = pid))) ∧
        reg t (ptBase p + 0x608) = (if reg s (ptBase p + 0x608) = 0xFFFFFFFF then 0xFFFFFFFF else reg s (ptBase p + 0x608) + 1) ∧
        t.out = s.out ∧ t.mem = s.mem) ∧
    (∀ s', nextPacket s p = some (x, s') → linkFree s p x = true →
      (let h := leaving s' p x
       (tooOld s' h = true → exec (.egressTransmit p) s = .next (bumpPort (leaveTransit s' x) p 0x600)) ∧
       (tooOld s' h = false → noSampling s → ∃ t, exec (.egressTransmit p) s = .next t ∧ (.wire p { x.pkt with hdr := h }) ∈ t.out ∧
         h = { x.pkt.hdr with age := h.age, hops := h.hops } ∧
         h.hops.toNat = (if x.ingress < 144 ∧ p < 144 then min 63 (x.pkt.hdr.hops.toNat + 1) else x.pkt.hdr.hops.toNat) ∧
         h.age.toNat = min 0xFFFF (x.pkt.hdr.age.toNat + ceilDiv ((s.now - x.arrival) * 5) 832 + (if x.ingress < 144 then 1 else 0)) ∧
         (∀ y ∈ t.switch.transits, ¬(y.ingress = x.ingress ∧ y.packetId = x.packetId)) ∧ t.mem = s.mem ∧ t.regs = s.regs)))

/-- A packet at an ingress port (R80, R356, R357, R367, R399): dropped at 32 hops and counted; at an external one also dropped and
counted in MAINT unless it is MGMT, without a route, and where its queue refuses it; an unmetered one that its queue's
reservation takes enters with its colour and all its cells missing where every plane has room for its cells (R358), and is
dropped where no plane has room for one. Nothing is sent. Rate limits (R370, R371): a notification that passes the steps of R82
at its block halves the block's limit for the hot fabric ID that it names, down to a 64th, or sets it to half the link rate; a
recovery step adds one 64th, and a limit at the link rate is gone. No other limit changes. -/
def Obligations.PacketsAndLimits : Prop :=
  (∀ (p : Nat) (pkt : Packet) (s : State), takesPackets s p = true →
    (32 ≤ pkt.hdr.hops.toNat → exec (.packetIngress p pkt) s = .next (bumpPort s p 0x604)) ∧
    (p < 144 → pkt.hdr.hops.toNat < 32 → s.mode = .maint → pkt.hdr.ptype ≠ tyMgmt → exec (.packetIngress p pkt) s = .next (bumpPort s p 0x618)) ∧
    (p < 144 → pkt.hdr.hops.toNat < 32 → s.mode = .service → packetLen pkt = promisedLen pkt.hdr → flagHalyard pkt.hdr = false →
      regBit s (ptBase p + 0x720 + 4 * clsOf pkt.hdr) 31 = false →
      (let col : BitVec 2 := if pkt.hdr.colour = 3 then 2 else pkt.hdr.colour
       let h : Header := { pkt.hdr with colour := col }
       (routeOf s p h = .noRoute →
         exec (.packetIngress p pkt) s = .next (logRoute (countEvent s (mgBase + 0x414) (mgBase + 0x410) 0) h.dst.toNat p 367)) ∧
       (∀ e, routeOf s p h = .to e →
         (admission s e (clsOf h) (cellsOf (promisedLen h)) = .refuse → ∃ t, exec (.packetIngress p pkt) s = .next t ∧
           t.switch.transits = s.switch.transits ∧ t.out = s.out ∧ t.mem = s.mem ∧
           reg t (ptBase e + 0x60C) = (if reg s (ptBase e + 0x60C) = 0xFFFFFFFF then 0xFFFFFFFF else reg s (ptBase e + 0x60C) + 1)) ∧
         (admission s e (clsOf h) (cellsOf (promisedLen h)) = .reserved → (∀ d ∈ planesInService s, d < 18) → noSampling s →
           regBit s (mgBase + 0x408) 31 = false →
           ((∀ d ∈ planesInService s, planeRoom s e (clsOf h) none d 0 = false) → ∃ t, exec (.packetIngress p pkt) s = .next t ∧
             t.switch.transits = s.switch.transits ∧ t.out = s.out ∧ t.mem = s.mem) ∧
           (planesInService s ≠ [] → (∀ d ∈ planesInService s, ∀ m, m < cellsOf (promisedLen h) → planeRoom s e (clsOf h) none d m = true) →
            ∃ t x, exec (.packetIngress p pkt) s = .next t ∧ t.switch.transits = s.switch.transits ++ [x] ∧ x.ingress = p ∧ x.egress = e ∧ x.pkt = { pkt with hdr := h } ∧
             x.cells = cellsOf (promisedLen h) ∧ x.missing = List.range x.cells ∧ x.complete = false ∧ x.arrival = s.now ∧
             (∀ d ∈ x.planes, d ∈ planesInService s) ∧ t.out = s.out ∧ t.regs = s.regs ∧ t.mem = s.mem)))))) ∧
  (∀ (b : Nat) (f : Fid) (pkt : Packet) (s : State), s.mode = .service →
    (pkt.hdr.ptype = tyMgmt → pkt.hdr.opcode = 0x40 → blockOfFid s pkt.hdr.dst = some b → isQuiet s b = false →
      (tooOld s pkt.hdr = true → exec (.congNotify pkt) s = .next (countPkt s (unitOfBlock s b) .ageDrop)) ∧
      (tooOld s pkt.hdr = false → malformed s pkt = false → bits (leNat pkt.body) 31 19 = 0 → pkt.hdr.dgen = genOf s pkt.hdr.dst →
        pkt.hdr.sgen = genOf s pkt.hdr.src → burgeeDead s pkt.hdr = false → (∃ bs, openPacket s pkt = .ok bs) →
        f = BitVec.ofNat 16 (bits (leNat pkt.body) 15 0) → (∀ l, limitOf s b f = some l → l.rate < 64) →
        ((limitOf s b f).isSome = true ∨ (s.limits.filter (fun l => decide (l.block = b))).length < 256) →
        ∃ t, exec (.congNotify pkt) s = .next t ∧
          (limitOf t b f).map (·.rate) = some (match limitOf s b f with
            | some l => max 1 (l.rate / 2)
            | none => 32) ∧
          (∀ b' f', (b', f') ≠ (b, f) → limitOf t b' f' = limitOf s b' f') ∧ t.mem = s.mem ∧ t.regs = s.regs ∧ t.out = s.out)) ∧
    (∀ l, limitOf s b f = some l → ∃ u, exec (.rateLimitRecover b f) s = .next (settle u) ∧
      (l.rate + 1 < 64 → (limitOf u b f).map (·.rate) = some (l.rate + 1)) ∧ (64 ≤ l.rate + 1 → limitOf u b f = none) ∧
      (∀ b' f', (b', f') ≠ (b, f) → limitOf u b' f' = limitOf s b' f') ∧ u.mem = s.mem ∧ u.regs = s.regs))
/-! ## Ports: cables, training, lanes, frames -/

/-- Cable bring-up by the steps of R402 on a port that is not UP, with the application and the equalisation written in step 3, and
the polls of R403 while a cable is present, whichever step it is in: a stuck SDA alone asserts RESET_N. -/
def Obligations.CableSteps : Prop :=
  ∀ (p : Nat) (s : State), portsRun s = true → (portOf s p).state = .down →
    (let r := portOf s p
     (portEnabled s p = true → r.cable = .absent → ∃ t, exec (.cableInsert p) s = .next t ∧ portOf t p = { r with present := true, cable := .waitLowPwr } ∧
       t.out = s.out ++ [.sideband p sbReleaseReset] ∧ t.regs = s.regs) ∧
     (portEnabled s p = false → exec (.cableInsert p) s = .next (setPort s p { r with present := true })) ∧
     (∀ rev ok, r.cable = .waitLowPwr →
       (rev.toNat / 16 = 5 → ok = true → ∃ t, exec (.cableModuleLowPwr p rev ok) s = .next t ∧ portOf t p = { r with cable := .waitReady } ∧
         t.out = s.out ++ [.cableSelect p (Config.appSel p) (Config.equalisation p), .sideband p sbLeaveLowPwr] ∧ t.regs = s.regs) ∧
       ((rev.toNat / 16 ≠ 5 ∨ ok = false) → ∃ t, exec (.cableModuleLowPwr p rev ok) s = .next t ∧ (portOf t p).cable = .failed ∧
         (portOf t p).cause = caCableFault ∧ (portOf t p).retryAt = s.now + us 1000000 ∧ t.host.eventSeq = s.host.eventSeq + 1)) ∧
     (r.cable = .waitReady → ∃ t, exec (.cableModuleReady p) s = .next t ∧ portOf t p = { r with cable := .waitDp } ∧
       t.out = s.out ++ [.sideband p sbApplyDpInit] ∧ t.regs = s.regs) ∧
     (r.cable = .waitDp → r.swap = none → ∃ t, exec (.cableDpActivated p) s = .next t ∧ (portOf t p).cable = .ready ∧
       (portEnabled s p = true → 4 ≤ laneCount (usableLanes r) → (portOf t p).state = .training) ∧ t.out = s.out ∧ t.mem = s.mem) ∧
     (∀ n, (r.cable = .waitLowPwr ∨ r.cable = .waitReady ∨ r.cable = .waitDp) → ∃ t, exec (.cableBringupFail p n) s = .next t ∧
       (portOf t p).cable = .failed ∧ (portOf t p).state = .down ∧ (portOf t p).cause = caCableFault ∧
       (portOf t p).retryAt = s.now + us 1000000) ∧
     (r.cable = .failed → portEnabled s p = true → ∃ t, exec (.cableRetryExpiry p) s = .next t ∧ (portOf t p).cable = .waitLowPwr ∧
       t.now = max s.now r.retryAt ∧ t.out = s.out ++ [.sideband p sbReleaseReset]) ∧
     (∃ u, exec (.cableRemove p) s = .next (settle u) ∧ (portOf u p).present = false ∧ (portOf u p).cable = .absent ∧
       (portOf u p).state = .down ∧ (portOf u p).cause = caNoCable ∧ (portOf u p).lane8On = false ∧
       (∀ q, q ≠ p → portOf u q = portOf s q) ∧ (lane8InTest r = false → u.mem = s.mem ∧ u.out = s.out)) ∧
     (r.present = true →
       exec (.cablePoll p { warning := false, monitor := false, alarm := false, lossLock := false, txFault := false }) s = .next s ∧
       (∀ m, exec (.cablePoll p { warning := true, monitor := m, alarm := false, lossLock := false, txFault := false }) s =
         .next (logPort (countEvent s (ptBase p + 0x30) (ptBase p + 0x14) 3) p r.cause.toNat 0 403)) ∧
       (∃ u, exec (.cablePoll p { warning := false, monitor := false, alarm := true, lossLock := false, txFault := false }) s = .next (settle u) ∧
         (portOf u p).cable = (if portEnabled s p = true then .waitLowPwr else .absent) ∧ (portOf u p).cause = caCableFault ∧
         (portOf u p).state = .down ∧ (.sideband p sbAssertReset ∈ u.out → .sideband p sbAssertReset ∈ s.out)) ∧
       exec (.sdaStuck p false) s = .next (emit s (.sideband p sbClock)) ∧
       (∃ u, exec (.sdaStuck p true) s = .next (settle u) ∧ (portOf u p).cause = caCableFault ∧ .sideband p sbAssertReset ∈ u.out ∧
         (portOf u p).cable = (if portEnabled s p = true then .waitLowPwr else .absent))))

/-- A control frame of a kind with a body, its CRC right and its reserved bits zero. -/
def Sys2Proof.Ctl (frame : Bytes) (kind : Nat) (body : Bytes) : Prop :=
  frame ≠ idleWord ∧ readFrame frame = some { kind := kind, vc := 0, sent := 0, clean := true, body := body }

/-- Training and its end (R400, R404 to R406, R408, R415, R417): once every usable lane has locked, LINK_INIT goes out with their
mask; a partner's LINK_INIT under a new incarnation starts the channels afresh, and one that fits is acknowledged with the lane
set of both masks; the same set from the partner makes the port UP on it, and another one is a violation; 500 ms start it over;
LOS ends an attempt, and the port trains again where R400 lets it. What the receiver finds in its codewords is counted, and more
than 32 uncorrectable ones in 10 µs end an attempt too, and count a loss where the port was UP. -/
def Obligations.LinkTraining : Prop :=
  ∀ (p : Nat) (s : State), portsRun s = true →
    (let r := portOf s p
     (r.state = .training → ∀ lanes,
       (usableLanes r &&& ~~~(r.aligned ||| lanes) ≠ 0 → ∃ t, exec (.lanesAligned p lanes) s = .next t ∧
         (portOf t p).initSent = r.initSent ∧ t.out = s.out ∧ t.regs = s.regs ∧ t.mem = s.mem) ∧
       (r.peerInit = none → usableLanes r &&& ~~~(r.aligned ||| lanes) = 0 → ∃ t, exec (.lanesAligned p lanes) s = .next t ∧
         (portOf t p).initSent = true ∧ t.out = s.out ++ [.link p (linkFrame fkLinkInit 0 0 (linkInitBytes s p))] ∧
         (linkInitBytes s p).length = 32 ∧ fieldAt (linkInitBytes s p) 4 2 = (usableLanes r).toNat ∧ t.regs = s.regs ∧ t.mem = s.mem)) ∧
     (∀ frame b, Ctl frame fkLinkInit b →
       (initOk b = false → r.state ≠ .down → exec (.linkInit p frame) s = .next (settle (badControl s p))) ∧
       (initOk b = true →
         (let m := initOf b
          (r.state = .training → r.initSent = false → ∃ u, exec (.linkInit p frame) s = .next (settle u) ∧ (portOf u p).peerInit = some m ∧
            (portOf u p).lastInc = some m.incarnation ∧ (portOf u p).state = .training ∧
            (r.lastInc ≠ some m.incarnation → (portOf u p).newInc = true ∧ (portOf u p).vcs = freshVcs (attachMode s p) m.limits ∧
              (portOf u p).kept = []) ∧ (r.lastInc = some m.incarnation → (portOf u p).vcs = r.vcs) ∧ u.out = s.out) ∧
          (∀ l, r.state = .training → r.initSent = true → r.mySet = none → initFits s p m = true → laneSet (usableLanes r) m.lanes = some l →
            ∃ u, exec (.linkInit p frame) s = .next (settle u) ∧ (portOf u p).mySet = some l ∧
              u.out = s.out ++ [.link p (linkFrame fkInitAck 0 0 (toLe 2 l.toNat ++ zeros 6))]) ∧
          (r.state = .up → exec (.linkInit p frame) s = .next (settle (badControl s p)))))) ∧
     (∀ frame b l m, Ctl frame fkInitAck b → ackOk b = true → r.state = .training → r.mySet = some l → r.peerInit = some m →
       (ackLanes b = l → ∃ u, exec (.initAck p frame) s = .next (settle u) ∧ (portOf u p).state = .up ∧ (portOf u p).active = l ∧
         regField u (ptBase p + 0x10) 23 16 = m.port.toNat ∧ (l.getLsbD 8 = false → u.mem = s.mem)) ∧
       (ackLanes b ≠ l → exec (.initAck p frame) s = .next (settle (badControl s p)))) ∧
     (∀ frame b, Ctl frame fkInitAck b → ackOk b = true → r.state = .training → r.mySet = none →
       exec (.initAck p frame) s = .next (settle (badControl s p))) ∧
     (r.state = .training → r.cause ≠ caInitMismatch → r.cause ≠ caLanesShort → ∃ t, exec (.trainingTimeout p) s = .next t ∧
       (portOf t p).state = .training ∧ (portOf t p).aligned = 0 ∧ (portOf t p).initSent = false ∧ (portOf t p).peerInit = none ∧
       (portOf t p).restartLogged = true ∧ t.now = max s.now (r.trainingAt + us 500000) ∧
       t.host.eventSeq = s.host.eventSeq + (if r.restartLogged then 0 else 1)) ∧
     (r.state = .training → ∀ lanes,
       ((portEnabled s p = false ∨ r.cable ≠ .ready) → ∃ u, exec (.los p lanes) s = .next (settle u) ∧ (portOf u p).state = .down ∧
         (portOf u p).cause = caLos ∧ u.regs = s.regs ∧ u.mem = s.mem) ∧
       (portEnabled s p = true → r.cable = .ready → 4 ≤ laneCount (usableLanes r) → ∃ u, exec (.los p lanes) s = .next (settle u) ∧
         (portOf u p).state = .training ∧ (portOf u p).trainingAt = s.now ∧ (portOf u p).aligned = 0 ∧ (portOf u p).initSent = false ∧
         u.regs = s.regs ∧ u.mem = s.mem)) ∧
     (r.state = .up → ∀ lanes, lanes &&& r.active = 0 → exec (.los p lanes) s = .next (settle s)) ∧
     (∀ c n : Nat, (let w := r.fecWindow.filter (fun w => decide (s.now < w.1 + us 10)) ++ [(s.now, n)]
       let s1 := updPort (bumpBy (bumpBy s (ptBase p + 0x1C) c) (ptBase p + 0x20) n) p (fun r => { r with fecWindow := w })
       (r.state = .down → exec (.fecFail p c n) s = .next s) ∧
       (r.state ≠ .down → (w.map Prod.snd).sum ≤ 32 → exec (.fecFail p c n) s = .next s1) ∧
       (r.state = .training → 32 < (w.map Prod.snd).sum →
         ((portEnabled s p = false ∨ r.cable ≠ .ready) → ∃ u, exec (.fecFail p c n) s = .next (settle u) ∧ (portOf u p).state = .down ∧
           (portOf u p).cause = caFecFail ∧ u.regs = s1.regs ∧ u.mem = s.mem) ∧
         (portEnabled s p = true → r.cable = .ready → 4 ≤ laneCount (usableLanes r) → ∃ u, exec (.fecFail p c n) s = .next (settle u) ∧
           (portOf u p).state = .training ∧ (portOf u p).trainingAt = s.now ∧ u.regs = s1.regs ∧ u.mem = s.mem)) ∧
       (r.state = .up → 32 < (w.map Prod.snd).sum → exec (.fecFail p c n) s =
         .next (settle (tryTrain (takeDown (countEvent s1 (ptBase p + 0x18) (ptBase p + 0x14) 0) p caFecFail) p))))))

/-- The hitless swap of a lane onto lane 8 of an UP port (R407): a partner's request begins it; lock at the partner answers it; the
asking end names its marker, 4 ahead of those that it has sent, on the answer and its own lock, and the partner names one in
return; each direction switches at its marker, up to which the naming frame goes out again in each marker interval, and the
second one ends the swap with lane 8 in the lane's place; 10 ms without an answer give it up. -/
def Obligations.LaneSwapSteps : Prop :=
  ∀ (p : Nat) (s : State), portsRun s = true → (portOf s p).state = .up →
    (let r := portOf s p
     (∀ (frame b : Bytes), swapOk b = true →
       (let lane := (byteAt b 0).toNat
        let mk : Word := BitVec.ofNat 32 (fieldAt b 4 4)
        (Ctl frame fkSwapReq b → byteAt b 1 = 0 → r.swap = none →
          (canSwap s p lane = true → ∃ u, exec (.swapReq p frame) s = .next (settle u) ∧
            (portOf u p).swap = some (newSwap lane false s.now) ∧ (portOf u p).lane8On = true ∧
            (r.lane8On = false → u.out = s.out ++ [.sideband p sbLane8On])) ∧
          (canSwap s p lane = false → exec (.swapReq p frame) s = .next (settle (badControl s p)))) ∧
        (Ctl frame fkSwapReady b → r.swap = none → exec (.swapReady p frame) s = .next (settle (badControl s p))) ∧
        (∀ w : LaneSwap, r.swap = some w → w.lane = lane →
          (Ctl frame fkSwapReq b → byteAt b 1 = 1 → w.initiator = false → w.lane8Locked = true → w.peerNamed = false →
            ∃ u, exec (.swapReq p frame) s = .next (settle u) ∧
              (portOf u p).swap = some { w with peerNamed := true, peerMarker := mk, named := true, marker := nextMarker s r, copied := markersSent s r } ∧
              u.out = s.out ++ [.link p (linkFrame fkSwapReady 0 0 (swapBytes w.lane true (nextMarker s r)))]) ∧
          (Ctl frame fkSwapReady b → byteAt b 1 = 0 → w.initiator = true → w.asked = true → w.readySeen = false →
            (w.lane8Locked = true → ∃ u, exec (.swapReady p frame) s = .next (settle u) ∧
              u.out = s.out ++ [.link p (linkFrame fkSwapReq 0 0 (swapBytes w.lane true (nextMarker s r)))]) ∧
            (w.lane8Locked = false → ∃ u, exec (.swapReady p frame) s = .next (settle u) ∧ u.out = s.out ∧
              (portOf u p).swap = some { w with readySeen := true, startedAt := s.now })) ∧
          (Ctl frame fkSwapReady b → byteAt b 1 = 1 → w.initiator = true → w.asked = true → w.named = true → w.peerNamed = false →
            ∃ u, exec (.swapReady p frame) s = .next (settle u) ∧
              (portOf u p).swap = some { w with peerNamed := true, peerMarker := mk } ∧ u.out = s.out)))) ∧
     (∀ w : LaneSwap, r.swap = some w →
       (w.lane8Locked = false → w.initiator = false → ∃ t, exec (.spareLaneLock p) s = .next t ∧
         (portOf t p).swap = some { w with lane8Locked := true, startedAt := s.now } ∧
         t.out = s.out ++ [.link p (linkFrame fkSwapReady 0 0 (swapBytes w.lane false 0))]) ∧
       (w.lane8Locked = false → w.initiator = true → w.readySeen = false → ∃ t, exec (.spareLaneLock p) s = .next t ∧
         (portOf t p).swap = some { w with lane8Locked := true } ∧ t.out = s.out) ∧
       (w.named = true → w.txDone = false → w.rxDone = false → ∃ t, exec (.swapMarker p true) s = .next t ∧
         (portOf t p).swap = some { w with txDone := true } ∧ (portOf t p).active = r.active ∧ t.regs = s.regs ∧ s.now ≤ t.now ∧
         (∀ o ∈ t.out, o ∈ s.out ∨ o = .link p (linkFrame (if w.initiator then fkSwapReq else fkSwapReady) 0 0 (swapBytes w.lane true w.marker)))) ∧
       (w.peerNamed = true → w.txDone = true → w.rxDone = false → ∃ t, exec (.swapMarker p false) s = .next t ∧
         (portOf t p).swap = none ∧ (portOf t p).active = (r.active &&& ~~~((1 : BitVec 9) <<< w.lane)) ||| 0x100 ∧
         (portOf t p).state = .up ∧ (portOf t p).lane8InUse = true ∧ regBit t (mgBase + 0x500) detTopology = true ∧
         (portOf t p).lanesFailed = (if w.initiator then r.lanesFailed ||| (1 <<< w.lane) else r.lanesFailed) ∧ t.queues = s.queues) ∧
       (w.initiator = true → w.asked = true → w.named = false → ∃ t, exec (.swapTimeout p) s = .next t ∧ (portOf t p).swap = none ∧
         (portOf t p).lane8On = false ∧ (portOf t p).active = r.active ∧ (portOf t p).state = .up ∧ t.now = max s.now (w.startedAt + us 10000))))

/-- A fabric aperture access as it arrives. -/
def Sys2Proof.access (p : Nat) (tag : BitVec 16) (rd v : Bool) (c : CtxId) (w : BitVec 12) (a : DWord) (d : Bytes) (n : Nat) : Aperture :=
  { port := p, tag := tag, read := rd, vol := v, ctx := c, window := w, addr := a, data := d, len := n, sent := false }

/-- Link frames and attach transactions on an UP port (R416 to R433): a frame that is sent is read as it was built; one with a bad
CRC is counted; a repeated DATA frame is ignored, one beyond the credit is a violation, and the next one of a fabric port moves
RCVD on; CREDIT moves LIMIT; a microsecond brings a CREDIT frame; LINK_RETRY sends the kept frames again, which sets RESEND (log
220); an aperture access that breaks R424 ends with PROTOCOL, one of no context here with CONTEXT_GONE, and any other is put
with those that wait; a completion completes its request, one of no request is a violation, and 500 µs without one take the port
DOWN with its tag dead. -/
def Obligations.LinkFrames : Prop :=
  ∀ (p : Nat) (s : State), portsRun s = true → (portOf s p).state = .up →
    (let r := portOf s p
     (∀ (kind vc : Nat) (sent : Word) (body : Bytes), kind < 16 → vc < 4 → body.length ≤ 4168 → linkFrame kind vc sent body ≠ idleWord ∧
       readFrame (linkFrame kind vc sent body) = some { kind := kind, vc := vc, sent := sent, clean := true, body := body }) ∧
     (∀ frame c, frame ≠ idleWord → readFrame frame = none → c ∈ [Instr.dataFrameReceive p frame, .credit p frame, .linkRetry p frame,
         .linkInit p frame, .initAck p frame, .swapReq p frame, .swapReady p frame] → exec c s = .next (bumpPort s p 0x40)) ∧
     (∀ (frame : Bytes) (f : LinkFrame), frame ≠ idleWord → readFrame frame = some f → f.kind = fkData → (attachMode s p = true ∨ f.vc = 0) →
       (let v := vcOf r f.vc
        let un := creditUnits f.body.length
        (atOrBefore (f.sent + un) v.advertised = false →
          exec (.dataFrameReceive p frame) s = .next (settle (violation s p nakCreditOverrun f.vc f.sent))) ∧
        (atOrBefore (f.sent + un) v.advertised = true →
          (f.sent ≠ v.rcvd → atOrBefore f.sent v.rcvd = true → exec (.dataFrameReceive p frame) s = .next (settle s)) ∧
          (f.sent = v.rcvd → r.vcs.length = 4 → (attachMode s p = false ∨ (f.clean = true ∧ transactionOk f.vc f.body = true)) →
            ∃ u, exec (.dataFrameReceive p frame) s = .next (settle u) ∧ (vcOf (portOf u p) f.vc).rcvd = f.sent + un ∧
              (portOf u p).state = .up ∧ u.mem = s.mem ∧ u.regs = s.regs)))) ∧
     (∀ frame b, Ctl frame fkCredit b →
       (b.length ≠ 12 * vcCount s p → exec (.credit p frame) s = .next (settle (badControl s p))) ∧
       (b.length = 12 → attachMode s p = false → r.vcs.length = 4 → BitVec.ofNat 32 (fieldAt b 8 4) = (vcOf r 0).rcvd →
         ∃ u, exec (.credit p frame) s = .next (settle u) ∧ (vcOf (portOf u p) 0).limit = BitVec.ofNat 32 (fieldAt b 0 4) ∧
           (vcOf (portOf u p) 0).rcvd = (vcOf r 0).rcvd ∧ (portOf u p).state = .up ∧ u.mem = s.mem ∧ (r.waitTx = [] → u.regs = s.regs))) ∧
     (∃ t body, exec (.creditSendTimer p) s = .next t ∧ t.out = s.out ++ [.link p (linkFrame fkCredit 0 0 body)] ∧ body.length = 12 * vcCount s p ∧
       t.now = max s.now (r.lastCreditAt + us 1) ∧ (portOf t p).lastCreditAt = t.now ∧ t.regs = s.regs) ∧
     (∀ frame b, Ctl frame fkLinkRetry b → retryOk b = true → (attachMode s p = true → ∃ u, exec (.linkRetry p frame) s = .next (settle u) ∧
         (let again := r.kept.filter (fun k => decide (k.vc = (byteAt b 0).toNat) && atOrBefore (BitVec.ofNat 32 (fieldAt b 4 4)) k.sent)
          u.out = s.out ++ again.map (fun k => .link p (linkFrame fkData k.vc k.sent k.body)) ∧ u.ports = s.ports ∧
          (again = [] → u.regs = s.regs) ∧ (again ≠ [] → regBit u (mgBase + 0x500) detResend = true))) ∧
       (attachMode s p = false → exec (.linkRetry p frame) s = .next (settle (badControl s p)))) ∧
     (attachMode s p = true → ∀ (tag : BitVec 16),
       (∀ ctx window addr data len vol, apBusy s p tag = false → ∀ c a,
         ((c = .apWr p tag ctx window addr data ∧ a = access p tag false false ctx window addr data data.length) ∨
          (c = .apRd p tag ctx window addr len vol ∧ a = access p tag true vol ctx window addr (zeros len) len)) →
         (let s1 := { s with apertures := s.apertures ++ [a] }
          (apLegal addr a.len = false → exec c s = .next (settle (refuseAperture s1 a stProtocol))) ∧
          (apLegal addr a.len = true →
            ((definedAt s ctx (p / 2) = false ∨ inTeardown s ctx = true) →
              exec c s = .next (settle (refuseAperture s1 a stContextGone))) ∧
            (definedAt s ctx (p / 2) = true → inTeardown s ctx = false →
              exec c s = .next (settle (pumpApertures s1)))))) ∧
       (s.attReqs.find? (fun q => decide (q.port = p) && decide (q.tag = tag)) = none → ∀ st data,
         (tag ∈ r.dead → exec (.cpl p tag st data) s = .next (settle (bumpPort s p 0x4C))) ∧
         (tag ∉ r.dead → exec (.cpl p tag st data) s =
           .next (settle (violation s p nakMalformed 2 ((vcOf r 2).rcvd - creditUnits (16 + data.bytes.length)))))) ∧
       (∀ q st data, s.attReqs.find? (fun q => decide (q.port = p) && decide (q.tag = tag)) = some q →
         (st ≠ 0 → exec (.cpl p tag st data) s = .next (settle (complete s q st []))) ∧
         (st = 0 → q.op = opMwr → data.bytes = [] → exec (.cpl p tag st data) s = .next (settle (complete s q 0 []))) ∧
         (st = 0 → q.op = opMrd → data.bytes ≠ [] → q.data.length + data.bytes.length = q.len → data.last = true →
           data.addr.toNat = (q.addr + q.data.length) % spaceSize →
           exec (.cpl p tag st data) s = .next (settle (complete s q 0 (q.data ++ data.bytes)))) ∧
         (let u := updPort (takeDown (bumpPort (advanceTo s q.deadline) p 0x48) p caRetrain) p (fun x => { x with dead := [tag] })
          exec (.attachTimeout p tag) s = .next (settle (tryTrain u p)) ∧ (portOf (tryTrain u p) p).dead = [tag]))))

/-! ## Collectives: the packets -/

/-- The commands that bring a packet of a collective, with its type and opcode (R272, R273). -/
inductive Sys2Proof.CollRow : (Packet → Instr) → BitVec 4 → Byte → Prop where
  | go : CollRow .go tyCollCtrl ccGo
  | scan : CollRow .scan tyCollCtrl ccScan
  | anchors : CollRow .anchors tyCollCtrl ccAnchors
  | contrib : CollRow .contrib tyColl coContrib
  | partialSum (l : List Nat) : CollRow (fun p => .partialSum p l) tyColl coPartial
  | result : CollRow .result tyColl coResult
  | checked : CollRow .checked tyCollCtrl ccChecked
  | delivered : CollRow .delivered tyCollCtrl ccDelivered
  | commit : CollRow .commit tyCollCtrl ccCommit
  | retract : CollRow .retract tyCollCtrl ccRetract
  | done : CollRow .done tyColl coDone
  | finish : CollRow .finish tyCollCtrl ccFinish
  | provCrc : CollRow .provCrc tyCollCtrl ccProvCrc
  | provList : CollRow .provList tyCollCtrl ccProvList

/-- A packet of a type and opcode that reaches a destination in SERVICE, and one that passes steps 1 to 5 of R82 there and spells a
message. -/
def Sys2Proof.Reaches (s : State) (p : Packet) (ty : BitVec 4) (o : Byte) (at_ : CollAt) : Prop :=
  inService s = true ∧ p.hdr.ptype = ty ∧ p.hdr.opcode = o ∧ collAt s p.hdr = some at_ ∧ (∀ b, at_ = .member b → isQuiet s b = false)
def Sys2Proof.Brings (s : State) (p : Packet) (ty : BitVec 4) (o : Byte) (at_ : CollAt) (m : CollMsg) : Prop :=
  Reaches s p ty o at_ ∧ ∃ bs, openSteps s (collUnitAt s at_ p.hdr) (collKnown s at_ p.hdr) p = .ok bs ∧ collMsgOf p.hdr bs = some m

/-- What R271 tells two messages of a collective apart by. -/
def Sys2Proof.seenEntry (m : CollMsg) : Fid × Byte × Nat × Nat × Nat := (m.src, opCode m, m.chunk, m.tryNo, m.first)

/-- A collective's record with a message entered in it, and the module once it has acknowledged that message. -/
def Sys2Proof.entered (c : Coll) (m : CollMsg) : Coll := { c with seen := c.seen ++ [seenEntry m] }
def Sys2Proof.taken (s : State) (u : Nat) (c : Coll) (m : CollMsg) : State :=
  updColl (sendAck s u m.hdr) c.key (fun c => entered c m)

/-- A state whose output is that of another and one ACK of a unit. -/
def Sys2Proof.AckedBy (s v : State) (u : Nat) : Prop := ∃ a, v.out = s.out ++ [.packet u a] ∧ a.hdr.ptype = tyAck

/-- A message of a collective that the module holds, of the group's epoch and context, neither stale (which one that concerns no
chunk cannot be) nor a duplicate. -/
def Sys2Proof.Held (s : State) (m : CollMsg) (p : Plan) (c : Coll) : Prop :=
  planAt s m.group m.epoch = some p ∧ p.ctx = m.ctx ∧ collOf s (keyOf m) = some c ∧ (ofChunk m = true → c.tryOf m.chunk ≤ m.tryNo) ∧ seenEntry m ∉ c.seen
def Sys2Proof.CollIn (s : State) (q : Packet) (ty : BitVec 4) (o : Byte) (m : CollMsg) (p : Plan) (c : Coll) : Prop :=
  Brings s q ty o .module m ∧ Held s m p c

/-- The chunk and the piece that a message concerns. -/
def Sys2Proof.chunkIn (t : State) (m : CollMsg) : Option ChunkSt := (collOf t (keyOf m)).bind (fun c => c.chunkAt m.chunk)
def Sys2Proof.pieceIn (t : State) (m : CollMsg) : Option Piece := (chunkIn t m).bind (fun x => x.pieceAt m.first)

/-- How a packet of a collective is received (R24, R82, R261, R271, R619): it takes steps 1 to 5 of R82 in order at the unit that it
is steered to; one that spells no message is malformed; data that a reduction die has added before it fails its check is no NAK.
A message is acknowledged, and has no further effect where its epoch or context is not current, or the try of the chunk that it
concerns (counted), where no such collective is held, or where the same message came before. -/
def Obligations.CollectiveReception : Prop :=
  ∀ (s : State) (i : Packet → Instr) (ty : BitVec 4) (o : Byte) (q : Packet) (at_ : CollAt), CollRow i ty o → Reaches s q ty o at_ →
    (let h := q.hdr
     let u := collUnitAt s at_ h
     let known := collKnown s at_ h
     (tooOld s h = true → exec (i q) s = .next (settle (countPkt s u .ageDrop))) ∧
     (tooOld s h = false → malformed s q = true → exec (i q) s = .next (settle (refuseMalformed s u h))) ∧
     (tooOld s h = false → malformed s q = false → known = false → exec (i q) s = .next (settle (sendNak s u h nakNoContext))) ∧
     (tooOld s h = false → malformed s q = false → known = true →
       (h.dgen ≠ genOf s h.dst → exec (i q) s = .next (settle (sendNak s u h nakStaleGen))) ∧
       (h.dgen = genOf s h.dst → h.sgen ≠ genOf s h.src → exec (i q) s = .next (settle (countPkt s u .genDrop))) ∧
       (h.dgen = genOf s h.dst → h.sgen = genOf s h.src →
         (burgeeDead s h = true → exec (i q) s = .next (settle (countPkt s u .burgeeDrop))) ∧
         (burgeeDead s h = false →
           ((∃ b, at_ = .member b) ∨ ty = tyCollCtrl ∨ o = coResult ∨ o = coDone →
             (∀ bs, openPacket s q = .tagFail bs → exec (i q) s = .next (settle (sendNak (countPkt s u .tagFail) u h nakTagFail))) ∧
             (∀ bs, openPacket s q = .crcFail bs → exec (i q) s = .next (settle (sendNak (countPkt s u .crcFail) u h nakCrcFail)))) ∧
           (∀ bs, openPacket s q = .ok bs → collMsgOf h bs = none → exec (i q) s = .next (settle (refuseMalformed s u h)))))) ∧
     (∀ m, at_ = .module → Brings s q ty o .module m →
       (planAt s m.group m.epoch = none → exec (i q) s = .next (settle (countStale (sendAck s u h)))) ∧
       (∀ p, planAt s m.group m.epoch = some p →
         (p.ctx ≠ m.ctx → exec (i q) s = .next (settle (countStale (sendAck s u h)))) ∧
         (p.ctx = m.ctx → collOf s (keyOf m) = none → exec (i q) s = .next (settle (sendAck s u h))) ∧
         (∀ c, p.ctx = m.ctx → collOf s (keyOf m) = some c →
           (ofChunk m = true → m.tryNo < c.tryOf m.chunk → exec (i q) s = .next (settle (countStale (sendAck s u h)))) ∧
           ((ofChunk m = true → c.tryOf m.chunk ≤ m.tryNo) → seenEntry m ∈ c.seen → exec (i q) s = .next (settle (sendAck s u h))) ∧
           (Held s m p c → ∃ t, exec (i q) s = .next t)))) ∧
     AckedBy s (sendAck s u h) u ∧ (sendAck s u h).colls = s.colls ∧ (sendAck s u h).regs = s.regs)

/-- What the messages of a chunk's reduction do at a module (R46, R259 to R263, R268): GO marks the phase and adds the range; SCAN
and ANCHORS are kept; CONTRIB and PARTIAL are added element by element to the piece, one that fails its check makes the piece
corrupt; RESULT goes down to the children; CHECKED and DELIVERED are counted; COMMIT ends the chunk where the group is ACTIVE,
RETRACT begins it again under the new try. -/
def Obligations.CollectiveAtModule : Prop :=
  ∀ (s : State) (q : Packet) (m : CollMsg) (p : Plan) (c : Coll) (x : ChunkSt), c.chunkAt m.chunk = some x → x.tryNo = m.tryNo →
    (let k := keyOf m
     let u := unitMgmt s
     let du := collUnit s k m.chunk
     let here := fun (ty : BitVec 4) (o : Byte) => CollIn s q ty o m p c
     (∀ n, m.body = .go .data n → here tyCollCtrl ccGo → ∃ v, exec (.go q) s = .next (settle (cutAll v p k)) ∧
       chunkIn v m = some { x with dataGone := true, ranges := x.ranges ++ [(m.first, n)] } ∧ AckedBy s v u) ∧
     (∀ n, m.body = .go .scan n → here tyCollCtrl ccGo → ∃ v, chunkIn v m = some { x with scanGone := true, scanAt := s.now } ∧ AckedBy s v u ∧
       (mayGo s m.group = false → exec (.go q) s = .next (settle v)) ∧
       (mayGo s m.group = true → exec (.go q) s = .next (settle (tellKids v p (entered c m)
         ((kidsOf p (me s)).filter (fun f => kidGives p c.fields f m.chunk 0 n)) m.chunk 0 m.tryNo (.go .scan n))))) ∧
     (∀ ws, m.body = .scan ws → here tyCollCtrl ccScan →
       (let x1 := { x with scans := x.scans ++ [(m.src, m.first / 256, ws)] }
        let n := groupsOf c.fields p.members.length m.chunk
        let kids := (kidsOf p (me s)).filter (fun f => kidGives p c.fields f m.chunk 0 (chunkSize c.fields p.members.length m.chunk))
        let all := kids.foldl (fun acc f => List.zipWith scanMax acc ((scanOf x1 f n).getD [])) (List.replicate n (0x8000 : BitVec 16))
        ∃ v, AckedBy s v u ∧ ((x.scanSent = true ∨ kids.all (fun f => (scanOf x1 f n).isSome) = false) →
           exec (.scan q) s = .next (settle v) ∧ chunkIn v m = some x1) ∧
         (x.scanSent = false → kids.all (fun f => (scanOf x1 f n).isSome) = true → rootOfChunk p m.chunk ≠ me s →
           exec (.scan q) s = .next (settle ((wordPackets all).foldl (fun t w => tellUp t p (entered c m) m.chunk w.1 x.tryNo (.scan w.2)) v)) ∧
           chunkIn v m = some { x1 with scanSent := true }))) ∧
     (∀ ws, m.body = .anchors ws → here tyCollCtrl ccAnchors → x.anchors.length = groupsOf c.fields p.members.length m.chunk →
       ∃ v, exec (.anchors q) s = .next (settle (cutAll (tellKids v p (entered c m) (moduleKids p (me s)) m.chunk m.first m.tryNo (.anchors ws)) p k)) ∧
         chunkIn v m = some { x with anchors := x.anchors.take (m.first / 256) ++ ws ++ x.anchors.drop (m.first / 256 + ws.length) }) ∧
     (∀ d y, x.pieceAt m.first = some y →
       (let n := payloadElems (arithIn c.fields.arith) d.length
        let ys := contribAccs c.fields x m.first n d
        (m.body = .contrib d → here tyColl coContrib →
          (reduces c.fields = true → isArmed s c = false → (∀ a ∈ ys, a.sat = false) → ∃ v,
            exec (.contrib q) s = .next (settle (settlePiece v k m.chunk m.first)) ∧
            pieceIn v m = some { y with accs := addAccs c.fields.kind.toNat (arithIn c.fields.arith) (m.first - y.first) ys y.accs,
                                        cover := y.cover ++ [(m.src, n)] } ∧ AckedBy s v du ∧ v.regs = s.regs) ∧
          (reduces c.fields = false → ∃ v, exec (.contrib q) s = .next (settle (settlePiece v k m.chunk m.first)) ∧
            pieceIn v m = some { y with cover := y.cover ++ [(m.src, n)] })) ∧
        (Reaches s q tyColl coContrib .module → collFieldsOk q.hdr = true → m = { hdr := q.hdr, body := .contrib d } →
          (∃ t code, openSteps s du (collKnown s .module q.hdr) q = .bad t code d) → Held s m p c →
          ∃ v z, exec (.contrib q) s = .next (settle (settlePiece v k m.chunk m.first)) ∧ pieceIn v m = some z ∧ z.corrupt = true)) ∧
       (∀ zeros, m.body = .partialSum d → here tyColl coPartial → (let n := partialCount d
          let ys := (List.range n).map (fun i => partialAcc d n (!isInt (arithIn c.fields.arith) && decide (i ∈ zeros)) i)
          isArmed s c = false → badResidues c.fields ys = 0 → ∃ v,
            exec (.partialSum q zeros) s = .next (settle (settlePiece v k m.chunk m.first)) ∧ AckedBy s v du ∧
            pieceIn v m = some { y with accs := addAccs c.fields.kind.toNat (arithIn c.fields.arith) (m.first - y.first) ys y.accs,
                                        cover := y.cover ++ [(m.src, ys.length)], overflow := y.overflow || ys.any (·.sat) })) ∧
       (m.body = .result d → here tyColl coResult → exec (.result q) s = .next (settle (sendResult (chunkFor (taken s du c m) m) p (entered c m)
          m.chunk m.first (payloadElems (arithOut c.fields.arith) d.length) m.tryNo d)))) ∧
     (∀ n bad ovf, m.body = .checked n bad ovf → here tyCollCtrl ccChecked →
       (bad = true → rootOfChunk p m.chunk = me s → exec (.checked q) s = .next (settle (retractChunk (taken s u c m) p (entered c m) x))) ∧
       (∀ y, bad = false ∨ rootOfChunk p m.chunk ≠ me s → x.pieceAt m.first = some y → ∃ v,
         exec (.checked q) s = .next (settle (settlePiece v k m.chunk m.first)) ∧
         pieceIn v m = some { y with checked := y.checked ++ [(m.src, n)], corrupt := y.corrupt || bad, overflow := y.overflow || ovf })) ∧
     (m.body = .delivered → here tyCollCtrl ccDelivered → ∃ v, exec (.delivered q) s = .next (settle (deliveredNext v p k m.chunk)) ∧
       chunkIn v m = some { x with delivered := x.delivered ++ [m.src] }) ∧
     (∀ ovf, m.body = .commit ovf → here tyCollCtrl ccCommit → m.chunk ∉ c.committed →
       (mayGo s m.group = false → exec (.commit q) s = .next (settle (taken s u c m))) ∧
       (mayGo s m.group = true →
         (finishComes c.fields = false → isRoot s p = false → c.committed.length + 1 = chunkCount c.fields p.members.length →
           ∃ v, exec (.commit q) s = .next (settle v) ∧ collOf v k = none ∧ claimOf v k = none) ∧
         ((finishComes c.fields = true ∨ isRoot s p = true ∨ c.committed.length + 1 ≠ chunkCount c.fields p.members.length) →
           ∃ v, exec (.commit q) s = .next (settle (cutAll v p k)) ∧ collOf v k = some { entered c m with
             chunks := c.chunks.filter (fun y => decide (y.chunk ≠ m.chunk)), committed := c.committed ++ [m.chunk],
             overflow := c.overflow || ovf }))) ∧
     (∀ t, m.body = .retract t → here tyCollCtrl ccRetract → x.tryNo < t → ∃ v, exec (.retract q) s = .next (settle v) ∧
       chunkIn v m = some (resetChunk false x t) ∧ AckedBy s v u ∧ v.mem = s.mem ∧ v.regs = s.regs) ∧
     (∀ l, m.body = .provCrc l → here tyCollCtrl ccProvCrc → ∃ v, exec (.provCrc q) s = .next (settle (tryCommit v p k m.chunk)) ∧
       chunkIn v m = some { x with provs := x.provs ++ l.filter (fun w => !x.provs.any (fun y => decide (y.1 = w.1))) }))

/-- The end of a collective at a module, and how one begins (R57, R61, R258, R264, R265, R486): READY is gathered, and a launch that
differs aborts the collective; DONE, whose residues must agree, and PROV_LIST gather at the primary root; FINISH and ABORT end
it, the primary root passing the first ABORT on. -/
def Obligations.CollectiveEnds : Prop :=
  ∀ (s : State) (q : Packet) (m : CollMsg) (p : Plan) (c : Coll),
    (let k := keyOf m
     let u := unitMgmt s
     let here := fun (ty : BitVec 4) (o : Byte) => CollIn s q ty o m p c
     let acked := sendAck s u m.hdr
     (∀ d, m.body = .done d → here tyColl coDone →
       (let t := taken s (rowUnit s k 0) c m
        ((m.src ∉ p.roots ∨ c.dones.any (fun d => decide (d.1 = m.src)) = true) → exec (.done q) s = .next (settle t)) ∧
        (m.src ∈ p.roots → c.dones.any (fun d => decide (d.1 = m.src)) = false →
          ((wideFrom d).checks = false → exec (.done q) s = .next (settle (wideFails t p k))) ∧
          ((wideFrom d).checks = true → ∃ v, exec (.done q) s = .next (settle (tryFinish v p k)) ∧
            collOf v k = some { entered c m with dones := c.dones ++ [(m.src, wideFrom d)] })))) ∧
     (∀ w d, m.body = .finish w d → here tyCollCtrl ccFinish → ∃ v, exec (.finish q) s = .next (settle v) ∧ collOf v k = none ∧
       claimOf v k = none ∧ (c.fields.prov = false → AckedBy s v u ∧ v.mem = s.mem)) ∧
     (∀ l, m.body = .provList l → here tyCollCtrl ccProvList → ∃ v, exec (.provList q) s = .next (settle (tryFinish v p k)) ∧
       collOf v k = some { entered c m with provLists := c.provLists ++ [(m.chunk, m.first, l)] }) ∧
     (∀ st member fault, m.body = .abort st member fault → Brings s q tyCollCtrl ccAbort .module m →
       (planAt s m.group m.epoch = none → exec (.abort q) s = .next (settle (countStale acked))) ∧
       (planAt s m.group m.epoch = some p →
         (p.ctx ≠ m.ctx → exec (.abort q) s = .next (settle (countStale acked))) ∧
         (p.ctx = m.ctx →
           (me s = primaryOf p → exec (.abort q) s = .next (settle (abortAll acked p k st member fault)) ∧
             (∀ g, groupOf s m.group = some g → m.collId ∈ g.aborted → exec (.abort q) s = .next (settle acked))) ∧
           (me s ≠ primaryOf p → ∃ v, exec (.abort q) s = .next (settle v) ∧ collOf v k = none ∧ v.queues = s.queues ∧
             (collOf s k = none → v = acked))))) ∧
     (∀ f n, m.body = .ready f n → Brings s q tyCollCtrl ccReady .module m → planAt s m.group m.epoch = some p → p.ctx = m.ctx →
       m.src ∈ kidsOf p (me s) →
       (collOf s k = none → hasKey s m.ctx = true → ∃ v, exec (.ready q) s = .next (settle (readyNext v k)) ∧
         (collOf v k).map (fun d => (d.fields, d.ready, d.prefixLen, d.started, d.since)) = some (f, [(m.src, n)], n, false, s.now)) ∧
       (collOf s k = some c → c.ready ≠ [] →
         (c.ready.any (fun r => decide (r.1 = m.src)) = true → exec (.ready q) s = .next (settle acked)) ∧
         (c.ready.any (fun r => decide (r.1 = m.src)) = false →
           (c.fields ≠ f → exec (.ready q) s = .next (settle (abortUp acked p k stProtocol))) ∧
           (c.fields = f → hasKey s m.ctx = false → exec (.ready q) s = .next (settle (abortUp acked p k stKeyInvalid))) ∧
           (c.fields = f → hasKey s m.ctx = true → ∃ v, exec (.ready q) s = .next (settle (readyNext v k)) ∧
             collOf v k = some { c with ready := c.ready ++ [(m.src, n)], prefixLen := max c.prefixLen n })))))

/-- Claims and stalls (R254, R256, R258, R267): the head claim of a class is granted where its slots are free and not otherwise; a
claim that has waited for its limit becomes one on the fallback block, and READY goes up for it; a group that is ACTIVE and
awaits something of a collective becomes STALLED once the stall limit since it first needed it is over, and one that awaits
nothing does not. -/
def Obligations.ClaimsAndStalls : Prop :=
  ∀ s : State, inService s = true →
    (∀ cls, (let head := s.claims.find? (fun c => decide (c.cls = cls) && !c.granted && !c.fallback)
      (head = none → exec (.claimGrant cls) s = .next (settle s)) ∧
      (∀ c, head = some c →
        (poolOf s cls < poolUsed s cls + c.asked → exec (.claimGrant cls) s = .next (settle s)) ∧
        (poolUsed s cls + c.asked ≤ poolOf s cls → claimOf s c.key = some c → ∃ v, exec (.claimGrant cls) s = .next (settle (onGranted v c.key)) ∧
          claimOf v c.key = some { c with granted := true, slots := c.asked } ∧ v.out = s.out ∧ v.mem = s.mem ∧ v.regs = s.regs)))) ∧
    (∀ k cl c p, claimOf s k = some cl → collOf s k = some c → planAt s k.group k.epoch = some p →
      (cl.granted = true ∨ cl.fallback = true → exec (.claimTimeout k) s = .next s) ∧
      (cl.granted = false → cl.fallback = false → ∃ v, exec (.claimTimeout k) s = .next (settle (readyNext v k)) ∧
        v.now = max s.now (cl.placedAt + us (regField s (mgBase + 0x300) 15 0)) ∧
        claimOf v k = some { key := k, cls := p.cls, slots := 0, asked := claimSize p c.fields fallbackSlots, granted := false, fallback := true,
                             die := 0, placedAt := v.now })) ∧
    (∀ no g coll chunk c, groupOf s no = some g → g.plan.group = no →
      collOf s { ctx := g.plan.ctx, group := no, epoch := g.plan.epoch, collId := coll } = some c →
      (g.state ≠ .active ∨ awaited s g.plan c chunk = [] → exec (.stallTimeout no coll chunk) s = .next (settle s)) ∧
      (∀ a l, g.state = .active → awaited s g.plan c chunk = a :: l → ∃ v, exec (.stallTimeout no coll chunk) s = .next (settle v) ∧
        v.now = max s.now ((l.map (·.1)).foldl min a.1 + us (stallUs s)) ∧
        groupOf v no = some { g with
          state := .stalled, missing := (((a :: l).filter (fun w => decide (w.1 + us (stallUs s) ≤ v.now))).map (·.2)).eraseDups } ∧
        v.queues = s.queues ∧ v.colls = s.colls))

/-- The messages of a group (R241, R243 to R245, R267): a plan record is put together from its fragments, and a good one that names
the module makes a FORMING group; a refusal closes the group and ends its command; joins are gathered, a refused one goes up;
ACTIVATE makes the group ACTIVE, CLOSE frees its number, STALL makes it STALLED; the stall limit of a joining module refuses.
One of an epoch that the module does not hold is acknowledged and counted, at a block's fabric ID too, where one of a current
epoch is only acknowledged (R271). -/
def Obligations.GroupMessages : Prop :=
  ∀ (s : State) (q : Packet) (m : CollMsg),
    (let u := unitMgmt s
     let no := m.group
     let acked := sendAck s u m.hdr
     let here := fun (o : Byte) => Brings s q tyCollCtrl o .module m
     (∀ i o, ((i = .join q ∧ o = ccJoin) ∨ (i = .activate q ∧ o = ccActivate) ∨ (i = .close q ∧ o = ccClose) ∨ (i = .stall q ∧ o = ccStall)) →
       (here o → epochHeld s m = false → exec i s = .next (settle (countStale acked))) ∧
       (∀ b, Brings s q tyCollCtrl o (.member b) m → exec i s =
         .next (settle (if epochHeld s m then sendAck s (unitOfBlock s b) m.hdr else countStale (sendAck s (unitOfBlock s b) m.hdr))))) ∧
     (∀ start d again, m.body = .planFragment start d false again → here ccPlan → s.planBufs = [] → ∃ v, exec (.plan q) s = .next (settle v) ∧
       v.planBufs = [{ src := m.src, ctx := m.ctx, group := no, epoch := m.epoch, cls := m.hdr.cls, regroup := again, frags := [(start, d)],
                       total := none }] ∧ v.groups = s.groups ∧ AckedBy s v u) ∧
     (∀ d, m.body = .planFragment 0 d true false → here ccPlan → d ≠ [] → s.planBufs = [] → groupOf s no = none →
       (let p := planFrom d
        let named := (planEntry p (me s)).isSome
        let bad := !planOk s d m.ctx no || decide (p.epoch ≠ m.epoch) || (named && !leafOk s p)
        (bad = true → ∃ v, exec (.plan q) s = .next (settle v) ∧ v.groups = s.groups ∧ v.planBufs = []) ∧
        (bad = false → named = false → ∃ v, exec (.plan q) s = .next (settle v) ∧ v.groups = s.groups ∧ AckedBy s v u) ∧
        (bad = false → named = true →
          (let g : Group := { plan := p, newPlan := none, state := .forming, issuer := m.src, joined := [], joinSent := false,
                              since := s.now, missing := [], aborted := [] }
           joinedAll s g p = false → ∃ v, exec (.plan q) s = .next (settle v) ∧ groupOf v no = some g ∧ AckedBy s v u)))) ∧
     (∀ st lost, m.body = .planRefuse st lost → here ccPlan →
       (let waits := fun (c : GroupCmd) => decide (c.group = no) && decide (c.epoch = m.epoch) && !c.closing && decide (m.src ∈ c.waiting)
        (s.groupCmds.find? waits = none → exec (.plan q) s = .next (settle acked)) ∧
        (∀ c, s.groupCmds.find? waits = some c → ∃ v, exec (.plan q) s = .next (settle (endGroupCmd v c (if lost then stStateRejected else st))) ∧
          v.groupCmds = s.groupCmds ∧ v.cmds = s.cmds))) ∧
     (∀ g, groupOf s no = some g → g.plan.group = no → g.plan.ctx = m.ctx → g.newPlan = none → g.plan.epoch = m.epoch →
       (∀ r, m.body = .join r → here ccJoin → g.state = .forming → planEntry g.plan m.src ≠ none →
         (r = false → m.src ∉ g.joined → joinedAll s { g with joined := g.joined ++ [m.src] } g.plan = false → ∃ v,
           exec (.join q) s = .next (settle v) ∧ groupOf v no = some { g with joined := g.joined ++ [m.src] } ∧ v.regs = s.regs) ∧
         (r = false → m.src ∈ g.joined → exec (.join q) s = .next (settle acked)) ∧
         (r = true → me s = primaryOf g.plan → exec (.join q) s = .next (settle (closeAll acked g))) ∧
         (r = true → me s ≠ primaryOf g.plan → exec (.join q) s =
           .next (settle (tellAll acked g.plan [joinParent g.plan (me s)] (.join true))))) ∧
       (m.body = .activate → here ccActivate → g.state = .forming → m.src = primaryOf g.plan → s.groupCmds = [] → s.colls = [] → ∃ v,
         exec (.activate q) s = .next (settle v) ∧
         groupOf v no = some { g with state := .active, joined := [], joinSent := true, missing := [], aborted := [] }) ∧
       (m.body = .close → here ccClose → launchesOf s no = [] → s.groupCmds = [] → ∃ v, exec (.close q) s = .next (settle v) ∧
         groupOf v no = none ∧ v.colls = s.colls.filter (fun c => decide (c.key.group ≠ no)) ∧
         v.claims = s.claims.filter (fun c => decide (c.key.group ≠ no)) ∧ v.queues = s.queues) ∧
       (∀ l, m.body = .stall l → here ccStall →
         (g.state = .active → ∃ v, exec (.stall q) s = .next (settle v) ∧ groupOf v no = some { g with state := .stalled, missing := l }) ∧
         (g.state ≠ .active → exec (.stall q) s = .next (settle acked))) ∧
       (inService s = true → g.state = .forming → joinedAll s g g.plan = false → me s ≠ primaryOf g.plan → exec (.joinTimeout no) s =
         .next (settle (tellAll (advanceTo s (g.since + us (stallUs s))) g.plan [joinParent g.plan (me s)] (.join true)))) ∧
       (inService s = true → g.state = .active → exec (.joinTimeout no) s = .next (settle s))))

/-- What a member block does with a message of its launch (R260 to R265): GO of phase SCAN and DATA, and RESULT, are carried out for
the launch under their entry; one that does not verify is answered with its NAK; a COMMIT in order counts once the chunk is
delivered again, and one ahead of its turn is held; a RETRACT moves the chunk's try, ABORT ends the launch with its status,
FINISH brings its value, and with every chunk committed ends the launch. A duplicate is acknowledged and nothing more. -/
def Obligations.CollectiveAtMember : Prop :=
  ∀ (s : State) (q : Packet) (b : Nat) (m : CollMsg) (p : Plan) (l : Launch) (c : Cmd), planAt s m.group m.epoch = some p → p.ctx = m.ctx →
    memberIndex p m.dst ≠ none → launchOf s b m = some l → cmdOf s l.cmd = some c → (ofChunk m = true → launchTry l m.chunk ≤ m.tryNo) →
    (let u := unitOfBlock s b
     let entry := (opCode m, m.chunk, m.tryNo, m.first)
     let l1 : Launch := { l with seen := l.seen ++ [entry], tries := if m.tryNo = 0 then l.tries else l.tries ++ [(m.chunk, m.tryNo)] }
     let here := fun (ty : BitVec 4) (o : Byte) => Brings s q ty o (.member b) m
     let acked := sendAck s u m.hdr
     (∀ d, m.body = .result d → here tyColl coResult → entry ∉ l.seen →
       exec (.result q) s = .next (settle (memberResult (setLaunch s l1) p l1 c m d))) ∧
     (entry ∈ l.seen → ∀ i o, ((i = .go q ∧ o = ccGo) ∨ (i = .commit q ∧ o = ccCommit) ∨ (i = .retract q ∧ o = ccRetract) ∨
       (i = .finish q ∧ o = ccFinish) ∨ (i = .abort q ∧ o = ccAbort)) → here tyCollCtrl o → exec i s = .next (settle acked)) ∧
     (entry ∉ l.seen →
       (let v := setLaunch acked l1
        let n := chunkCount l.fields p.members.length
        (∀ k, m.body = .go .scan k → here tyCollCtrl ccGo → exec (.go q) s = .next (settle (memberScan v p l1 c m))) ∧
        (∀ k, m.body = .go .data k → here tyCollCtrl ccGo → exec (.go q) s = .next (settle (memberData v p l1 c m k))) ∧
        (∀ o, m.body = .commit o → here tyCollCtrl ccCommit → l.heldCommits = [] →
          (let l2 := { l1 with heldCommits := [(m.chunk, o)] }
           (m.chunk = l.committed → redelivered v p l2 c m.chunk = true → l.fields.chunkSignal = false → l.committed + 1 < n →
             ∃ t, exec (.commit q) s = .next (settle t) ∧
               launchOf t b m = some { l1 with committed := l.committed + 1, overflow := l.overflow || o } ∧
               AckedBy s t u ∧ t.regs = s.regs ∧ t.mem = s.mem) ∧
           ((l.committed < m.chunk ∨ (m.chunk = l.committed ∧ redelivered v p l2 c m.chunk = false)) → l.committed < n →
             ∃ t, exec (.commit q) s = .next (settle t) ∧ launchOf t b m = some l2 ∧ t.cmds = s.cmds))) ∧
        (∀ k, m.body = .retract k → here tyCollCtrl ccRetract → ∃ t, exec (.retract q) s = .next (settle t) ∧
          launchOf t b m = some { l1 with tries := l1.tries ++ [(m.chunk, k)] } ∧ t.cmds = s.cmds) ∧
        (∀ st member fault, m.body = .abort st member fault → here tyCollCtrl ccAbort → exec (.abort q) s = .next (settle (endLaunch v l1 st
          (if st = stFaultUnmapped then (if l.member = member then fault else BitVec.ofNat 64 member) else 0) []))) ∧
        (∀ w d, m.body = .finish w d → here tyCollCtrl ccFinish →
          (l.committed < n → ∃ t, exec (.finish q) s = .next (settle t) ∧ launchOf t b m = some { l1 with finish := some (w, d) } ∧ t.cmds = s.cmds) ∧
          (n ≤ l.committed → l.fields.prov = false → ∃ t, exec (.finish q) s =
            .next (settle (endLaunch t { l1 with finish := some (w, d) } (if l.overflow then stOverflow else stOk)
              (if l.fields.sumsq || decide (l.fields.program ≠ 0) then w else 0) [])) ∧ AckedBy s t u)))))
/-- The vote records of R333, each as the row that it arrives on, with its KIND. -/
def Sys2Proof.voteRows (m : VoteMsg) : List (Byte × Instr) :=
  [(1, .prepare m), (2, .voteYes m), (3, .voteNo m), (4, .decideCommit m), (5, .decideAbort m), (6, .query m), (7, .stateReply m)]

/-- The commit of a step across the shards of a set (R332 to R335): a shard prepares, or waits while it may not, or votes NO; the
coordinator gathers YES votes and commits when it has them all, and aborts once every shard has voted or failed and one did not
vote YES, or past its stall limit, with the first of the failures; a peer applies the decision (an abort of an OPEN step
whatever STEP it names), answers a QUERY with its state, and asks the others itself when no decision comes, or aborts where its
last round of queries has lost the coordinator and brought nothing but PREPARED. A record that R333 does not admit, or that
breaks its layout, does nothing, and so does one of a set of which the module has no shard. -/
def Obligations.CommitVote : Prop :=
  ∀ (s : State) (m : VoteMsg),
    (∀ e ∈ voteRows m, (voteLegal s m && voteRecordOk m.record && decide (voteKind m = e.1)) = false → exec e.2 s = .next s) ∧
    (voteLegal s m = true → voteRecordOk m.record = true → shardOf s (voteKey m) = none →
      ∀ e ∈ voteRows m, voteKind m = e.1 → e.1 ≠ 2 → e.1 ≠ 3 → e.1 ≠ 7 → exec e.2 s = .next (settle s)) ∧
    (∀ h, voteLegal s m = true → voteRecordOk m.record = true → shardOf s (voteKey m) = some h →
      (let k := voteKey m
       let kind := voteKind m
       let step := voteStep m
       (kind = 1 → voteOf s k = none → step = h.version + 1 → h.state = .opened →
         (let v : Vote := { key := k, step := step, coordinator := false, cmd := none, peers := if m.peers.isEmpty then [m.src] else m.peers,
                            yes := [], preparing := true, failed := [], answers := [], deciding := false, waiting := [], unreached := [],
                            coordinatorLost := false, votedAt := s.now, cls := none }
          (hasWriter s k = true ∨ (boundPorts s k).any (fun p => !p.2.unload) = true → ∃ u, exec (.prepare m) s = .next (settle u) ∧
            voteOf u k = some v ∧ shardOf u k = some h ∧ u.out = s.out ∧ u.mem = s.mem) ∧
          (hasWriter s k = false → (boundPorts s k).any (fun p => !p.2.unload) = false → h.digest = false →
            forwardList h = [] → ∃ u, exec (.prepare m) s = .next (settle u) ∧ voteOf u k = some { v with preparing := false } ∧
              shardOf u k = some { forwardRecord h with state := .prepared }))) ∧
       (kind = 1 → step ≠ h.version + 1 → ∃ u, exec (.prepare m) s = .next (settle u) ∧ voteOf u k = voteOf s k ∧
         shardOf u k = some (if mayOpen s h then openStep h else h)) ∧
       (kind = 1 → step = h.version + 1 → voteOf s k ≠ none → exec (.prepare m) s = .next (settle s)) ∧
       (∀ v, voteOf s k = some v → v.coordinator = true → v.deciding = false → fromShard v m = true →
         (let all := List.range h.rootCount
          let yesIn := fun (v : Vote) i => v.yes.any (fun p => decide (p.1 = i))
          let failedIn := fun (v : Vote) i => v.failed.any (fun p => decide (p.1 = i))
          let vn := { v with failed := v.failed ++ [(voteRoot m, reasonStatus (voteReason m))] }
          let vy := { v with yes := v.yes ++ [(voteRoot m, BitVec.ofNat 64 (fieldAt m.record 16 8))] }
          (kind = 3 → all.all (yesIn v) = false →
            (all.all (fun i => yesIn v i || failedIn vn i) = true →
              exec (.voteNo m) s = .next (settle (voteAbort s vn (abortStatus vn)))) ∧
            (all.all (fun i => yesIn v i || failedIn vn i) = false → ∃ u, exec (.voteNo m) s = .next (settle u) ∧
              voteOf u k = some vn ∧ shardOf u k = some h ∧ u.out = s.out)) ∧
          (kind = 2 → yesIn v (voteRoot m) = true → exec (.voteYes m) s = .next (settle s)) ∧
          (kind = 2 → yesIn v (voteRoot m) = false →
            (all.all (yesIn vy) = false → all.all (fun i => yesIn vy i || failedIn v i) = false →
              ∃ u, exec (.voteYes m) s = .next (settle u) ∧ voteOf u k = some vy ∧ shardOf u k = some h) ∧
            (all.all (yesIn vy) = false → all.all (fun i => yesIn vy i || failedIn v i) = true →
              exec (.voteYes m) s = .next (settle (voteAbort s vy (abortStatus v)))) ∧
            (all.all (yesIn vy) = true → peersBut v 0 ≠ [] → ∃ u, exec (.voteYes m) s = .next (settle u) ∧
              voteOf u k = some { vy with deciding := true, waiting := (peersBut v 0).map (·.1) } ∧
              shardOf u k = some { h with
                version := h.version + 1, state := .idle, stepWritten := [],
                hash := hashNext h v.step (all.map (fun i => ((vy.yes.find? (fun p => decide (p.1 = i))).map (·.2)).getD 0)) })))) ∧
       (kind = 4 → h.state = .prepared → h.version + 1 = step → ∃ u, exec (.decideCommit m) s = .next (settle u) ∧ voteOf u k = none ∧
         shardOf u k = some { h with version := h.version + 1, state := .idle, stepWritten := [], hash := slice m.record 16 48 } ∧
         u.mem = s.mem ∧ u.out = s.out) ∧
       (kind = 4 → (h.state ≠ .prepared ∨ h.version + 1 ≠ step) → exec (.decideCommit m) s = .next (settle s)) ∧
       (kind = 5 → (h.state = .opened ∨ (h.state = .prepared ∧ h.version + 1 = step)) → ∃ u, exec (.decideAbort m) s = .next (settle u) ∧
         voteOf u k = (if (voteOf s k).all (fun v => decide (v.step = step)) then none else voteOf s k) ∧
         ∃ h1, shardOf u k = some h1 ∧ h1.state = .idle ∧ h1.version = h.version ∧ h1.stepWritten = [] ∧ h1.hash = h.hash) ∧
       (kind = 5 → (h.state = .idle ∨ (h.state = .prepared ∧ h.version + 1 ≠ step)) → exec (.decideAbort m) s = .next (settle s)) ∧
       (kind = 6 → exec (.query m) s = .next (settle (sendVote s none k m.src (voteRoot m) false
         (voteBytes vkReply (shardCode h.state) h.rootIndex k.hset h.version [])))) ∧
       (∀ v, kind = 7 → voteOf s k = some v → v.coordinator = false → v.preparing = false → v.peers[voteRoot m]? = some m.src →
         v.answers = [] →
         (v.step ≤ step → ∃ u, exec (.stateReply m) s = .next (settle u) ∧ voteOf u k = none ∧
           (shardOf u k).map (fun x => (x.version, x.state)) = some (h.version + 1, .idle)) ∧
         (step + 1 = v.step → voteReason m ≠ 2 → ∃ u, exec (.stateReply m) s = .next (settle u) ∧ voteOf u k = none ∧
           (shardOf u k).map (fun x => (x.version, x.state)) = some (h.version, .idle)) ∧
         (step < v.step → voteReason m = 2 → v.waiting.erase (voteRoot m) ≠ [] → ∃ u, exec (.stateReply m) s = .next (settle u) ∧
           voteOf u k = some { v with answers := [(voteRoot m, 2, step)], waiting := v.waiting.erase (voteRoot m) } ∧
           shardOf u k = some h)))) ∧
    (∀ k v, inService s = true → voteOf s k = some v →
      (let late := advanceTo s (v.votedAt + us (stallUs s))
       (v.coordinator = true → v.deciding = false → exec (.voteTimeout k) s = .next (settle (voteAbort late v (abortStatus v)))) ∧
       (v.coordinator = false ∨ v.deciding = true → exec (.voteTimeout k) s = .next s) ∧
       (v.preparing = true → v.coordinator = true → exec (.prepareWaitExpiry k) s =
         .next (settle (tallyVote late { v with preparing := false, failed := v.failed ++ [(0, stTimeout)] }))) ∧
       (v.preparing = true → v.coordinator = false → ∃ u, exec (.prepareWaitExpiry k) s = .next (settle u) ∧ voteOf u k = none ∧
         u.hb.shards = s.hb.shards ∧ u.now = late.now) ∧
       (v.preparing = false → exec (.prepareWaitExpiry k) s = .next s) ∧
       (∀ h, shardOf s k = some h → v.coordinator = false → v.preparing = false → h.state = .prepared →
         (coordinatorGone v = true → exec (.preparedQueryTimer k) s = .next (settle (applyAbort (dropVote late k) h))) ∧
         (coordinatorGone v = false → ∃ u, exec (.preparedQueryTimer k) s = .next u ∧ u.now = late.now ∧ u.hb.shards = s.hb.shards ∧
           voteOf u k = some { v with votedAt := late.now, coordinatorLost := false, answers := [],
                                      waiting := (peersBut v h.rootIndex).map (·.1) }))))

/-- The commands of an ensign session, each with the type of its message. -/
def Sys2Proof.ensignOf (m : Bytes) : List (Nat × Instr) := [(1, .hello m), (3, .keyInstall m), (4, .keyActivate m), (5, .keyRetire m), (6, .sessionEnd m)]

/-- The ensign session (R449 to R461): a HELLO that is well formed opens a session for its context and is answered with the report;
a key message of no session is refused; one under its session's key and next sequence number is applied and answered, and a
repeat of the last gets the stored answer and nothing else; SESSION_END and 60 s of silence end a session; a forwarded message
is answered once, and a repeat with the stored answer; an answer reaches the mailbox slot that waits for it. -/
def Obligations.EnsignSessions : Prop :=
  ∀ (s : State) (m : Bytes), configurable s = true →
    (∀ e ∈ ensignOf m,
      (msgType m ≠ e.1 → exec e.2 s = .next s) ∧
      (msgType m = e.1 →
        (∃ u, exec e.2 s = .next (settle u) ∧ u.sec.ensignOut = (handleEnsign s m).1.sec.ensignOut ++ [(handleEnsign s m).2]) ∧
        (e.1 ≠ 1 → msgOk m = true →
          (Tab.get? s.sec.sessions (msgSession m) = none → (handleEnsign s m).2 =
            ensignHdr 0x7F 24 (msgSession m).toNat (msgSeq m) ++ [rsAuth] ++ zeros 7 ∧ (handleEnsign s m).1.sec.keys = s.sec.keys) ∧
          (∀ x b, Tab.get? s.sec.sessions (msgSession m) = some x →
            gcmOpen x.toModule (sealedIv 0 (msgSeq m)) (m.take 16) (m.drop 16) = some b →
            (msgSeq m = x.lastSeq → x.reply ≠ [] → (handleEnsign s m).2 = x.reply ∧ (handleEnsign s m).1.sec.keys = s.sec.keys) ∧
            (msgSeq m ≠ x.lastSeq → msgSeq m ≠ x.lastSeq + 1 → (handleEnsign s m).1.sec.keys = s.sec.keys ∧
              (handleEnsign s m).2 = ensignHdr 0x7F 24 (msgSession m).toNat (msgSeq m) ++ [rsReplay] ++ zeros 7) ∧
            (msgSeq m = x.lastSeq + 1 → (applySealed s e.1 x.ctx b).2 = rsOk →
              (e.1 ≠ 6 → ∃ y, Tab.get? (handleEnsign s m).1.sec.sessions (msgSession m) = some y ∧ y.lastSeq = msgSeq m ∧
                y.reply = (handleEnsign s m).2 ∧ y.ctx = x.ctx ∧ y.toModule = x.toModule ∧
                (handleEnsign s m).1.sec.keys = (applySealed s e.1 x.ctx b).1.sec.keys) ∧
              (e.1 = 6 → Tab.get? (handleEnsign s m).1.sec.sessions (msgSession m) = none)))))) ∧
    (msgType m = 1 → helloOk m = true → (pointOf (slice m 56 97)).isSome = true → s.sec.sessions.length < 64 → recovery s = false →
      (let id : Word := BitVec.ofNat 32 (fieldAt (handleEnsign s m).2 4 4)
       (handleEnsign s m).2.length = 1040 ∧ byteAt (handleEnsign s m).2 0 = 0x02 ∧ id ≠ 0 ∧ Tab.get? s.sec.sessions id = none ∧
       ∃ x, Tab.get? (handleEnsign s m).1.sec.sessions id = some x ∧ x.ctx = BitVec.ofNat 20 (fieldAt m 16 4) ∧ x.lastSeq = 0 ∧ x.reply = [])) ∧
    (∀ n x, Tab.get? s.sec.sessions n = some x → ∃ t, exec (.sessionIdleTimeout n) s = .next t ∧ Tab.get? t.sec.sessions n = none ∧
      t.now = max s.now (x.lastAt + us 60000000) ∧ t.sec.keys = s.sec.keys ∧ t.out = s.out ∧ t.mem = s.mem ∧ t.regs = s.regs) ∧
    (∀ p bs, ownFid s ≠ none → MgmtOpens s mgEnsignFwd p bs →
      (∀ a, Tab.get? s.sec.answered (p.hdr.src, p.hdr.tag) = some (bs, a) →
        exec (.ensignFwd p) s = .next (settle (sendRsp s p.hdr.src p.hdr.tag a))) ∧
      (Tab.get? s.sec.answered (p.hdr.src, p.hdr.tag) = none → ∃ u, exec (.ensignFwd p) s = .next (settle u) ∧
        Tab.get? u.sec.answered (p.hdr.src, p.hdr.tag) = some (bs, (handleEnsign s bs).2))) ∧
    (∀ p bs, ownFid s ≠ none → MgmtOpens s mgEnsignRsp p bs →
      (s.reqs.any (isForward p.hdr) = false → exec (.ensignRsp p) s = .next (settle s)) ∧
      (s.reqs.any (isForward p.hdr) = true → ∃ u, exec (.ensignRsp p) s = .next (settle u) ∧
        u.reqs = s.reqs.filter (fun r => !isForward p.hdr r) ∧
        (∀ f, s.sec.forwards.find? (fun f => decide (f.tag = p.hdr.tag) && decide (f.target = p.hdr.src)) = some f →
          u.sec.forwards = s.sec.forwards.erase f)))

/-- The layouts of the lock-step payloads (R490, R491, R493, R495), the places of LS_PAIR being the model's (log 193). -/
def Sys2Proof.lsLaidOut (opcode : Byte) (bs : Bytes) : Prop :=
  (opcode = mgLsPair → bs.length = 32 ∧ reservedZero bs 2 4 = true ∧ fieldAt bs 24 1 < 4 ∧ reservedZero bs 25 32 = true) ∧
  (opcode = mgLsRecord → ∀ i < bs.length / 24, reservedZero bs (24 * i + 1) (24 * i + 8) = true) ∧
  (opcode = mgLsDiverge → bs.length = 32 ∧ reservedZero bs 1 8 = true) ∧
  (opcode = mgLsResume → bs = [])

/-- The lock-step packets, as the rows that they arrive on. -/
def Sys2Proof.lsRows (port : Nat) (p : Packet) : List (Byte × Instr) :=
  [(mgLsPair, .lsPair port p), (mgLsRecord, .lsRecord port p), (mgLsDiverge, .lsDiverge port p), (mgLsResume, .lsResume port p)]

/-- Lock-step (R489 to R495): an LS_PAIR that agrees starts COMPARING and one that does not is a MISMATCH; records of the partner
are kept until they are matched, in FROZEN too; an unmatched record, and the partner's word, freeze the module with the cause,
and where it is FROZEN already are counted; RESUME of either side begins the pairing again with no record of before, but under
recovery firmware, which only logs it (log 213). A packet whose payload breaks its layout is malformed. -/
def Obligations.LockStep : Prop :=
  ∀ (s : State) (port : Nat) (p : Packet) (bs : Bytes),
    (takesLs s port = false → ∀ e ∈ lsRows port p, exec e.2 s = .next s) ∧
    (takesLs s port = true → ∀ e ∈ lsRows port p, MgmtOpens s e.1 p bs →
      (¬ lsLaidOut e.1 bs → exec e.2 s = .next (refuseMalformed s (unitMgmt s) p.hdr)) ∧
      (lsLaidOut e.1 bs →
        (e.1 = mgLsPair →
          (let msg := pairOf bs
           (s.ls.state = .pairing → msg.features = acceptedWords s → msg.glbId = reg s glbBase → msg.role = s.role →
             ∃ u, exec e.2 s = .next (settle u) ∧ u.ls = { s.ls with state := .comparing } ∧ u.power = s.power) ∧
           (s.ls.state = .pairing → (msg.features ≠ acceptedWords s ∨ msg.glbId ≠ reg s glbBase ∨ msg.role ≠ s.role) →
             ∃ u, exec e.2 s = .next (settle u) ∧ u.ls = { s.ls with state := .mismatch }) ∧
           (s.ls.state ≠ .pairing → exec e.2 s = .next (settle (ackMgmt s p.hdr))))) ∧
        (e.1 = mgLsRecord →
          (s.ls.state = .comparing ∨ s.ls.state = .pairing ∨ s.ls.state = .frozen → ∃ u, exec e.2 s = .next (settle u) ∧
            u.ls = { s.ls with peerRecs := s.ls.peerRecs ++ (List.range (bs.length / 24)).map (fun i => lsRecAt bs (24 * i)) }) ∧
          (s.ls.state = .mismatch → exec e.2 s = .next (settle (ackMgmt s p.hdr)))) ∧
        (e.1 = mgLsDiverge →
          (let r := lsRecAt bs 0
           (s.ls.state = .comparing → localRec s r.kind r.key = none →
             exec e.2 s = .next (settle (freezeOn (ackMgmt s p.hdr) 5 r.kind r.key (BitVec.ofNat 64 (fieldAt bs 24 8)) r.value))) ∧
           (s.ls.state = .frozen → reg s (mgBase + 0x538) ≠ 0xFFFFFFFF → ∃ t, exec e.2 s = .next t ∧ t.ls = s.ls ∧
             reg t (mgBase + 0x538) = reg s (mgBase + 0x538) + 1))) ∧
        (e.1 = mgLsResume →
          (s.ls.state = .pairing → exec e.2 s = .next (ackMgmt s p.hdr)) ∧
          (s.ls.state ≠ .pairing → exec e.2 s = .next (settle (pumpAll (beginPairing (ackMgmt s p.hdr)))))))) ∧
    (inService s = true → ∀ kind key x, localRec s kind key = some x →
      (let late := advanceTo s (x.since + us (regField s (mgBase + 0x520) 23 8))
       (s.ls.state = .comparing → exec (.lsMatchTimeout kind key) s = .next (settle (diverge late 3 kind key x.what.value 0))) ∧
       (s.ls.state = .frozen → exec (.lsMatchTimeout kind key) s = .next (settle (countDiverge (dropRec late x)))))) ∧
    (configurable s = true → recovery s = true → exec .resume s = .next (settle (logRegWrite s (mgBase + 0x524) 1))) ∧
    (configurable s = true → recovery s = false →
      (s.ls.state = .frozen ∨ s.ls.state = .mismatch → s.colls = [] → ∃ u, exec .resume s = .next (settle u) ∧ u.ls.state = .pairing ∧
        u.ls.localRecs = [] ∧ u.ls.peerRecs = [] ∧ u.ls.unsent = [] ∧ u.ls.captured = false) ∧
      (s.ls.state ≠ .frozen → s.ls.state ≠ .mismatch → exec .resume s = .next (settle s)))

/-- The ageing monitors (R527, R529). MONITOR_SAMPLE, wherever the control plane runs, counts a sweep, makes every monitor that
gives no sample read 0, leaves one that runs and brings no reading as it was (the model's choice, log 216), shows a valid
reading's sample, a lane eye's in its turn, and outside the floor state gives it to the planner as an input; a standby
management die beyond a wear limit fails its test. FAIL_LIMIT_RESPONSE records a temperature beyond its fail limit once for its
die, and schedules the swap of another monitor's unit, which begins where no swap runs; a sample that is not beyond its fail
limit changes nothing. The tests of spares (R532). SPARE_TEST takes a spare to TESTING, or activates lane 8 of a port, where the
data plane runs; while the floor state holds or a cap limits, the test is deferred. SPARE_TEST_DONE makes the unit a tested
spare or, where the self-test or a monitor beyond a wear limit fails it, a failed one, which is counted; a lane passes on nine
samples of its eye, a firmware slot on its images; a management die that passes stands by, and the standby's continuous test
only keeps the time while it passes. -/
def Obligations.MonitorsAndTests : Prop :=
  (∀ s : State,
    (∀ l, controlRuns s = false → exec (.monitorSample l) s = .next s) ∧
    (∀ l : List MonReading, controlRuns s = true → (∀ r ∈ l, r.number < 1024) →
      ∃ u, exec (.monitorSample l) s = .next (if configurable s then settle (startDue (afterSwap u)) else u) ∧
        reg u (cpBase + 0x100) = reg s (cpBase + 0x100) + 1 ∧ u.mode = s.mode ∧
        (∀ n < 1024, monRuns s n = false → reg u (monOff n) = 0) ∧
        (∀ n < 1024, monRuns s n = true → (∀ r ∈ l, r.number ≠ n) → reg u (monOff n) = reg s (monOff n)) ∧
        (standbyWears s l = false → u.out = s.out ∧ u.mem = s.mem ∧ u.queues = s.queues ∧ u.host = s.host) ∧
        (standbyWears s l = true → u.host.standbyReady = false ∧ dieState u (ordMgmt (1 - s.host.owner % 2)) ≠ .standby) ∧
        (∀ r v, l = [r] → r.value = some v → validReading s r = true → reg u (monOff r.number) = monWord s r v ∧
          (r.number < 144 → Tab.get? u.age.eyeLast r.number = some r.sub.toNat) ∧
          u.age.lowest = (if s.power.floor ∨ monKind r.number = 2 ∨ heldOut s r then s.age.lowest
            else keepLow s.age.lowest (lowKey r.number r.sub) (signed 16 v.toNat)))) ∧
    (∀ n, (monValue s n = none → exec (.failLimitResponse n) s = .next s) ∧
      (∀ v, monValue s n = some v → configurable s = true → n < 1024 →
        (failsAt (monKind n) v = false → exec (.failLimitResponse n) s = .next s) ∧
        (failsAt (monKind n) v = true → monKind n = 2 → monDie n ∈ s.age.hotDies → exec (.failLimitResponse n) s = .next s) ∧
        (failsAt (monKind n) v = true → monKind n = 2 → monDie n ∉ s.age.hotDies → ∃ t, exec (.failLimitResponse n) s = .next t ∧
          t.host.eventSeq = s.host.eventSeq + 1 ∧ t.age = { s.age with hotDies := s.age.hotDies ++ [monDie n] } ∧ t.mode = s.mode) ∧
        (failsAt (monKind n) v = true → monKind n ≠ 2 → ∀ k i, monUnit n (regField s (monOff n) 19 16) = some (k, i) →
          swappable s k i = true → ∃ u, u.out = s.out ∧ u.regs = s.regs ∧ u.mem = s.mem ∧ u.queues = s.queues ∧
            (∃ e ∈ u.age.swapQueue, e.2 = (k, i) ∧ e.1 ≤ swapKey s 0 (marginOf (monKind n) v) k i) ∧
            (s.age.swapQueue = [] → u.age = { s.age with swapQueue := [(swapKey s 0 (marginOf (monKind n) v) k i, k, i)] }) ∧
            exec (.failLimitResponse n) s = .next (settle (nextSwaps (u.age.swapQueue.length + 1) u)) ∧
            (swapRuns s = true → exec (.failLimitResponse n) s = .next (settle u)))))) ∧
  (∀ s : State,
    (∀ k n, (portsRun s = false → exec (.spareTest k n) s = .next s) ∧
      (portsRun s = true → testsWait s = true → exec (.spareTest k n) s =
        .next (if (k, n) ∈ s.age.testsDue then s else { s with age := { s.age with testsDue := s.age.testsDue ++ [(k, n)] } })) ∧
      (portsRun s = true → testsWait s = false → k ≠ .lane → reserved s k n = true → exec (.spareTest k n) s = .next s) ∧
      (portsRun s = true → testsWait s = false → k ≠ .lane → n ∈ unitsOf s k → reserved s k n = false →
        (unitState s k n = .spareTested ∨ unitState s k n = .spareUntested) → ∃ t, exec (.spareTest k n) s = .next t ∧
          unitState t k n = .testing ∧ t.host.eventSeq = s.host.eventSeq + 1 ∧ t.ports = s.ports ∧ t.switch = s.switch ∧
          t.queues = s.queues ∧ t.mode = s.mode) ∧
      (portsRun s = true → k ≠ .lane → k ≠ .fwSlot → n ∈ unitsOf s k → unitState s k n = .testing →
        (s.age.testWorn.contains (k, n) = false → ∃ t, exec (.spareTestDone k n true) s = .next t ∧ (unitRec t k n).testedAt = some s.now ∧
          unitState t k n = (if k = .mgmt then .standby else .spareTested) ∧ t.host.standbyReady = (decide (k = .mgmt) || s.host.standbyReady) ∧
          t.queues = s.queues ∧ t.mode = s.mode) ∧
        (∀ pass, pass = false ∨ s.age.testWorn.contains (k, n) = true → ∃ t, exec (.spareTestDone k n pass) s = .next t ∧
          (unitRec t k n).testedAt = some s.now ∧ unitState t k n = .spareFailed ∧
          regBit t (mgBase + 0x608) 1 = true ∧ t.queues = s.queues ∧ t.mode = s.mode))) ∧
    (∀ n, portsRun s = true → standsBy s .mgmt n = true →
      (exec (.spareTestDone .mgmt n true) s = .next (putUnit s .mgmt n { unitRec s .mgmt n with testedAt := some s.now })) ∧
      (∃ t, exec (.spareTestDone .mgmt n false) s = .next t ∧ unitState t .mgmt n = .spareFailed ∧ (unitRec t .mgmt n).testedAt = some s.now ∧
        t.host.standbyReady = false)) ∧
    (∀ n, portsRun s = true → n < 3 → n ∉ s.age.fwSlotsBad → n ≠ s.sec.bootSlot →
      (slotValid s n = true → exec (.spareTestDone .fwSlot n true) s = .next s) ∧
      (∀ pass, pass = false ∨ slotValid s n = false → ∃ t, exec (.spareTestDone .fwSlot n pass) s = .next t ∧ n ∈ t.age.fwSlotsBad ∧
        t.queues = s.queues)) ∧
    (∀ p, portsRun s = true → (let r := portOf s p
      (testsWait s = false → r.cable = .ready → r.lane8On = false → r.swap = none → r.active.getLsbD 8 = false →
        r.lanesFailed.getLsbD 8 = false → ∃ t, exec (.spareTest .lane p) s = .next t ∧ (portOf t p).lane8On = true ∧
          (portOf t p).lane8Eyes = [] ∧ .sideband p sbLane8On ∈ t.out ∧ t.host.eventSeq = s.host.eventSeq + 1 ∧ t.queues = s.queues) ∧
      (lane8InTest r = true →
        (r.lane8Eyes.length < 9 → exec (.spareTestDone .lane p true) s = .next s) ∧
        (9 ≤ r.lane8Eyes.length → eyesPass r = true → ∃ t, exec (.spareTestDone .lane p true) s = .next t ∧
          (portOf t p).lane8Tested = true ∧ (portOf t p).lane8On = false ∧ (r.present = true → .sideband p sbLane8Off ∈ t.out) ∧
          t.queues = s.queues) ∧
        (∀ pass, pass = false ∨ (9 ≤ r.lane8Eyes.length ∧ eyesPass r = false) → ∃ t, exec (.spareTestDone .lane p pass) s = .next t ∧
          (portOf t p).lane8Tested = false ∧ (portOf t p).lanesFailed.getLsbD 8 = true ∧ t.queues = s.queues)))))
/-- Planned swaps (R533, R534): the next swap of the order brings the spare into service and drains the worn unit; a plane takes the
worn one's position, a reduction die comes with its window closed and unarmed, a block drains. A swap that is not next, and a
spare that may not serve, change nothing. -/
def Obligations.PlannedSwaps : Prop :=
  ∀ (s : State) (worn spare : Nat), worn ≠ spare →
    (isNext s .plane worn = true → mayServe s .plane worn spare = true → ∃ u, exec (.planeSwap worn spare) s = .next (settle u) ∧
      unitState u .plane spare = .active ∧ unitState u .plane worn = .draining ∧ u.age.swap = some (.plane, worn, spare) ∧
      u.age.planeList = s.age.planeList.map (fun x => if x = worn then spare else x) ∧ u.switch = s.switch) ∧
    ((isNext s .plane worn = false ∨ mayServe s .plane worn spare = false) → exec (.planeSwap worn spare) s = .next s) ∧
    (isNext s .reduction worn = true → mayServe s .reduction worn spare = true → ∃ u, exec (.reductionDieSwap worn spare) s = .next (settle u) ∧
      unitState u .reduction spare = .active ∧ unitState u .reduction worn = .draining ∧ u.age.swap = some (.reduction, worn, spare) ∧
      reg u (ariBase spare + 0x500) = 0 ∧ reg u (ariBase spare + 0x414) = 0 ∧ u.claims = s.claims ∧ u.colls = s.colls) ∧
    ((isNext s .reduction worn = false ∨ mayServe s .reduction worn spare = false) → exec (.reductionDieSwap worn spare) s = .next s) ∧
    (∀ b n m, servedBy s b = some n → spareFor s .epb n = some m → isNext s .epb n = true → ∃ u, exec (.endPointBlockSwap b) s = .next (settle u) ∧
      unitState u .epb n = .draining ∧ u.age.swap = some (.epb, n, m) ∧ u.age.serving = s.age.serving ∧ u.cmds = s.cmds) ∧
    (∀ b, servedBy s b = none → exec (.endPointBlockSwap b) s = .next s)

/-- Units that fail (R21, R28, R29, R85, R316, R317, R353, R532, R533, R535, R536): a plane or a block leaves service and a spare
takes its place, or the kind runs degraded; a reduction die takes its requests with it and a spare takes its place; a memory
device takes its share of the harbour with it; an access to a line counts its EDC retries, at most 4; a line read uncorrectably
is poisoned and retired, and one read with a correction twice within 24 hours is retired; a standby that fails is ready no more. -/
def Obligations.UnitFailures : Prop :=
  ∀ s : State,
    (∀ d, portsRun s = true → d < 18 → serves (dieState s (ordPlane d)) = true → s.age.swap = none → swapRuns s = false →
      (∀ n, spareFor s .plane d = some n → ∃ u, exec (.planeFail d) s = .next (settle u) ∧ unitState u .plane d = .failed ∧
        unitState u .plane n = .active ∧ u.age.planeList = insertPlane n (s.age.planeList.filter (fun x => decide (x ≠ d)))) ∧
      (spareFor s .plane d = none → ∃ u, exec (.planeFail d) s = .next (settle u) ∧ unitState u .plane d = .failed ∧
        u.age.degraded.getLsbD (kindCode .plane) = true ∧ u.age.planeList = s.age.planeList.filter (fun x => decide (x ≠ d)))) ∧
    (∀ d, portsRun s = true → serves (dieState s (ordPlane d)) = false → exec (.planeFail d) s = .next s) ∧
    (∀ d, portsRun s = true → ariServes s d = true → exec (.reductionDieFail d) s = .next (settle (failReduction s d)) ∧
      (s.colls = [] → s.groups = [] → s.windows = [] → s.age.swap = none → swapRuns s = false → unitState (failReduction s d) .reduction d = .failed ∧
        (∀ n, spareFor s .reduction d = some n → unitState (failReduction s d) .reduction n = .active) ∧
        ∀ r ∈ (failReduction s d).reqs, r.unit ≠ unitAri d)) ∧
    (∀ n b, portsRun s = true → blockState s n ≠ .absent → blockState s n ≠ .failed → numberOf s n = some b → s.age.swap = none → swapRuns s = false →
      (∀ m, spareFor s .epb n = some m → ∃ u, exec (.endPointBlockFail n) s = .next (settle u) ∧ servedBy u b = some m ∧
        unitState u .epb n = .failed ∧ unitState u .epb m = .active ∧ Tab.get? u.quietUntil b = some (s.now + us 400)) ∧
      (spareFor s .epb n = none → ∃ u, exec (.endPointBlockFail n) s = .next (settle u) ∧ servedBy u b = none ∧
        unitState u .epb n = .failed ∧ (portOf u (2 * b)).cause = caDisabled ∧ u.age.degraded.getLsbD (kindCode .epb) = true)) ∧
    (∀ d, configurable s = true → s.age.devices.getD d 0 ≠ 0 → exec (.memoryDeviceFail d) s = .next (settle (failDevice s d)) ∧
      (s.hb.shards = [] → (failDevice s d).age.devices = s.age.devices.set d 0 ∧
        (failDevice s d).hb.unitsTotal = unitsOfDevices s.variant (devicesIn (failDevice s d)) ∧
        (failDevice s d).age.degraded.getLsbD (kindCode .memory) = true)) ∧
    (∀ line k, portsRun s = true → devicesIn s ≠ 0 →
      (∃ t, exec (.harbourLineRetire line k .clean) s = .next t ∧ t.hb = s.hb ∧ t.out = s.out ∧
        ((reg s (hbBase + 0x11C)).toNat + 4 < 2 ^ 32 → (reg t (hbBase + 0x11C)).toNat = (reg s (hbBase + 0x11C)).toNat + min k 4)) ∧
      (∃ t, exec (.harbourLineRetire line k .uncorrectable) s = .next t ∧ line ∈ t.hb.poisoned ∧ Tab.get? t.hb.retired line = some s.now ∧
        t.hb.shards = s.hb.shards) ∧
      (Tab.get? s.hb.corrected line = none → ∃ t, exec (.harbourLineRetire line k .corrected) s = .next t ∧
        Tab.get? t.hb.corrected line = some s.now ∧ t.hb.retired = s.hb.retired ∧ t.hb.poisoned = s.hb.poisoned) ∧
      (∀ c, Tab.get? s.hb.corrected line = some c → s.now ≤ c + day → ∃ t, exec (.harbourLineRetire line k .corrected) s = .next t ∧
        Tab.get? t.hb.retired line = some s.now ∧ Tab.get? t.hb.corrected line = none ∧ t.hb.poisoned = s.hb.poisoned)) ∧
    (controlRuns s = true → s.host.owner < 2 →
      (dieState s (ordMgmt (1 - s.host.owner)) = .standby → ∃ t, exec .standbyDieFault s = .next t ∧ t.host.standbyReady = false ∧
        dieState t (ordMgmt (1 - s.host.owner)) = .spareFailed ∧ t.host.owner = s.host.owner ∧ t.mode = s.mode) ∧
      (dieState s (ordMgmt (1 - s.host.owner)) ≠ .standby → exec .standbyDieFault s = .next s))

/-- Every header survives its 48 bytes, and every 48 bytes survive the header they spell: the field table of R70 covers all 384
bits, and no two fields share one. -/
def Obligations.HeaderRoundTrip : Prop :=
  (∀ h : Header, headerOf (headerBytes h) = h ∧ (headerBytes h).length = 48) ∧
  (∀ bs : Bytes, bs.length = 48 → headerBytes (headerOf bs) = bs)

/-- What a sealed packet says is what its destination opens (R23, R24, R75, R76): with the burgee's key live, the payload comes back
whole whatever became of COLOUR, AGE, HOPS and flag RESEND on the way, and the body is the payload, 8 bytes of CRC and, with
ENC, 16 of tag. The layout of the IV in bytes is the model's choice (log 14). -/
def Obligations.SealedPacketOpens : Prop :=
  ∀ (s : State) (key : Bytes) (h : Header) (payload : Bytes), payload.length = payloadLen h →
    (flagEnc h = true → packetKey s (burgeeCtx h) (burgeeEpoch h) = some key) →
    (sealPacket key h payload).body.length = payload.length + 8 + 16 * b01 (flagEnc h) ∧
    ∀ (colour : BitVec 2) (age : BitVec 16) (hops : BitVec 6) (again : Bool),
      openPacket s { sealPacket key h payload with
        hdr := { h with colour := colour, age := age, hops := hops, flags := (h.flags &&& 0x7B) ||| (if again then 0x04 else 0) } } = .ok payload

/-- The sum of a list of integers. -/
def Sys2Proof.intSum (l : List Int) : Int := l.foldr (· + ·) 0

/-- Anchored addition is exact and knows no order (R40 to R43, R47, R56): contributions added in any order give one accumulator; up
to 65,536 of them, each of a magnitude below 2^111 units, sum without loss, and the carried residue still agrees with A; a
contribution of a value whose exponent does not exceed the anchor is such a one. -/
def Obligations.ExactSum : Prop :=
  (∀ (xs ys : List Acc) (a : Acc), xs.Perm ys → xs.foldl Acc.add a = ys.foldl Acc.add a) ∧
  (∀ xs : List Acc, xs.length ≤ 65536 → (∀ x ∈ xs, x.a.toInt.natAbs < 2 ^ 111 ∧ x.checks = true) →
    (let t := xs.foldl Acc.add Acc.blank
     t.a.toInt = intSum (xs.map (fun x => x.a.toInt)) ∧ t.checks = true ∧ t.sat = xs.any (fun x => x.sat))) ∧
  (∀ (anchor : Int) (explicit neg : Bool) (m : Nat) (e : Int), m < 2 ^ 53 → (m ≠ 0 → expOf m e ≤ anchor) →
    (let x := contribution anchor explicit (.fin neg m e)
     x.a.toInt.natAbs < 2 ^ 111 ∧ x.checks = true ∧ x.special = .finite ∧ x.sat = false))

/-- The eight 16-bit words of A added. -/
def Sys2Proof.wordSum (a : BitVec 128) : Nat := (List.range 8).foldl (fun t i => t + a.toNat / 2 ^ (16 * i) % 2 ^ 16) 0

/-- End-around carry; `fuel` bounds the folds. -/
def Sys2Proof.endAround : Nat → Nat → Nat
  | 0, t => t
  | fuel + 1, t => if 0xFFFF < t then endAround fuel (t % 2 ^ 16 + t / 2 ^ 16) else t

/-- The residue that the folding of R57 computes. -/
def Sys2Proof.foldedResidue (a : BitVec 128) : Nat :=
  let t := endAround 8 (wordSum a)
  let r := if t = 0xFFFF then 0 else t
  if a.getLsbD 127 then (r + 65534) % 65535 else r

/-- The residue of R56 and the folding of R57 are one: A modulo 65,535 is what the eight words of A fold to, corrected for the sign;
it is below 65,535, and it follows addition as long as A does not leave 128 bits. -/
def Obligations.ResidueMatchesFolding : Prop :=
  (∀ a : BitVec 128, (residueOf a).toNat = foldedResidue a ∧ (residueOf a).toNat < 65535) ∧
  (∀ a b : BitVec 128, -(2 ^ 127) ≤ a.toInt + b.toInt → a.toInt + b.toInt < 2 ^ 127 →
    residueOf (a + b) = residueAdd (residueOf a) (residueOf b))

/-- Memory and registers read back what was written and nothing else, wherever the write went; the byte that no command has written
reads as it did at reset (the reset contents are the model's choice, log 3). -/
def Obligations.MemoryReadsBack : Prop :=
  ∀ s : State,
    (∀ a bs, memRead (memWrite s a bs) a bs.length = bs ∧ (memWrite s a bs).regs = s.regs ∧
      (∀ b n, (b + n ≤ a ∨ a + bs.length ≤ b) → memRead (memWrite s a bs) b n = memRead s b n)) ∧
    (∀ a n, memRead (memZero s a n) a n = zeros n ∧ ∀ b k, (b + k ≤ a ∨ a + n ≤ b) → memRead (memZero s a n) b k = memRead s b k) ∧
    (∀ o v, reg (setReg s o v) o = v ∧ (setReg s o v).mem = s.mem ∧ ∀ o', o' ≠ o → reg (setReg s o v) o' = reg s o') ∧
    (∀ a, s.mem = [] → memByte s a = memDefault a) ∧
    (Memory.wf s.mem = true → ∀ a bs, memWrite (memWrite s a bs) a bs = memWrite s a bs)

/-- Every step keeps memory and registers in their canonical form: addresses strictly rising, and no entry equal to what an unlisted
one reads as, so that equal memories are equal data. -/
def Obligations.StepKeepsSound : Prop := ∀ s t : State, Sound s → step s = .next t → Sound t

/-- Special values and the sign of zero (R47, R50): what each contribution sets, that a special one adds nothing to A, how two
states combine, what each state gives at the final rounding, and which zero a zero result is. -/
def Obligations.SpecialsAndZeros : Prop :=
  (∀ (anchor : Int) (ex : Bool), (contribution anchor ex .nan).special = .nan ∧ (contribution anchor ex (.inf false)).special = .posInf ∧
    (contribution anchor ex (.inf true)).special = .negInf ∧ (∀ n m e, (contribution anchor ex (.fin n m e)).special = .finite) ∧
    (∀ v : Machine.Num, v.special ≠ .finite → (contribution anchor ex v).a = 0)) ∧
  (∀ code enc, decodeMx code 0xFF enc = .nan) ∧
  (∀ x y : Acc, (x.add y).special = x.special.join y.special) ∧
  (∀ x y z : Special, Special.finite.join x = x ∧ x.join .finite = x ∧ Special.nan.join x = .nan ∧ x.join .nan = .nan ∧
    Special.posInf.join .posInf = .posInf ∧ Special.posInf.join .negInf = .nan ∧ Special.negInf.join .negInf = .negInf ∧
    Special.negInf.join .posInf = .nan ∧ x.join y = y.join x ∧ (x.join y).join z = x.join (y.join z)) ∧
  (∀ code f (mode r : Nat) (anchor : Int), isFloat code = true → floatFmt code = some f →
    (let z := 2 ^ (f.width - 1)
     (∀ x : Acc,
       (x.special = .nan → roundPlain code mode r (x.value anchor) = (f.nan, false)) ∧
       (x.special = .posInf → roundPlain code mode r (x.value anchor) = (if f.inf then f.maxEnc + 1 else f.nan, false)) ∧
       (x.special = .negInf → roundPlain code mode r (x.value anchor) = (if f.inf then z + f.maxEnc + 1 else f.nan, false))) ∧
     (∀ (ex : Bool) (vs : List Machine.Num), vs ≠ [] → (∀ v ∈ vs, v.special = .finite) →
       (let t := (vs.map (contribution anchor ex)).foldl Acc.add Acc.blank
        let out := roundPlain code mode r (t.value anchor)
        ((∀ v ∈ vs, ∃ e, v = .fin true 0 e) → out = (z, false)) ∧
        (t.a = 0 → (∃ v ∈ vs, ∀ e, v ≠ .fin true 0 e) → out = (0, false)) ∧
        (t.a ≠ 0 → out.1 % z = 0 → out.1 = (if t.a.toInt < 0 then z else 0))))))

/-- MAX, MIN, AND, OR and XOR on integers (R59): MAX and MIN compare exactly and saturate at the limits of the output format; AND,
OR and XOR act bit by bit on the encoding and give the same format back; none depends on an anchor, overflows beyond that, or
carries a special state. -/
def Obligations.IntegerReductions : Prop :=
  ∀ (code : Nat) (e : Nat) (es : List Nat), isInt code = true → (∀ x ∈ e :: es, x < 2 ^ elemBits code) →
    (∀ op ∈ [opMax, opMin, opAnd, opOr, opXor], (((e :: es).map (intContribution code op)).foldl (combine op code) Acc.blank).special = .finite) ∧
    (∀ (anchor : Int) (mode r : Nat),
      (∀ op ∈ [opMax, opMin], ∀ out, isInt out = true →
        (let t := ((e :: es).map (intContribution code op)).foldl (combine op code) Acc.blank
         let v := (es.map (decodeInt code)).foldl (if op = opMax then max else min) (decodeInt code e)
         let p := roundPlain out mode r (t.result op code anchor)
         decodeInt out p.1 = max (intLimits out).1 (min (intLimits out).2 v) ∧ p.2 = decide (v < (intLimits out).1 ∨ (intLimits out).2 < v))) ∧
      (∀ op f, (op, f) ∈ [(opAnd, (· &&& · : Nat → Nat → Nat)), (opOr, (· ||| ·)), (opXor, (· ^^^ ·))] →
        roundPlain code mode r ((((e :: es).map (intContribution code op)).foldl (combine op code) Acc.blank).result op code anchor) =
          (es.foldl f e, false)))
end

