-- ==== Sys2Proof/Laws/Crypto.lean ====
section
/-!
SUPPORT. Laws of AES-256-GCM: what is sealed under a key opens under it (R441).
-/
namespace Sys2Proof.Machine

open Sys2Proof

theorem fit_length (n : Nat) (bs : Bytes) : (fit n bs).length = n := by simp [fit, zeros]; omega

theorem xorBytes_length (a b : Bytes) : (xorBytes a b).length = min a.length b.length := by simp [xorBytes]

/-- The exclusive or with the same bytes, twice, gives a string back where they are long enough. -/
theorem xorBytes_twice (a b : Bytes) (h : a.length ≤ b.length) : xorBytes (xorBytes a b) b = a := by
  induction a generalizing b with
  | nil => simp [xorBytes]
  | cons x a ih => cases b with
    | nil => simp at h
    | cons y b => simpa [xorBytes, BitVec.xor_assoc] using ih b (by simpa using h)

/-- Whole pieces of a byte string. -/
theorem chunksOf_whole (n : Nat) (hn : 0 < n) : ∀ (fuel k : Nat) (bs : Bytes), bs.length = n * k → k ≤ fuel →
    (chunksOf n fuel bs).length = k ∧ ∀ c ∈ chunksOf n fuel bs, c.length = n := by
  intro fuel
  induction fuel with
  | zero => intro k bs h hk; have : k = 0 := by omega
            subst this; simp [chunksOf]
  | succ fuel ih =>
    intro k bs h hk
    cases k with
    | zero => have : bs = [] := List.length_eq_zero_iff.mp (by simpa using h)
              simp [chunksOf, this]
    | succ k =>
      rw [Nat.mul_succ] at h
      have hne : bs.isEmpty = false := by cases bs with
        | nil => simp at h; omega
        | cons => rfl
      have h2 := ih k (bs.drop n) (by rw [List.length_drop]; omega) (by omega)
      simp only [chunksOf, hne, Bool.false_eq_true, if_false, List.length_cons, List.mem_cons, forall_eq_or_imp]
      exact ⟨by rw [h2.1], by rw [List.length_take]; omega, h2.2⟩

theorem aesShift_length (s : Bytes) : (aesShift s).length = 16 := rfl
theorem aesMix_length (s : Bytes) (h : s.length = 16) : (aesMix s).length = 16 := by
  have hc := chunksOf_whole 4 (by decide) 4 4 s h (by decide)
  have hs : ∀ l : List Bytes, (l.flatMap (aesColumn 2 3 1 1)).length = 4 * l.length := by
    intro l
    induction l with
    | nil => rfl
    | cons x l ih => rw [List.flatMap_cons, List.length_append, ih, List.length_cons]; simp [aesColumn]; omega
  rw [aesMix, hs, hc.1]

theorem aesRounds_length : ∀ (ks : List Bytes) (s : Bytes), (∀ k ∈ ks, k.length = 16) → s.length = 16 → (aesRounds ks s).length = 16
  | [], s, _, h => h
  | [k], s, hk, _ => by rw [aesRounds, xorBytes_length, aesShift_length, hk k (by simp)]; rfl
  | k :: k2 :: ks, s, hk, _ => by
    rw [aesRounds]
    · exact aesRounds_length _ _ (fun x hx => hk x (by simp_all)) (by
        rw [xorBytes_length, aesMix_length _ (aesShift_length _), hk k (by simp)]; rfl)
    · simp

/-- Every word of the key schedule has four bytes, and there are as many as asked. -/
theorem aesExpand_words : ∀ (n i : Nat) (rcon : Byte) (w : List Bytes), 8 ≤ w.length → (∀ x ∈ w, x.length = 4) →
    (aesExpand n i rcon w).length = w.length + n ∧ ∀ x ∈ aesExpand n i rcon w, x.length = 4 := by
  intro n
  induction n with
  | zero => intro i rcon w _ h; exact ⟨rfl, h⟩
  | succ n ih =>
    intro i rcon w h8 hw
    have ht : (w.headD []).length = 4 := by
      cases w with
      | nil => simp at h8
      | cons x l => exact hw x (by simp)
    have hb : (w.getD 7 []).length = 4 := by
      have h7 : 7 < w.length := by omega
      rw [List.getD, List.getElem?_eq_getElem h7]
      exact hw _ (List.getElem_mem h7)
    have hu : ∀ u : Bytes, u.length = 4 → (xorBytes (w.getD 7 []) u).length = 4 := fun u hu => by rw [xorBytes_length, hb, hu]; rfl
    have hr := ih (i + 1) (if i % 8 = 0 then xtime rcon else rcon) (xorBytes (w.getD 7 [])
      (if i % 8 = 0 then xorBytes (((w.headD []).drop 1 ++ (w.headD []).take 1).map aesSub) [rcon, 0, 0, 0]
        else if i % 8 = 4 then (w.headD []).map aesSub else w.headD []) :: w) (by simp; omega) (by
      intro x hx
      rcases List.mem_cons.mp hx with rfl | hx
      · apply hu
        split
        · rw [xorBytes_length, List.length_map, List.length_append, List.length_drop, List.length_take, ht]; rfl
        · split
          · rw [List.length_map]; exact ht
          · exact ht
      · exact hw x hx)
    refine ⟨?_, hr.2⟩
    rw [aesExpand]
    rw [hr.1]
    simp; omega

/-- The fifteen round keys, of 16 bytes each. -/
theorem aesKeys_length (key : Bytes) : (aesKeys key).length = 15 ∧ ∀ k ∈ aesKeys key, k.length = 16 := by
  have hc := chunksOf_whole 4 (by decide) 8 8 (fit 32 key) (fit_length 32 key) (by decide)
  have hw := aesExpand_words 52 8 0x01 (chunksOf 4 8 (fit 32 key)).reverse (by simp [hc.1]) (fun x hx => hc.2 x (by simpa using hx))
  have hf : ∀ l : List Bytes, (∀ x ∈ l, x.length = 4) → l.flatten.length = 4 * l.length := by
    intro l hl
    induction l with
    | nil => rfl
    | cons x l ih => simp only [List.flatten_cons, List.length_append, List.length_cons, hl x (by simp), ih (fun y hy => hl y (by simp [hy]))]; omega
  exact (chunksOf_whole 16 (by decide) 16 15 _ (by
    rw [hf _ (fun x hx => hw.2 x (by simpa using hx)), List.length_reverse, hw.1, List.length_reverse, hc.1]) (by decide))

theorem aesBlock_length (key x : Bytes) : (aesBlock (aesKeys key) x).length = 16 := by
  have hk := aesKeys_length key
  rw [aesBlock]
  refine aesRounds_length _ _ (fun k h => hk.2 k (List.mem_of_mem_drop h)) ?_
  rw [xorBytes_length, fit_length]
  cases h : aesKeys key with
  | nil => simp [h] at hk
  | cons k l => rw [List.headD_cons, hk.2 k (by rw [h]; simp)]; rfl

theorem ctrStream_length (key iv : Bytes) : ∀ n i, (ctrStream (aesKeys key) iv n i).length = 16 * n
  | 0, _ => rfl
  | n + 1, i => by rw [ctrStream, List.length_append, aesBlock_length, ctrStream_length key iv n (i + 1)]; omega

theorem gcmCtr_length (key iv d : Bytes) : (gcmCtr (aesKeys key) iv d).length = d.length := by
  rw [gcmCtr, xorBytes_length, ctrStream_length, ceilDiv]; omega

/-- Counter mode undoes itself. -/
theorem gcmCtr_twice (key iv d : Bytes) : gcmCtr (aesKeys key) iv (gcmCtr (aesKeys key) iv d) = d := by
  rw [gcmCtr, gcmCtr_length]
  exact xorBytes_twice d _ (by rw [ctrStream_length, ceilDiv]; omega)

theorem gcmTag_length (key iv aad c : Bytes) : (gcmTag (aesKeys key) iv aad c).length = 16 := by
  simp only [gcmTag, xorBytes_length, aesBlock_length, toBe, List.length_reverse, toLe_length]; rfl

/-- How a ciphertext and its tag of 16 bytes open. -/
theorem gcmOpen_append (key iv aad c tag : Bytes) (h : tag.length = 16) : gcmOpen key iv aad (c ++ tag) =
    if gcmTag (aesKeys key) iv aad c = tag then some (gcmCtr (aesKeys key) iv c) else none := by
  rw [gcmOpen, if_neg (by rw [List.length_append]; omega)]
  simp [h]

/-- What is sealed under a key, an IV and associated data opens under them. -/
theorem gcmOpen_gcmSeal (key iv aad plain : Bytes) : gcmOpen key iv aad (gcmSeal key iv aad plain) = some plain := by
  rw [gcmSeal, gcmOpen_append _ _ _ _ _ (gcmTag_length _ _ _ _), if_pos rfl, gcmCtr_twice]

theorem gcmSeal_length (key iv aad plain : Bytes) : (gcmSeal key iv aad plain).length = plain.length + 16 := by
  rw [gcmSeal, List.length_append, gcmCtr_length, gcmTag_length]

/-- Of two bodies that differ in their tag alone, at most one opens. -/
theorem gcmOpen_one_tag (key iv aad c t1 t2 : Bytes) (h1 : t1.length = 16) (h2 : t2.length = 16) (hne : t1 ≠ t2) :
    gcmOpen key iv aad (c ++ t1) = none ∨ gcmOpen key iv aad (c ++ t2) = none := by
  rw [gcmOpen_append _ _ _ _ _ h1, gcmOpen_append _ _ _ _ _ h2]
  by_cases ht : gcmTag (aesKeys key) iv aad c = t1
  · exact .inr (if_neg fun h' => hne (ht.symm.trans h'))
  · exact .inl (if_neg ht)

end Sys2Proof.Machine
end

