-- ==== Sys2Proof/Laws/State.lean ====
section
/-!
SUPPORT. What each basic operation over the state leaves as it was: one lemma for each field it does not change.
-/
namespace Sys2Proof.Machine

open Sys2Proof

variable (s : State)

@[simp] theorem memWrite_pending (a : Nat) (bs : Bytes) : (memWrite s a bs).pending = s.pending := rfl
@[simp] theorem memWrite_variant (a : Nat) (bs : Bytes) : (memWrite s a bs).variant = s.variant := rfl
@[simp] theorem memWrite_mode (a : Nat) (bs : Bytes) : (memWrite s a bs).mode = s.mode := rfl
@[simp] theorem memWrite_degraded (a : Nat) (bs : Bytes) : (memWrite s a bs).degraded = s.degraded := rfl
@[simp] theorem memWrite_role (a : Nat) (bs : Bytes) : (memWrite s a bs).role = s.role := rfl
@[simp] theorem memWrite_now (a : Nat) (bs : Bytes) : (memWrite s a bs).now = s.now := rfl
@[simp] theorem memWrite_fresh (a : Nat) (bs : Bytes) : (memWrite s a bs).fresh = s.fresh := rfl
@[simp] theorem memWrite_pins (a : Nat) (bs : Bytes) : (memWrite s a bs).pins = s.pins := rfl
@[simp] theorem memWrite_regs (a : Nat) (bs : Bytes) : (memWrite s a bs).regs = s.regs := rfl
@[simp] theorem memWrite_host (a : Nat) (bs : Bytes) : (memWrite s a bs).host = s.host := rfl
@[simp] theorem memWrite_power (a : Nat) (bs : Bytes) : (memWrite s a bs).power = s.power := rfl
@[simp] theorem memWrite_sec (a : Nat) (bs : Bytes) : (memWrite s a bs).sec = s.sec := rfl
@[simp] theorem memWrite_ctxs (a : Nat) (bs : Bytes) : (memWrite s a bs).ctxs = s.ctxs := rfl
@[simp] theorem memWrite_queues (a : Nat) (bs : Bytes) : (memWrite s a bs).queues = s.queues := rfl
@[simp] theorem memWrite_cmds (a : Nat) (bs : Bytes) : (memWrite s a bs).cmds = s.cmds := rfl
@[simp] theorem memWrite_reqs (a : Nat) (bs : Bytes) : (memWrite s a bs).reqs = s.reqs := rfl
@[simp] theorem memWrite_ports (a : Nat) (bs : Bytes) : (memWrite s a bs).ports = s.ports := rfl
@[simp] theorem memWrite_switch (a : Nat) (bs : Bytes) : (memWrite s a bs).switch = s.switch := rfl
@[simp] theorem memWrite_groups (a : Nat) (bs : Bytes) : (memWrite s a bs).groups = s.groups := rfl
@[simp] theorem memWrite_colls (a : Nat) (bs : Bytes) : (memWrite s a bs).colls = s.colls := rfl
@[simp] theorem memWrite_hb (a : Nat) (bs : Bytes) : (memWrite s a bs).hb = s.hb := rfl
@[simp] theorem memWrite_ls (a : Nat) (bs : Bytes) : (memWrite s a bs).ls = s.ls := rfl
@[simp] theorem memWrite_age (a : Nat) (bs : Bytes) : (memWrite s a bs).age = s.age := rfl
@[simp] theorem memWrite_dump (a : Nat) (bs : Bytes) : (memWrite s a bs).dump = s.dump := rfl
@[simp] theorem memWrite_teardowns (a : Nat) (bs : Bytes) : (memWrite s a bs).teardowns = s.teardowns := rfl
@[simp] theorem memWrite_out (a : Nat) (bs : Bytes) : (memWrite s a bs).out = s.out := rfl

@[simp] theorem memZero_pending (a n : Nat) : (memZero s a n).pending = s.pending := rfl
@[simp] theorem memZero_variant (a n : Nat) : (memZero s a n).variant = s.variant := rfl
@[simp] theorem memZero_mode (a n : Nat) : (memZero s a n).mode = s.mode := rfl
@[simp] theorem memZero_degraded (a n : Nat) : (memZero s a n).degraded = s.degraded := rfl
@[simp] theorem memZero_role (a n : Nat) : (memZero s a n).role = s.role := rfl
@[simp] theorem memZero_now (a n : Nat) : (memZero s a n).now = s.now := rfl
@[simp] theorem memZero_fresh (a n : Nat) : (memZero s a n).fresh = s.fresh := rfl
@[simp] theorem memZero_pins (a n : Nat) : (memZero s a n).pins = s.pins := rfl
@[simp] theorem memZero_regs (a n : Nat) : (memZero s a n).regs = s.regs := rfl
@[simp] theorem memZero_host (a n : Nat) : (memZero s a n).host = s.host := rfl
@[simp] theorem memZero_power (a n : Nat) : (memZero s a n).power = s.power := rfl
@[simp] theorem memZero_sec (a n : Nat) : (memZero s a n).sec = s.sec := rfl
@[simp] theorem memZero_ctxs (a n : Nat) : (memZero s a n).ctxs = s.ctxs := rfl
@[simp] theorem memZero_queues (a n : Nat) : (memZero s a n).queues = s.queues := rfl
@[simp] theorem memZero_cmds (a n : Nat) : (memZero s a n).cmds = s.cmds := rfl
@[simp] theorem memZero_reqs (a n : Nat) : (memZero s a n).reqs = s.reqs := rfl
@[simp] theorem memZero_ports (a n : Nat) : (memZero s a n).ports = s.ports := rfl
@[simp] theorem memZero_switch (a n : Nat) : (memZero s a n).switch = s.switch := rfl
@[simp] theorem memZero_groups (a n : Nat) : (memZero s a n).groups = s.groups := rfl
@[simp] theorem memZero_colls (a n : Nat) : (memZero s a n).colls = s.colls := rfl
@[simp] theorem memZero_hb (a n : Nat) : (memZero s a n).hb = s.hb := rfl
@[simp] theorem memZero_ls (a n : Nat) : (memZero s a n).ls = s.ls := rfl
@[simp] theorem memZero_age (a n : Nat) : (memZero s a n).age = s.age := rfl
@[simp] theorem memZero_dump (a n : Nat) : (memZero s a n).dump = s.dump := rfl
@[simp] theorem memZero_teardowns (a n : Nat) : (memZero s a n).teardowns = s.teardowns := rfl
@[simp] theorem memZero_out (a n : Nat) : (memZero s a n).out = s.out := rfl

/-- What does not see registers sees nothing of a register write; and so for the other operations on registers. -/
theorem setReg_keep {α : Type} (f : State → α) (hr : ∀ s g, f { s with regs := g } = f s) (o : Nat) (v : Word) :
    f (setReg s o v) = f s := hr s _
theorem countEvent_keep {α : Type} (f : State → α) (hr : ∀ s g, f { s with regs := g } = f s) (c g i : Nat) :
    f (countEvent s c g i) = f s := by
  unfold countEvent setFlag bump
  rw [setReg_keep _ f hr, setReg_keep _ f hr]

@[simp] theorem setReg_pending (o : Nat) (v : Word) : (setReg s o v).pending = s.pending := rfl
@[simp] theorem setReg_variant (o : Nat) (v : Word) : (setReg s o v).variant = s.variant := rfl
@[simp] theorem setReg_mode (o : Nat) (v : Word) : (setReg s o v).mode = s.mode := rfl
@[simp] theorem setReg_degraded (o : Nat) (v : Word) : (setReg s o v).degraded = s.degraded := rfl
@[simp] theorem setReg_role (o : Nat) (v : Word) : (setReg s o v).role = s.role := rfl
@[simp] theorem setReg_now (o : Nat) (v : Word) : (setReg s o v).now = s.now := rfl
@[simp] theorem setReg_fresh (o : Nat) (v : Word) : (setReg s o v).fresh = s.fresh := rfl
@[simp] theorem setReg_pins (o : Nat) (v : Word) : (setReg s o v).pins = s.pins := rfl
@[simp] theorem setReg_mem (o : Nat) (v : Word) : (setReg s o v).mem = s.mem := rfl
@[simp] theorem setReg_host (o : Nat) (v : Word) : (setReg s o v).host = s.host := rfl
@[simp] theorem setReg_power (o : Nat) (v : Word) : (setReg s o v).power = s.power := rfl
@[simp] theorem setReg_sec (o : Nat) (v : Word) : (setReg s o v).sec = s.sec := rfl
@[simp] theorem setReg_ctxs (o : Nat) (v : Word) : (setReg s o v).ctxs = s.ctxs := rfl
@[simp] theorem setReg_queues (o : Nat) (v : Word) : (setReg s o v).queues = s.queues := rfl
@[simp] theorem setReg_cmds (o : Nat) (v : Word) : (setReg s o v).cmds = s.cmds := rfl
@[simp] theorem setReg_reqs (o : Nat) (v : Word) : (setReg s o v).reqs = s.reqs := rfl
@[simp] theorem setReg_ports (o : Nat) (v : Word) : (setReg s o v).ports = s.ports := rfl
@[simp] theorem setReg_switch (o : Nat) (v : Word) : (setReg s o v).switch = s.switch := rfl
@[simp] theorem setReg_groups (o : Nat) (v : Word) : (setReg s o v).groups = s.groups := rfl
@[simp] theorem setReg_colls (o : Nat) (v : Word) : (setReg s o v).colls = s.colls := rfl
@[simp] theorem setReg_hb (o : Nat) (v : Word) : (setReg s o v).hb = s.hb := rfl
@[simp] theorem setReg_ls (o : Nat) (v : Word) : (setReg s o v).ls = s.ls := rfl
@[simp] theorem setReg_age (o : Nat) (v : Word) : (setReg s o v).age = s.age := rfl
@[simp] theorem setReg_dump (o : Nat) (v : Word) : (setReg s o v).dump = s.dump := rfl
@[simp] theorem setReg_teardowns (o : Nat) (v : Word) : (setReg s o v).teardowns = s.teardowns := rfl
@[simp] theorem setReg_out (o : Nat) (v : Word) : (setReg s o v).out = s.out := rfl

@[simp] theorem setRegField_pending (o h l v : Nat) : (setRegField s o h l v).pending = s.pending := rfl
@[simp] theorem setRegField_variant (o h l v : Nat) : (setRegField s o h l v).variant = s.variant := rfl
@[simp] theorem setRegField_mode (o h l v : Nat) : (setRegField s o h l v).mode = s.mode := rfl
@[simp] theorem setRegField_degraded (o h l v : Nat) : (setRegField s o h l v).degraded = s.degraded := rfl
@[simp] theorem setRegField_role (o h l v : Nat) : (setRegField s o h l v).role = s.role := rfl
@[simp] theorem setRegField_now (o h l v : Nat) : (setRegField s o h l v).now = s.now := rfl
@[simp] theorem setRegField_fresh (o h l v : Nat) : (setRegField s o h l v).fresh = s.fresh := rfl
@[simp] theorem setRegField_pins (o h l v : Nat) : (setRegField s o h l v).pins = s.pins := rfl
@[simp] theorem setRegField_mem (o h l v : Nat) : (setRegField s o h l v).mem = s.mem := rfl
@[simp] theorem setRegField_host (o h l v : Nat) : (setRegField s o h l v).host = s.host := rfl
@[simp] theorem setRegField_power (o h l v : Nat) : (setRegField s o h l v).power = s.power := rfl
@[simp] theorem setRegField_sec (o h l v : Nat) : (setRegField s o h l v).sec = s.sec := rfl
@[simp] theorem setRegField_ctxs (o h l v : Nat) : (setRegField s o h l v).ctxs = s.ctxs := rfl
@[simp] theorem setRegField_queues (o h l v : Nat) : (setRegField s o h l v).queues = s.queues := rfl
@[simp] theorem setRegField_cmds (o h l v : Nat) : (setRegField s o h l v).cmds = s.cmds := rfl
@[simp] theorem setRegField_reqs (o h l v : Nat) : (setRegField s o h l v).reqs = s.reqs := rfl
@[simp] theorem setRegField_ports (o h l v : Nat) : (setRegField s o h l v).ports = s.ports := rfl
@[simp] theorem setRegField_switch (o h l v : Nat) : (setRegField s o h l v).switch = s.switch := rfl
@[simp] theorem setRegField_groups (o h l v : Nat) : (setRegField s o h l v).groups = s.groups := rfl
@[simp] theorem setRegField_colls (o h l v : Nat) : (setRegField s o h l v).colls = s.colls := rfl
@[simp] theorem setRegField_hb (o h l v : Nat) : (setRegField s o h l v).hb = s.hb := rfl
@[simp] theorem setRegField_ls (o h l v : Nat) : (setRegField s o h l v).ls = s.ls := rfl
@[simp] theorem setRegField_age (o h l v : Nat) : (setRegField s o h l v).age = s.age := rfl
@[simp] theorem setRegField_dump (o h l v : Nat) : (setRegField s o h l v).dump = s.dump := rfl
@[simp] theorem setRegField_teardowns (o h l v : Nat) : (setRegField s o h l v).teardowns = s.teardowns := rfl
@[simp] theorem setRegField_out (o h l v : Nat) : (setRegField s o h l v).out = s.out := rfl

@[simp] theorem bump_pending (o : Nat) : (bump s o).pending = s.pending := rfl
@[simp] theorem bump_variant (o : Nat) : (bump s o).variant = s.variant := rfl
@[simp] theorem bump_mode (o : Nat) : (bump s o).mode = s.mode := rfl
@[simp] theorem bump_degraded (o : Nat) : (bump s o).degraded = s.degraded := rfl
@[simp] theorem bump_role (o : Nat) : (bump s o).role = s.role := rfl
@[simp] theorem bump_now (o : Nat) : (bump s o).now = s.now := rfl
@[simp] theorem bump_fresh (o : Nat) : (bump s o).fresh = s.fresh := rfl
@[simp] theorem bump_pins (o : Nat) : (bump s o).pins = s.pins := rfl
@[simp] theorem bump_mem (o : Nat) : (bump s o).mem = s.mem := rfl
@[simp] theorem bump_host (o : Nat) : (bump s o).host = s.host := rfl
@[simp] theorem bump_power (o : Nat) : (bump s o).power = s.power := rfl
@[simp] theorem bump_sec (o : Nat) : (bump s o).sec = s.sec := rfl
@[simp] theorem bump_ctxs (o : Nat) : (bump s o).ctxs = s.ctxs := rfl
@[simp] theorem bump_queues (o : Nat) : (bump s o).queues = s.queues := rfl
@[simp] theorem bump_cmds (o : Nat) : (bump s o).cmds = s.cmds := rfl
@[simp] theorem bump_reqs (o : Nat) : (bump s o).reqs = s.reqs := rfl
@[simp] theorem bump_ports (o : Nat) : (bump s o).ports = s.ports := rfl
@[simp] theorem bump_switch (o : Nat) : (bump s o).switch = s.switch := rfl
@[simp] theorem bump_groups (o : Nat) : (bump s o).groups = s.groups := rfl
@[simp] theorem bump_colls (o : Nat) : (bump s o).colls = s.colls := rfl
@[simp] theorem bump_hb (o : Nat) : (bump s o).hb = s.hb := rfl
@[simp] theorem bump_ls (o : Nat) : (bump s o).ls = s.ls := rfl
@[simp] theorem bump_age (o : Nat) : (bump s o).age = s.age := rfl
@[simp] theorem bump_dump (o : Nat) : (bump s o).dump = s.dump := rfl
@[simp] theorem bump_teardowns (o : Nat) : (bump s o).teardowns = s.teardowns := rfl
@[simp] theorem bump_out (o : Nat) : (bump s o).out = s.out := rfl

@[simp] theorem setFlag_pending (o i : Nat) : (setFlag s o i).pending = s.pending := rfl
@[simp] theorem setFlag_variant (o i : Nat) : (setFlag s o i).variant = s.variant := rfl
@[simp] theorem setFlag_mode (o i : Nat) : (setFlag s o i).mode = s.mode := rfl
@[simp] theorem setFlag_degraded (o i : Nat) : (setFlag s o i).degraded = s.degraded := rfl
@[simp] theorem setFlag_role (o i : Nat) : (setFlag s o i).role = s.role := rfl
@[simp] theorem setFlag_now (o i : Nat) : (setFlag s o i).now = s.now := rfl
@[simp] theorem setFlag_fresh (o i : Nat) : (setFlag s o i).fresh = s.fresh := rfl
@[simp] theorem setFlag_pins (o i : Nat) : (setFlag s o i).pins = s.pins := rfl
@[simp] theorem setFlag_mem (o i : Nat) : (setFlag s o i).mem = s.mem := rfl
@[simp] theorem setFlag_host (o i : Nat) : (setFlag s o i).host = s.host := rfl
@[simp] theorem setFlag_power (o i : Nat) : (setFlag s o i).power = s.power := rfl
@[simp] theorem setFlag_sec (o i : Nat) : (setFlag s o i).sec = s.sec := rfl
@[simp] theorem setFlag_ctxs (o i : Nat) : (setFlag s o i).ctxs = s.ctxs := rfl
@[simp] theorem setFlag_queues (o i : Nat) : (setFlag s o i).queues = s.queues := rfl
@[simp] theorem setFlag_cmds (o i : Nat) : (setFlag s o i).cmds = s.cmds := rfl
@[simp] theorem setFlag_reqs (o i : Nat) : (setFlag s o i).reqs = s.reqs := rfl
@[simp] theorem setFlag_ports (o i : Nat) : (setFlag s o i).ports = s.ports := rfl
@[simp] theorem setFlag_switch (o i : Nat) : (setFlag s o i).switch = s.switch := rfl
@[simp] theorem setFlag_groups (o i : Nat) : (setFlag s o i).groups = s.groups := rfl
@[simp] theorem setFlag_colls (o i : Nat) : (setFlag s o i).colls = s.colls := rfl
@[simp] theorem setFlag_hb (o i : Nat) : (setFlag s o i).hb = s.hb := rfl
@[simp] theorem setFlag_ls (o i : Nat) : (setFlag s o i).ls = s.ls := rfl
@[simp] theorem setFlag_age (o i : Nat) : (setFlag s o i).age = s.age := rfl
@[simp] theorem setFlag_dump (o i : Nat) : (setFlag s o i).dump = s.dump := rfl
@[simp] theorem setFlag_teardowns (o i : Nat) : (setFlag s o i).teardowns = s.teardowns := rfl
@[simp] theorem setFlag_out (o i : Nat) : (setFlag s o i).out = s.out := rfl

@[simp] theorem countEvent_pending (c f i : Nat) : (countEvent s c f i).pending = s.pending := rfl
@[simp] theorem countEvent_variant (c f i : Nat) : (countEvent s c f i).variant = s.variant := rfl
@[simp] theorem countEvent_mode (c f i : Nat) : (countEvent s c f i).mode = s.mode := rfl
@[simp] theorem countEvent_degraded (c f i : Nat) : (countEvent s c f i).degraded = s.degraded := rfl
@[simp] theorem countEvent_role (c f i : Nat) : (countEvent s c f i).role = s.role := rfl
@[simp] theorem countEvent_now (c f i : Nat) : (countEvent s c f i).now = s.now := rfl
@[simp] theorem countEvent_fresh (c f i : Nat) : (countEvent s c f i).fresh = s.fresh := rfl
@[simp] theorem countEvent_pins (c f i : Nat) : (countEvent s c f i).pins = s.pins := rfl
@[simp] theorem countEvent_mem (c f i : Nat) : (countEvent s c f i).mem = s.mem := rfl
@[simp] theorem countEvent_host (c f i : Nat) : (countEvent s c f i).host = s.host := rfl
@[simp] theorem countEvent_power (c f i : Nat) : (countEvent s c f i).power = s.power := rfl
@[simp] theorem countEvent_sec (c f i : Nat) : (countEvent s c f i).sec = s.sec := rfl
@[simp] theorem countEvent_ctxs (c f i : Nat) : (countEvent s c f i).ctxs = s.ctxs := rfl
@[simp] theorem countEvent_queues (c f i : Nat) : (countEvent s c f i).queues = s.queues := rfl
@[simp] theorem countEvent_cmds (c f i : Nat) : (countEvent s c f i).cmds = s.cmds := rfl
@[simp] theorem countEvent_reqs (c f i : Nat) : (countEvent s c f i).reqs = s.reqs := rfl
@[simp] theorem countEvent_ports (c f i : Nat) : (countEvent s c f i).ports = s.ports := rfl
@[simp] theorem countEvent_switch (c f i : Nat) : (countEvent s c f i).switch = s.switch := rfl
@[simp] theorem countEvent_groups (c f i : Nat) : (countEvent s c f i).groups = s.groups := rfl
@[simp] theorem countEvent_colls (c f i : Nat) : (countEvent s c f i).colls = s.colls := rfl
@[simp] theorem countEvent_hb (c f i : Nat) : (countEvent s c f i).hb = s.hb := rfl
@[simp] theorem countEvent_ls (c f i : Nat) : (countEvent s c f i).ls = s.ls := rfl
@[simp] theorem countEvent_age (c f i : Nat) : (countEvent s c f i).age = s.age := rfl
@[simp] theorem countEvent_dump (c f i : Nat) : (countEvent s c f i).dump = s.dump := rfl
@[simp] theorem countEvent_teardowns (c f i : Nat) : (countEvent s c f i).teardowns = s.teardowns := rfl
@[simp] theorem countEvent_out (c f i : Nat) : (countEvent s c f i).out = s.out := rfl

@[simp] theorem detBreak_pending (f : Nat) : (detBreak s f).pending = s.pending := rfl
@[simp] theorem detBreak_variant (f : Nat) : (detBreak s f).variant = s.variant := rfl
@[simp] theorem detBreak_mode (f : Nat) : (detBreak s f).mode = s.mode := rfl
@[simp] theorem detBreak_degraded (f : Nat) : (detBreak s f).degraded = s.degraded := rfl
@[simp] theorem detBreak_role (f : Nat) : (detBreak s f).role = s.role := rfl
@[simp] theorem detBreak_now (f : Nat) : (detBreak s f).now = s.now := rfl
@[simp] theorem detBreak_fresh (f : Nat) : (detBreak s f).fresh = s.fresh := rfl
@[simp] theorem detBreak_pins (f : Nat) : (detBreak s f).pins = s.pins := rfl
@[simp] theorem detBreak_mem (f : Nat) : (detBreak s f).mem = s.mem := rfl
@[simp] theorem detBreak_host (f : Nat) : (detBreak s f).host = s.host := rfl
@[simp] theorem detBreak_power (f : Nat) : (detBreak s f).power = s.power := rfl
@[simp] theorem detBreak_sec (f : Nat) : (detBreak s f).sec = s.sec := rfl
@[simp] theorem detBreak_ctxs (f : Nat) : (detBreak s f).ctxs = s.ctxs := rfl
@[simp] theorem detBreak_queues (f : Nat) : (detBreak s f).queues = s.queues := rfl
@[simp] theorem detBreak_cmds (f : Nat) : (detBreak s f).cmds = s.cmds := rfl
@[simp] theorem detBreak_reqs (f : Nat) : (detBreak s f).reqs = s.reqs := rfl
@[simp] theorem detBreak_ports (f : Nat) : (detBreak s f).ports = s.ports := rfl
@[simp] theorem detBreak_switch (f : Nat) : (detBreak s f).switch = s.switch := rfl
@[simp] theorem detBreak_groups (f : Nat) : (detBreak s f).groups = s.groups := rfl
@[simp] theorem detBreak_colls (f : Nat) : (detBreak s f).colls = s.colls := rfl
@[simp] theorem detBreak_hb (f : Nat) : (detBreak s f).hb = s.hb := rfl
@[simp] theorem detBreak_ls (f : Nat) : (detBreak s f).ls = s.ls := rfl
@[simp] theorem detBreak_age (f : Nat) : (detBreak s f).age = s.age := rfl
@[simp] theorem detBreak_dump (f : Nat) : (detBreak s f).dump = s.dump := rfl
@[simp] theorem detBreak_teardowns (f : Nat) : (detBreak s f).teardowns = s.teardowns := rfl
@[simp] theorem detBreak_out (f : Nat) : (detBreak s f).out = s.out := rfl

@[simp] theorem advanceTo_pending (t : Nat) : (advanceTo s t).pending = s.pending := rfl
@[simp] theorem advanceTo_variant (t : Nat) : (advanceTo s t).variant = s.variant := rfl
@[simp] theorem advanceTo_mode (t : Nat) : (advanceTo s t).mode = s.mode := rfl
@[simp] theorem advanceTo_degraded (t : Nat) : (advanceTo s t).degraded = s.degraded := rfl
@[simp] theorem advanceTo_role (t : Nat) : (advanceTo s t).role = s.role := rfl
@[simp] theorem advanceTo_fresh (t : Nat) : (advanceTo s t).fresh = s.fresh := rfl
@[simp] theorem advanceTo_pins (t : Nat) : (advanceTo s t).pins = s.pins := rfl
@[simp] theorem advanceTo_regs (t : Nat) : (advanceTo s t).regs = s.regs := rfl
@[simp] theorem advanceTo_mem (t : Nat) : (advanceTo s t).mem = s.mem := rfl
@[simp] theorem advanceTo_host (t : Nat) : (advanceTo s t).host = s.host := rfl
@[simp] theorem advanceTo_power (t : Nat) : (advanceTo s t).power = s.power := rfl
@[simp] theorem advanceTo_sec (t : Nat) : (advanceTo s t).sec = s.sec := rfl
@[simp] theorem advanceTo_ctxs (t : Nat) : (advanceTo s t).ctxs = s.ctxs := rfl
@[simp] theorem advanceTo_queues (t : Nat) : (advanceTo s t).queues = s.queues := rfl
@[simp] theorem advanceTo_cmds (t : Nat) : (advanceTo s t).cmds = s.cmds := rfl
@[simp] theorem advanceTo_reqs (t : Nat) : (advanceTo s t).reqs = s.reqs := rfl
@[simp] theorem advanceTo_ports (t : Nat) : (advanceTo s t).ports = s.ports := rfl
@[simp] theorem advanceTo_switch (t : Nat) : (advanceTo s t).switch = s.switch := rfl
@[simp] theorem advanceTo_groups (t : Nat) : (advanceTo s t).groups = s.groups := rfl
@[simp] theorem advanceTo_colls (t : Nat) : (advanceTo s t).colls = s.colls := rfl
@[simp] theorem advanceTo_hb (t : Nat) : (advanceTo s t).hb = s.hb := rfl
@[simp] theorem advanceTo_ls (t : Nat) : (advanceTo s t).ls = s.ls := rfl
@[simp] theorem advanceTo_age (t : Nat) : (advanceTo s t).age = s.age := rfl
@[simp] theorem advanceTo_dump (t : Nat) : (advanceTo s t).dump = s.dump := rfl
@[simp] theorem advanceTo_teardowns (t : Nat) : (advanceTo s t).teardowns = s.teardowns := rfl
@[simp] theorem advanceTo_out (t : Nat) : (advanceTo s t).out = s.out := rfl

@[simp] theorem tick_pending : (tick s).pending = s.pending := rfl
@[simp] theorem tick_variant : (tick s).variant = s.variant := rfl
@[simp] theorem tick_mode : (tick s).mode = s.mode := rfl
@[simp] theorem tick_degraded : (tick s).degraded = s.degraded := rfl
@[simp] theorem tick_role : (tick s).role = s.role := rfl
@[simp] theorem tick_fresh : (tick s).fresh = s.fresh := rfl
@[simp] theorem tick_pins : (tick s).pins = s.pins := rfl
@[simp] theorem tick_regs : (tick s).regs = s.regs := rfl
@[simp] theorem tick_mem : (tick s).mem = s.mem := rfl
@[simp] theorem tick_host : (tick s).host = s.host := rfl
@[simp] theorem tick_power : (tick s).power = s.power := rfl
@[simp] theorem tick_sec : (tick s).sec = s.sec := rfl
@[simp] theorem tick_ctxs : (tick s).ctxs = s.ctxs := rfl
@[simp] theorem tick_queues : (tick s).queues = s.queues := rfl
@[simp] theorem tick_cmds : (tick s).cmds = s.cmds := rfl
@[simp] theorem tick_reqs : (tick s).reqs = s.reqs := rfl
@[simp] theorem tick_ports : (tick s).ports = s.ports := rfl
@[simp] theorem tick_switch : (tick s).switch = s.switch := rfl
@[simp] theorem tick_groups : (tick s).groups = s.groups := rfl
@[simp] theorem tick_colls : (tick s).colls = s.colls := rfl
@[simp] theorem tick_hb : (tick s).hb = s.hb := rfl
@[simp] theorem tick_ls : (tick s).ls = s.ls := rfl
@[simp] theorem tick_age : (tick s).age = s.age := rfl
@[simp] theorem tick_dump : (tick s).dump = s.dump := rfl
@[simp] theorem tick_teardowns : (tick s).teardowns = s.teardowns := rfl
@[simp] theorem tick_out : (tick s).out = s.out := rfl

@[simp] theorem emit_pending (o : Out) : (emit s o).pending = s.pending := rfl
@[simp] theorem emit_variant (o : Out) : (emit s o).variant = s.variant := rfl
@[simp] theorem emit_mode (o : Out) : (emit s o).mode = s.mode := rfl
@[simp] theorem emit_degraded (o : Out) : (emit s o).degraded = s.degraded := rfl
@[simp] theorem emit_role (o : Out) : (emit s o).role = s.role := rfl
@[simp] theorem emit_now (o : Out) : (emit s o).now = s.now := rfl
@[simp] theorem emit_fresh (o : Out) : (emit s o).fresh = s.fresh := rfl
@[simp] theorem emit_pins (o : Out) : (emit s o).pins = s.pins := rfl
@[simp] theorem emit_regs (o : Out) : (emit s o).regs = s.regs := rfl
@[simp] theorem emit_mem (o : Out) : (emit s o).mem = s.mem := rfl
@[simp] theorem emit_host (o : Out) : (emit s o).host = s.host := rfl
@[simp] theorem emit_power (o : Out) : (emit s o).power = s.power := rfl
@[simp] theorem emit_sec (o : Out) : (emit s o).sec = s.sec := rfl
@[simp] theorem emit_ctxs (o : Out) : (emit s o).ctxs = s.ctxs := rfl
@[simp] theorem emit_queues (o : Out) : (emit s o).queues = s.queues := rfl
@[simp] theorem emit_cmds (o : Out) : (emit s o).cmds = s.cmds := rfl
@[simp] theorem emit_reqs (o : Out) : (emit s o).reqs = s.reqs := rfl
@[simp] theorem emit_ports (o : Out) : (emit s o).ports = s.ports := rfl
@[simp] theorem emit_switch (o : Out) : (emit s o).switch = s.switch := rfl
@[simp] theorem emit_groups (o : Out) : (emit s o).groups = s.groups := rfl
@[simp] theorem emit_colls (o : Out) : (emit s o).colls = s.colls := rfl
@[simp] theorem emit_hb (o : Out) : (emit s o).hb = s.hb := rfl
@[simp] theorem emit_ls (o : Out) : (emit s o).ls = s.ls := rfl
@[simp] theorem emit_age (o : Out) : (emit s o).age = s.age := rfl
@[simp] theorem emit_dump (o : Out) : (emit s o).dump = s.dump := rfl
@[simp] theorem emit_teardowns (o : Out) : (emit s o).teardowns = s.teardowns := rfl

@[simp] theorem dropMsix_pending : (dropMsix s).pending = s.pending := rfl
@[simp] theorem dropMsix_variant : (dropMsix s).variant = s.variant := rfl
@[simp] theorem dropMsix_mode : (dropMsix s).mode = s.mode := rfl
@[simp] theorem dropMsix_degraded : (dropMsix s).degraded = s.degraded := rfl
@[simp] theorem dropMsix_role : (dropMsix s).role = s.role := rfl
@[simp] theorem dropMsix_now : (dropMsix s).now = s.now := rfl
@[simp] theorem dropMsix_fresh : (dropMsix s).fresh = s.fresh := rfl
@[simp] theorem dropMsix_pins : (dropMsix s).pins = s.pins := rfl
@[simp] theorem dropMsix_mem : (dropMsix s).mem = s.mem := rfl
@[simp] theorem dropMsix_host : (dropMsix s).host = s.host := rfl
@[simp] theorem dropMsix_power : (dropMsix s).power = s.power := rfl
@[simp] theorem dropMsix_sec : (dropMsix s).sec = s.sec := rfl
@[simp] theorem dropMsix_ctxs : (dropMsix s).ctxs = s.ctxs := rfl
@[simp] theorem dropMsix_queues : (dropMsix s).queues = s.queues := rfl
@[simp] theorem dropMsix_cmds : (dropMsix s).cmds = s.cmds := rfl
@[simp] theorem dropMsix_reqs : (dropMsix s).reqs = s.reqs := rfl
@[simp] theorem dropMsix_ports : (dropMsix s).ports = s.ports := rfl
@[simp] theorem dropMsix_switch : (dropMsix s).switch = s.switch := rfl
@[simp] theorem dropMsix_groups : (dropMsix s).groups = s.groups := rfl
@[simp] theorem dropMsix_colls : (dropMsix s).colls = s.colls := rfl
@[simp] theorem dropMsix_hb : (dropMsix s).hb = s.hb := rfl
@[simp] theorem dropMsix_ls : (dropMsix s).ls = s.ls := rfl
@[simp] theorem dropMsix_age : (dropMsix s).age = s.age := rfl
@[simp] theorem dropMsix_dump : (dropMsix s).dump = s.dump := rfl
@[simp] theorem dropMsix_teardowns : (dropMsix s).teardowns = s.teardowns := rfl
@[simp] theorem dropMsix_out : (dropMsix s).out = s.out := rfl

theorem spoilSlots_keep {α : Type} (f : State → α) (hc : ∀ s c, f { s with colls := c } = f s) (l : List SlotError) :
    f (l.foldl spoilSlots s) = f s := by
  induction l generalizing s with
  | nil => rfl
  | cons e l ih => exact (ih _).trans (hc s _)
/-- What sees neither memory, nor the listed faults, nor the collectives, sees nothing of what happened around a command. -/
theorem applyEnv_keep {α : Type} (f : State → α) (hc : ∀ s c, f { s with colls := c } = f s) (hm : ∀ s m, f { s with mem := m } = f s)
    (hf : ∀ s m, f { s with memFaults := m } = f s) (e : Env) : f (applyEnv s e) = f s := by
  have h := (hm (e.slotErrors.foldl spoilSlots s) (e.stores.foldl (fun m c => sparseSet memDefault m c.1 c.2)
    (e.slotErrors.foldl spoilSlots s).mem)).trans (spoilSlots_keep _ f hc e.slotErrors)
  unfold applyEnv
  cases e.faults with
  | none => exact h
  | some x => exact (hf _ x).trans h

@[simp] theorem applyEnv_pending (e : Env) : (applyEnv s e).pending = s.pending := applyEnv_keep s (·.pending) (fun _ _ => rfl) (fun _ _ => rfl) (fun _ _ => rfl) e
@[simp] theorem applyEnv_variant (e : Env) : (applyEnv s e).variant = s.variant := applyEnv_keep s (·.variant) (fun _ _ => rfl) (fun _ _ => rfl) (fun _ _ => rfl) e
@[simp] theorem applyEnv_mode (e : Env) : (applyEnv s e).mode = s.mode := applyEnv_keep s (·.mode) (fun _ _ => rfl) (fun _ _ => rfl) (fun _ _ => rfl) e
@[simp] theorem applyEnv_degraded (e : Env) : (applyEnv s e).degraded = s.degraded := applyEnv_keep s (·.degraded) (fun _ _ => rfl) (fun _ _ => rfl) (fun _ _ => rfl) e
@[simp] theorem applyEnv_role (e : Env) : (applyEnv s e).role = s.role := applyEnv_keep s (·.role) (fun _ _ => rfl) (fun _ _ => rfl) (fun _ _ => rfl) e
@[simp] theorem applyEnv_now (e : Env) : (applyEnv s e).now = s.now := applyEnv_keep s (·.now) (fun _ _ => rfl) (fun _ _ => rfl) (fun _ _ => rfl) e
@[simp] theorem applyEnv_fresh (e : Env) : (applyEnv s e).fresh = s.fresh := applyEnv_keep s (·.fresh) (fun _ _ => rfl) (fun _ _ => rfl) (fun _ _ => rfl) e
@[simp] theorem applyEnv_pins (e : Env) : (applyEnv s e).pins = s.pins := applyEnv_keep s (·.pins) (fun _ _ => rfl) (fun _ _ => rfl) (fun _ _ => rfl) e
@[simp] theorem applyEnv_regs (e : Env) : (applyEnv s e).regs = s.regs := applyEnv_keep s (·.regs) (fun _ _ => rfl) (fun _ _ => rfl) (fun _ _ => rfl) e
@[simp] theorem applyEnv_host (e : Env) : (applyEnv s e).host = s.host := applyEnv_keep s (·.host) (fun _ _ => rfl) (fun _ _ => rfl) (fun _ _ => rfl) e
@[simp] theorem applyEnv_power (e : Env) : (applyEnv s e).power = s.power := applyEnv_keep s (·.power) (fun _ _ => rfl) (fun _ _ => rfl) (fun _ _ => rfl) e
@[simp] theorem applyEnv_sec (e : Env) : (applyEnv s e).sec = s.sec := applyEnv_keep s (·.sec) (fun _ _ => rfl) (fun _ _ => rfl) (fun _ _ => rfl) e
@[simp] theorem applyEnv_ctxs (e : Env) : (applyEnv s e).ctxs = s.ctxs := applyEnv_keep s (·.ctxs) (fun _ _ => rfl) (fun _ _ => rfl) (fun _ _ => rfl) e
@[simp] theorem applyEnv_queues (e : Env) : (applyEnv s e).queues = s.queues := applyEnv_keep s (·.queues) (fun _ _ => rfl) (fun _ _ => rfl) (fun _ _ => rfl) e
@[simp] theorem applyEnv_cmds (e : Env) : (applyEnv s e).cmds = s.cmds := applyEnv_keep s (·.cmds) (fun _ _ => rfl) (fun _ _ => rfl) (fun _ _ => rfl) e
@[simp] theorem applyEnv_reqs (e : Env) : (applyEnv s e).reqs = s.reqs := applyEnv_keep s (·.reqs) (fun _ _ => rfl) (fun _ _ => rfl) (fun _ _ => rfl) e
@[simp] theorem applyEnv_ports (e : Env) : (applyEnv s e).ports = s.ports := applyEnv_keep s (·.ports) (fun _ _ => rfl) (fun _ _ => rfl) (fun _ _ => rfl) e
@[simp] theorem applyEnv_switch (e : Env) : (applyEnv s e).switch = s.switch := applyEnv_keep s (·.switch) (fun _ _ => rfl) (fun _ _ => rfl) (fun _ _ => rfl) e
@[simp] theorem applyEnv_groups (e : Env) : (applyEnv s e).groups = s.groups := applyEnv_keep s (·.groups) (fun _ _ => rfl) (fun _ _ => rfl) (fun _ _ => rfl) e
@[simp] theorem applyEnv_hb (e : Env) : (applyEnv s e).hb = s.hb := applyEnv_keep s (·.hb) (fun _ _ => rfl) (fun _ _ => rfl) (fun _ _ => rfl) e
@[simp] theorem applyEnv_ls (e : Env) : (applyEnv s e).ls = s.ls := applyEnv_keep s (·.ls) (fun _ _ => rfl) (fun _ _ => rfl) (fun _ _ => rfl) e
@[simp] theorem applyEnv_age (e : Env) : (applyEnv s e).age = s.age := applyEnv_keep s (·.age) (fun _ _ => rfl) (fun _ _ => rfl) (fun _ _ => rfl) e
@[simp] theorem applyEnv_dump (e : Env) : (applyEnv s e).dump = s.dump := applyEnv_keep s (·.dump) (fun _ _ => rfl) (fun _ _ => rfl) (fun _ _ => rfl) e
@[simp] theorem applyEnv_teardowns (e : Env) : (applyEnv s e).teardowns = s.teardowns := applyEnv_keep s (·.teardowns) (fun _ _ => rfl) (fun _ _ => rfl) (fun _ _ => rfl) e
@[simp] theorem applyEnv_out (e : Env) : (applyEnv s e).out = s.out := applyEnv_keep s (·.out) (fun _ _ => rfl) (fun _ _ => rfl) (fun _ _ => rfl) e

@[simp] theorem setHostPort_pending (i : Nat) (p : HostPort) : (setHostPort s i p).pending = s.pending := by unfold setHostPort; split <;> rfl
@[simp] theorem setHostPort_variant (i : Nat) (p : HostPort) : (setHostPort s i p).variant = s.variant := by unfold setHostPort; split <;> rfl
@[simp] theorem setHostPort_mode (i : Nat) (p : HostPort) : (setHostPort s i p).mode = s.mode := by unfold setHostPort; split <;> rfl
@[simp] theorem setHostPort_degraded (i : Nat) (p : HostPort) : (setHostPort s i p).degraded = s.degraded := by unfold setHostPort; split <;> rfl
@[simp] theorem setHostPort_role (i : Nat) (p : HostPort) : (setHostPort s i p).role = s.role := by unfold setHostPort; split <;> rfl
@[simp] theorem setHostPort_now (i : Nat) (p : HostPort) : (setHostPort s i p).now = s.now := by unfold setHostPort; split <;> rfl
@[simp] theorem setHostPort_fresh (i : Nat) (p : HostPort) : (setHostPort s i p).fresh = s.fresh := by unfold setHostPort; split <;> rfl
@[simp] theorem setHostPort_pins (i : Nat) (p : HostPort) : (setHostPort s i p).pins = s.pins := by unfold setHostPort; split <;> rfl
@[simp] theorem setHostPort_regs (i : Nat) (p : HostPort) : (setHostPort s i p).regs = s.regs := by unfold setHostPort; split <;> rfl
@[simp] theorem setHostPort_mem (i : Nat) (p : HostPort) : (setHostPort s i p).mem = s.mem := by unfold setHostPort; split <;> rfl
@[simp] theorem setHostPort_power (i : Nat) (p : HostPort) : (setHostPort s i p).power = s.power := by unfold setHostPort; split <;> rfl
@[simp] theorem setHostPort_sec (i : Nat) (p : HostPort) : (setHostPort s i p).sec = s.sec := by unfold setHostPort; split <;> rfl
@[simp] theorem setHostPort_ctxs (i : Nat) (p : HostPort) : (setHostPort s i p).ctxs = s.ctxs := by unfold setHostPort; split <;> rfl
@[simp] theorem setHostPort_queues (i : Nat) (p : HostPort) : (setHostPort s i p).queues = s.queues := by unfold setHostPort; split <;> rfl
@[simp] theorem setHostPort_cmds (i : Nat) (p : HostPort) : (setHostPort s i p).cmds = s.cmds := by unfold setHostPort; split <;> rfl
@[simp] theorem setHostPort_reqs (i : Nat) (p : HostPort) : (setHostPort s i p).reqs = s.reqs := by unfold setHostPort; split <;> rfl
@[simp] theorem setHostPort_ports (i : Nat) (p : HostPort) : (setHostPort s i p).ports = s.ports := by unfold setHostPort; split <;> rfl
@[simp] theorem setHostPort_switch (i : Nat) (p : HostPort) : (setHostPort s i p).switch = s.switch := by unfold setHostPort; split <;> rfl
@[simp] theorem setHostPort_groups (i : Nat) (p : HostPort) : (setHostPort s i p).groups = s.groups := by unfold setHostPort; split <;> rfl
@[simp] theorem setHostPort_colls (i : Nat) (p : HostPort) : (setHostPort s i p).colls = s.colls := by unfold setHostPort; split <;> rfl
@[simp] theorem setHostPort_hb (i : Nat) (p : HostPort) : (setHostPort s i p).hb = s.hb := by unfold setHostPort; split <;> rfl
@[simp] theorem setHostPort_ls (i : Nat) (p : HostPort) : (setHostPort s i p).ls = s.ls := by unfold setHostPort; split <;> rfl
@[simp] theorem setHostPort_age (i : Nat) (p : HostPort) : (setHostPort s i p).age = s.age := by unfold setHostPort; split <;> rfl
@[simp] theorem setHostPort_dump (i : Nat) (p : HostPort) : (setHostPort s i p).dump = s.dump := by unfold setHostPort; split <;> rfl
@[simp] theorem setHostPort_teardowns (i : Nat) (p : HostPort) : (setHostPort s i p).teardowns = s.teardowns := by unfold setHostPort; split <;> rfl
@[simp] theorem setHostPort_out (i : Nat) (p : HostPort) : (setHostPort s i p).out = s.out := by unfold setHostPort; split <;> rfl

theorem setHostPort_keep {α : Type} (f : State → α) (hh : ∀ s h, f { s with host := h } = f s) (i : Nat) (p : HostPort) :
    f (setHostPort s i p) = f s := by
  unfold setHostPort
  split
  · exact hh s _
  · exact hh s _
/-- What sees neither the host side nor the listed faults sees nothing of a host-memory read that failed. -/
theorem noteHostRead_keep {α : Type} (f : State → α) (hh : ∀ s h, f { s with host := h } = f s)
    (hf : ∀ s m, f { s with memFaults := m } = f s) (a n : Nat) : f (noteHostRead s a n) = f s := by
  unfold noteHostRead
  split
  · dsimp only
    rw [setHostPort_keep _ f hh, hf]
  · rfl

@[simp] theorem noteHostRead_pending (a n : Nat) : (noteHostRead s a n).pending = s.pending := noteHostRead_keep s (·.pending) (fun _ _ => rfl) (fun _ _ => rfl) a n
@[simp] theorem noteHostRead_variant (a n : Nat) : (noteHostRead s a n).variant = s.variant := noteHostRead_keep s (·.variant) (fun _ _ => rfl) (fun _ _ => rfl) a n
@[simp] theorem noteHostRead_mode (a n : Nat) : (noteHostRead s a n).mode = s.mode := noteHostRead_keep s (·.mode) (fun _ _ => rfl) (fun _ _ => rfl) a n
@[simp] theorem noteHostRead_degraded (a n : Nat) : (noteHostRead s a n).degraded = s.degraded := noteHostRead_keep s (·.degraded) (fun _ _ => rfl) (fun _ _ => rfl) a n
@[simp] theorem noteHostRead_role (a n : Nat) : (noteHostRead s a n).role = s.role := noteHostRead_keep s (·.role) (fun _ _ => rfl) (fun _ _ => rfl) a n
@[simp] theorem noteHostRead_now (a n : Nat) : (noteHostRead s a n).now = s.now := noteHostRead_keep s (·.now) (fun _ _ => rfl) (fun _ _ => rfl) a n
@[simp] theorem noteHostRead_fresh (a n : Nat) : (noteHostRead s a n).fresh = s.fresh := noteHostRead_keep s (·.fresh) (fun _ _ => rfl) (fun _ _ => rfl) a n
@[simp] theorem noteHostRead_pins (a n : Nat) : (noteHostRead s a n).pins = s.pins := noteHostRead_keep s (·.pins) (fun _ _ => rfl) (fun _ _ => rfl) a n
@[simp] theorem noteHostRead_regs (a n : Nat) : (noteHostRead s a n).regs = s.regs := noteHostRead_keep s (·.regs) (fun _ _ => rfl) (fun _ _ => rfl) a n
@[simp] theorem noteHostRead_mem (a n : Nat) : (noteHostRead s a n).mem = s.mem := noteHostRead_keep s (·.mem) (fun _ _ => rfl) (fun _ _ => rfl) a n
@[simp] theorem noteHostRead_power (a n : Nat) : (noteHostRead s a n).power = s.power := noteHostRead_keep s (·.power) (fun _ _ => rfl) (fun _ _ => rfl) a n
@[simp] theorem noteHostRead_sec (a n : Nat) : (noteHostRead s a n).sec = s.sec := noteHostRead_keep s (·.sec) (fun _ _ => rfl) (fun _ _ => rfl) a n
@[simp] theorem noteHostRead_ctxs (a n : Nat) : (noteHostRead s a n).ctxs = s.ctxs := noteHostRead_keep s (·.ctxs) (fun _ _ => rfl) (fun _ _ => rfl) a n
@[simp] theorem noteHostRead_queues (a n : Nat) : (noteHostRead s a n).queues = s.queues := noteHostRead_keep s (·.queues) (fun _ _ => rfl) (fun _ _ => rfl) a n
@[simp] theorem noteHostRead_cmds (a n : Nat) : (noteHostRead s a n).cmds = s.cmds := noteHostRead_keep s (·.cmds) (fun _ _ => rfl) (fun _ _ => rfl) a n
@[simp] theorem noteHostRead_reqs (a n : Nat) : (noteHostRead s a n).reqs = s.reqs := noteHostRead_keep s (·.reqs) (fun _ _ => rfl) (fun _ _ => rfl) a n
@[simp] theorem noteHostRead_ports (a n : Nat) : (noteHostRead s a n).ports = s.ports := noteHostRead_keep s (·.ports) (fun _ _ => rfl) (fun _ _ => rfl) a n
@[simp] theorem noteHostRead_switch (a n : Nat) : (noteHostRead s a n).switch = s.switch := noteHostRead_keep s (·.switch) (fun _ _ => rfl) (fun _ _ => rfl) a n
@[simp] theorem noteHostRead_groups (a n : Nat) : (noteHostRead s a n).groups = s.groups := noteHostRead_keep s (·.groups) (fun _ _ => rfl) (fun _ _ => rfl) a n
@[simp] theorem noteHostRead_colls (a n : Nat) : (noteHostRead s a n).colls = s.colls := noteHostRead_keep s (·.colls) (fun _ _ => rfl) (fun _ _ => rfl) a n
@[simp] theorem noteHostRead_hb (a n : Nat) : (noteHostRead s a n).hb = s.hb := noteHostRead_keep s (·.hb) (fun _ _ => rfl) (fun _ _ => rfl) a n
@[simp] theorem noteHostRead_ls (a n : Nat) : (noteHostRead s a n).ls = s.ls := noteHostRead_keep s (·.ls) (fun _ _ => rfl) (fun _ _ => rfl) a n
@[simp] theorem noteHostRead_age (a n : Nat) : (noteHostRead s a n).age = s.age := noteHostRead_keep s (·.age) (fun _ _ => rfl) (fun _ _ => rfl) a n
@[simp] theorem noteHostRead_dump (a n : Nat) : (noteHostRead s a n).dump = s.dump := noteHostRead_keep s (·.dump) (fun _ _ => rfl) (fun _ _ => rfl) a n
@[simp] theorem noteHostRead_teardowns (a n : Nat) : (noteHostRead s a n).teardowns = s.teardowns := noteHostRead_keep s (·.teardowns) (fun _ _ => rfl) (fun _ _ => rfl) a n
@[simp] theorem noteHostRead_out (a n : Nat) : (noteHostRead s a n).out = s.out := noteHostRead_keep s (·.out) (fun _ _ => rfl) (fun _ _ => rfl) a n

@[simp] theorem hostWrite_pending (a : Nat) (bs : Bytes) : (hostWrite s a bs).pending = s.pending := by unfold hostWrite; split <;> rfl
@[simp] theorem hostWrite_variant (a : Nat) (bs : Bytes) : (hostWrite s a bs).variant = s.variant := by unfold hostWrite; split <;> rfl
@[simp] theorem hostWrite_mode (a : Nat) (bs : Bytes) : (hostWrite s a bs).mode = s.mode := by unfold hostWrite; split <;> rfl
@[simp] theorem hostWrite_degraded (a : Nat) (bs : Bytes) : (hostWrite s a bs).degraded = s.degraded := by unfold hostWrite; split <;> rfl
@[simp] theorem hostWrite_role (a : Nat) (bs : Bytes) : (hostWrite s a bs).role = s.role := by unfold hostWrite; split <;> rfl
@[simp] theorem hostWrite_now (a : Nat) (bs : Bytes) : (hostWrite s a bs).now = s.now := by unfold hostWrite; split <;> rfl
@[simp] theorem hostWrite_fresh (a : Nat) (bs : Bytes) : (hostWrite s a bs).fresh = s.fresh := by unfold hostWrite; split <;> rfl
@[simp] theorem hostWrite_pins (a : Nat) (bs : Bytes) : (hostWrite s a bs).pins = s.pins := by unfold hostWrite; split <;> rfl
@[simp] theorem hostWrite_regs (a : Nat) (bs : Bytes) : (hostWrite s a bs).regs = s.regs := by unfold hostWrite; split <;> rfl
@[simp] theorem hostWrite_host (a : Nat) (bs : Bytes) : (hostWrite s a bs).host = s.host := by unfold hostWrite; split <;> rfl
@[simp] theorem hostWrite_power (a : Nat) (bs : Bytes) : (hostWrite s a bs).power = s.power := by unfold hostWrite; split <;> rfl
@[simp] theorem hostWrite_sec (a : Nat) (bs : Bytes) : (hostWrite s a bs).sec = s.sec := by unfold hostWrite; split <;> rfl
@[simp] theorem hostWrite_ctxs (a : Nat) (bs : Bytes) : (hostWrite s a bs).ctxs = s.ctxs := by unfold hostWrite; split <;> rfl
@[simp] theorem hostWrite_queues (a : Nat) (bs : Bytes) : (hostWrite s a bs).queues = s.queues := by unfold hostWrite; split <;> rfl
@[simp] theorem hostWrite_cmds (a : Nat) (bs : Bytes) : (hostWrite s a bs).cmds = s.cmds := by unfold hostWrite; split <;> rfl
@[simp] theorem hostWrite_reqs (a : Nat) (bs : Bytes) : (hostWrite s a bs).reqs = s.reqs := by unfold hostWrite; split <;> rfl
@[simp] theorem hostWrite_ports (a : Nat) (bs : Bytes) : (hostWrite s a bs).ports = s.ports := by unfold hostWrite; split <;> rfl
@[simp] theorem hostWrite_switch (a : Nat) (bs : Bytes) : (hostWrite s a bs).switch = s.switch := by unfold hostWrite; split <;> rfl
@[simp] theorem hostWrite_groups (a : Nat) (bs : Bytes) : (hostWrite s a bs).groups = s.groups := by unfold hostWrite; split <;> rfl
@[simp] theorem hostWrite_colls (a : Nat) (bs : Bytes) : (hostWrite s a bs).colls = s.colls := by unfold hostWrite; split <;> rfl
@[simp] theorem hostWrite_hb (a : Nat) (bs : Bytes) : (hostWrite s a bs).hb = s.hb := by unfold hostWrite; split <;> rfl
@[simp] theorem hostWrite_ls (a : Nat) (bs : Bytes) : (hostWrite s a bs).ls = s.ls := by unfold hostWrite; split <;> rfl
@[simp] theorem hostWrite_age (a : Nat) (bs : Bytes) : (hostWrite s a bs).age = s.age := by unfold hostWrite; split <;> rfl
@[simp] theorem hostWrite_dump (a : Nat) (bs : Bytes) : (hostWrite s a bs).dump = s.dump := by unfold hostWrite; split <;> rfl
@[simp] theorem hostWrite_teardowns (a : Nat) (bs : Bytes) : (hostWrite s a bs).teardowns = s.teardowns := by unfold hostWrite; split <;> rfl
@[simp] theorem hostWrite_out (a : Nat) (bs : Bytes) : (hostWrite s a bs).out = s.out := by unfold hostWrite; split <;> rfl

/-- What sees neither the host side, nor registers, nor what is sent, sees nothing of an MSI-X message. -/
theorem sendMsix_keep {α : Type} (f : State → α) (hh : ∀ s h, f { s with host := h } = f s)
    (hr : ∀ s g, f { s with regs := g } = f s) (ho : ∀ s o, f { s with out := o } = f s) (v : Nat) : f (sendMsix s v) = f s := by
  unfold sendMsix
  dsimp only
  split
  · exact countEvent_keep _ f hr _ _ _
  · split
    · exact setHostPort_keep _ f hh _ _
    · split
      · exact ho s _
      · rfl

@[simp] theorem sendMsix_pending (v : Nat) : (sendMsix s v).pending = s.pending := sendMsix_keep s (·.pending) (fun _ _ => rfl) (fun _ _ => rfl) (fun _ _ => rfl) v
@[simp] theorem sendMsix_variant (v : Nat) : (sendMsix s v).variant = s.variant := sendMsix_keep s (·.variant) (fun _ _ => rfl) (fun _ _ => rfl) (fun _ _ => rfl) v
@[simp] theorem sendMsix_mode (v : Nat) : (sendMsix s v).mode = s.mode := sendMsix_keep s (·.mode) (fun _ _ => rfl) (fun _ _ => rfl) (fun _ _ => rfl) v
@[simp] theorem sendMsix_degraded (v : Nat) : (sendMsix s v).degraded = s.degraded := sendMsix_keep s (·.degraded) (fun _ _ => rfl) (fun _ _ => rfl) (fun _ _ => rfl) v
@[simp] theorem sendMsix_role (v : Nat) : (sendMsix s v).role = s.role := sendMsix_keep s (·.role) (fun _ _ => rfl) (fun _ _ => rfl) (fun _ _ => rfl) v
@[simp] theorem sendMsix_now (v : Nat) : (sendMsix s v).now = s.now := sendMsix_keep s (·.now) (fun _ _ => rfl) (fun _ _ => rfl) (fun _ _ => rfl) v
@[simp] theorem sendMsix_fresh (v : Nat) : (sendMsix s v).fresh = s.fresh := sendMsix_keep s (·.fresh) (fun _ _ => rfl) (fun _ _ => rfl) (fun _ _ => rfl) v
@[simp] theorem sendMsix_pins (v : Nat) : (sendMsix s v).pins = s.pins := sendMsix_keep s (·.pins) (fun _ _ => rfl) (fun _ _ => rfl) (fun _ _ => rfl) v
@[simp] theorem sendMsix_mem (v : Nat) : (sendMsix s v).mem = s.mem := sendMsix_keep s (·.mem) (fun _ _ => rfl) (fun _ _ => rfl) (fun _ _ => rfl) v
@[simp] theorem sendMsix_power (v : Nat) : (sendMsix s v).power = s.power := sendMsix_keep s (·.power) (fun _ _ => rfl) (fun _ _ => rfl) (fun _ _ => rfl) v
@[simp] theorem sendMsix_sec (v : Nat) : (sendMsix s v).sec = s.sec := sendMsix_keep s (·.sec) (fun _ _ => rfl) (fun _ _ => rfl) (fun _ _ => rfl) v
@[simp] theorem sendMsix_ctxs (v : Nat) : (sendMsix s v).ctxs = s.ctxs := sendMsix_keep s (·.ctxs) (fun _ _ => rfl) (fun _ _ => rfl) (fun _ _ => rfl) v
@[simp] theorem sendMsix_queues (v : Nat) : (sendMsix s v).queues = s.queues := sendMsix_keep s (·.queues) (fun _ _ => rfl) (fun _ _ => rfl) (fun _ _ => rfl) v
@[simp] theorem sendMsix_cmds (v : Nat) : (sendMsix s v).cmds = s.cmds := sendMsix_keep s (·.cmds) (fun _ _ => rfl) (fun _ _ => rfl) (fun _ _ => rfl) v
@[simp] theorem sendMsix_reqs (v : Nat) : (sendMsix s v).reqs = s.reqs := sendMsix_keep s (·.reqs) (fun _ _ => rfl) (fun _ _ => rfl) (fun _ _ => rfl) v
@[simp] theorem sendMsix_ports (v : Nat) : (sendMsix s v).ports = s.ports := sendMsix_keep s (·.ports) (fun _ _ => rfl) (fun _ _ => rfl) (fun _ _ => rfl) v
@[simp] theorem sendMsix_switch (v : Nat) : (sendMsix s v).switch = s.switch := sendMsix_keep s (·.switch) (fun _ _ => rfl) (fun _ _ => rfl) (fun _ _ => rfl) v
@[simp] theorem sendMsix_groups (v : Nat) : (sendMsix s v).groups = s.groups := sendMsix_keep s (·.groups) (fun _ _ => rfl) (fun _ _ => rfl) (fun _ _ => rfl) v
@[simp] theorem sendMsix_colls (v : Nat) : (sendMsix s v).colls = s.colls := sendMsix_keep s (·.colls) (fun _ _ => rfl) (fun _ _ => rfl) (fun _ _ => rfl) v
@[simp] theorem sendMsix_hb (v : Nat) : (sendMsix s v).hb = s.hb := sendMsix_keep s (·.hb) (fun _ _ => rfl) (fun _ _ => rfl) (fun _ _ => rfl) v
@[simp] theorem sendMsix_ls (v : Nat) : (sendMsix s v).ls = s.ls := sendMsix_keep s (·.ls) (fun _ _ => rfl) (fun _ _ => rfl) (fun _ _ => rfl) v
@[simp] theorem sendMsix_age (v : Nat) : (sendMsix s v).age = s.age := sendMsix_keep s (·.age) (fun _ _ => rfl) (fun _ _ => rfl) (fun _ _ => rfl) v
@[simp] theorem sendMsix_dump (v : Nat) : (sendMsix s v).dump = s.dump := sendMsix_keep s (·.dump) (fun _ _ => rfl) (fun _ _ => rfl) (fun _ _ => rfl) v
@[simp] theorem sendMsix_teardowns (v : Nat) : (sendMsix s v).teardowns = s.teardowns := sendMsix_keep s (·.teardowns) (fun _ _ => rfl) (fun _ _ => rfl) (fun _ _ => rfl) v

theorem hostWrite_keep {α : Type} (f : State → α) (hm : ∀ s m, f { s with mem := m } = f s) (a : Nat) (bs : Bytes) :
    f (hostWrite s a bs) = f s := by
  unfold hostWrite
  split
  · exact hm s _
  · rfl
/-- What sees neither memory nor registers sees nothing of a ring record. -/
theorem ringPut_keep {α : Type} (f : State → α) (hm : ∀ s m, f { s with mem := m } = f s) (hr : ∀ s g, f { s with regs := g } = f s)
    (r : RingRegs) (b : Bytes) : f (ringPut s r b) = f s := by
  unfold ringPut
  dsimp only
  rw [setReg_keep _ f hr, hostWrite_keep _ f hm]

@[simp] theorem ringPut_pending (r : RingRegs) (b : Bytes) : (ringPut s r b).pending = s.pending := ringPut_keep s (·.pending) (fun _ _ => rfl) (fun _ _ => rfl) r b
@[simp] theorem ringPut_variant (r : RingRegs) (b : Bytes) : (ringPut s r b).variant = s.variant := ringPut_keep s (·.variant) (fun _ _ => rfl) (fun _ _ => rfl) r b
@[simp] theorem ringPut_mode (r : RingRegs) (b : Bytes) : (ringPut s r b).mode = s.mode := ringPut_keep s (·.mode) (fun _ _ => rfl) (fun _ _ => rfl) r b
@[simp] theorem ringPut_degraded (r : RingRegs) (b : Bytes) : (ringPut s r b).degraded = s.degraded := ringPut_keep s (·.degraded) (fun _ _ => rfl) (fun _ _ => rfl) r b
@[simp] theorem ringPut_role (r : RingRegs) (b : Bytes) : (ringPut s r b).role = s.role := ringPut_keep s (·.role) (fun _ _ => rfl) (fun _ _ => rfl) r b
@[simp] theorem ringPut_now (r : RingRegs) (b : Bytes) : (ringPut s r b).now = s.now := ringPut_keep s (·.now) (fun _ _ => rfl) (fun _ _ => rfl) r b
@[simp] theorem ringPut_fresh (r : RingRegs) (b : Bytes) : (ringPut s r b).fresh = s.fresh := ringPut_keep s (·.fresh) (fun _ _ => rfl) (fun _ _ => rfl) r b
@[simp] theorem ringPut_pins (r : RingRegs) (b : Bytes) : (ringPut s r b).pins = s.pins := ringPut_keep s (·.pins) (fun _ _ => rfl) (fun _ _ => rfl) r b
@[simp] theorem ringPut_host (r : RingRegs) (b : Bytes) : (ringPut s r b).host = s.host := ringPut_keep s (·.host) (fun _ _ => rfl) (fun _ _ => rfl) r b
@[simp] theorem ringPut_power (r : RingRegs) (b : Bytes) : (ringPut s r b).power = s.power := ringPut_keep s (·.power) (fun _ _ => rfl) (fun _ _ => rfl) r b
@[simp] theorem ringPut_sec (r : RingRegs) (b : Bytes) : (ringPut s r b).sec = s.sec := ringPut_keep s (·.sec) (fun _ _ => rfl) (fun _ _ => rfl) r b
@[simp] theorem ringPut_ctxs (r : RingRegs) (b : Bytes) : (ringPut s r b).ctxs = s.ctxs := ringPut_keep s (·.ctxs) (fun _ _ => rfl) (fun _ _ => rfl) r b
@[simp] theorem ringPut_queues (r : RingRegs) (b : Bytes) : (ringPut s r b).queues = s.queues := ringPut_keep s (·.queues) (fun _ _ => rfl) (fun _ _ => rfl) r b
@[simp] theorem ringPut_cmds (r : RingRegs) (b : Bytes) : (ringPut s r b).cmds = s.cmds := ringPut_keep s (·.cmds) (fun _ _ => rfl) (fun _ _ => rfl) r b
@[simp] theorem ringPut_reqs (r : RingRegs) (b : Bytes) : (ringPut s r b).reqs = s.reqs := ringPut_keep s (·.reqs) (fun _ _ => rfl) (fun _ _ => rfl) r b
@[simp] theorem ringPut_ports (r : RingRegs) (b : Bytes) : (ringPut s r b).ports = s.ports := ringPut_keep s (·.ports) (fun _ _ => rfl) (fun _ _ => rfl) r b
@[simp] theorem ringPut_switch (r : RingRegs) (b : Bytes) : (ringPut s r b).switch = s.switch := ringPut_keep s (·.switch) (fun _ _ => rfl) (fun _ _ => rfl) r b
@[simp] theorem ringPut_groups (r : RingRegs) (b : Bytes) : (ringPut s r b).groups = s.groups := ringPut_keep s (·.groups) (fun _ _ => rfl) (fun _ _ => rfl) r b
@[simp] theorem ringPut_colls (r : RingRegs) (b : Bytes) : (ringPut s r b).colls = s.colls := ringPut_keep s (·.colls) (fun _ _ => rfl) (fun _ _ => rfl) r b
@[simp] theorem ringPut_hb (r : RingRegs) (b : Bytes) : (ringPut s r b).hb = s.hb := ringPut_keep s (·.hb) (fun _ _ => rfl) (fun _ _ => rfl) r b
@[simp] theorem ringPut_ls (r : RingRegs) (b : Bytes) : (ringPut s r b).ls = s.ls := ringPut_keep s (·.ls) (fun _ _ => rfl) (fun _ _ => rfl) r b
@[simp] theorem ringPut_age (r : RingRegs) (b : Bytes) : (ringPut s r b).age = s.age := ringPut_keep s (·.age) (fun _ _ => rfl) (fun _ _ => rfl) r b
@[simp] theorem ringPut_dump (r : RingRegs) (b : Bytes) : (ringPut s r b).dump = s.dump := ringPut_keep s (·.dump) (fun _ _ => rfl) (fun _ _ => rfl) r b
@[simp] theorem ringPut_teardowns (r : RingRegs) (b : Bytes) : (ringPut s r b).teardowns = s.teardowns := ringPut_keep s (·.teardowns) (fun _ _ => rfl) (fun _ _ => rfl) r b
@[simp] theorem ringPut_out (r : RingRegs) (b : Bytes) : (ringPut s r b).out = s.out := ringPut_keep s (·.out) (fun _ _ => rfl) (fun _ _ => rfl) r b

/-- What sees neither the host side, nor memory, nor registers, nor what is sent, sees nothing of an event record. -/
theorem logNaming_keep {α : Type} (f : State → α) (hh : ∀ s h, f { s with host := h } = f s) (hm : ∀ s m, f { s with mem := m } = f s)
    (hr : ∀ s g, f { s with regs := g } = f s) (ho : ∀ s o, f { s with out := o } = f s)
    (k : EvKind) (u : Nat) (d : Bytes) (r : Nat) (l : List Fid) : f (logNaming s k u d r l) = f s := by
  unfold logNaming
  dsimp only
  split
  · split
    · rw [sendMsix_keep _ f hh hr ho, hh, ringPut_keep _ f hm hr, hh]
    · rw [hh, ringPut_keep _ f hm hr, hh]
  · rw [hh]
    unfold dropMsix
    rw [countEvent_keep _ f hr, hh]
theorem logEvent_keep {α : Type} (f : State → α) (hh : ∀ s h, f { s with host := h } = f s) (hm : ∀ s m, f { s with mem := m } = f s)
    (hr : ∀ s g, f { s with regs := g } = f s) (ho : ∀ s o, f { s with out := o } = f s)
    (k : EvKind) (u : Nat) (d : Bytes) (r : Nat) : f (logEvent s k u d r) = f s := logNaming_keep s f hh hm hr ho k u d r []

@[simp] theorem logEvent_pending (k : EvKind) (u : Nat) (d : Bytes) (r : Nat) : (logEvent s k u d r).pending = s.pending := logEvent_keep s (·.pending) (fun _ _ => rfl) (fun _ _ => rfl) (fun _ _ => rfl) (fun _ _ => rfl) k u d r
@[simp] theorem logEvent_variant (k : EvKind) (u : Nat) (d : Bytes) (r : Nat) : (logEvent s k u d r).variant = s.variant := logEvent_keep s (·.variant) (fun _ _ => rfl) (fun _ _ => rfl) (fun _ _ => rfl) (fun _ _ => rfl) k u d r
@[simp] theorem logEvent_mode (k : EvKind) (u : Nat) (d : Bytes) (r : Nat) : (logEvent s k u d r).mode = s.mode := logEvent_keep s (·.mode) (fun _ _ => rfl) (fun _ _ => rfl) (fun _ _ => rfl) (fun _ _ => rfl) k u d r
@[simp] theorem logEvent_degraded (k : EvKind) (u : Nat) (d : Bytes) (r : Nat) : (logEvent s k u d r).degraded = s.degraded := logEvent_keep s (·.degraded) (fun _ _ => rfl) (fun _ _ => rfl) (fun _ _ => rfl) (fun _ _ => rfl) k u d r
@[simp] theorem logEvent_role (k : EvKind) (u : Nat) (d : Bytes) (r : Nat) : (logEvent s k u d r).role = s.role := logEvent_keep s (·.role) (fun _ _ => rfl) (fun _ _ => rfl) (fun _ _ => rfl) (fun _ _ => rfl) k u d r
@[simp] theorem logEvent_now (k : EvKind) (u : Nat) (d : Bytes) (r : Nat) : (logEvent s k u d r).now = s.now := logEvent_keep s (·.now) (fun _ _ => rfl) (fun _ _ => rfl) (fun _ _ => rfl) (fun _ _ => rfl) k u d r
@[simp] theorem logEvent_fresh (k : EvKind) (u : Nat) (d : Bytes) (r : Nat) : (logEvent s k u d r).fresh = s.fresh := logEvent_keep s (·.fresh) (fun _ _ => rfl) (fun _ _ => rfl) (fun _ _ => rfl) (fun _ _ => rfl) k u d r
@[simp] theorem logEvent_pins (k : EvKind) (u : Nat) (d : Bytes) (r : Nat) : (logEvent s k u d r).pins = s.pins := logEvent_keep s (·.pins) (fun _ _ => rfl) (fun _ _ => rfl) (fun _ _ => rfl) (fun _ _ => rfl) k u d r
@[simp] theorem logEvent_power (k : EvKind) (u : Nat) (d : Bytes) (r : Nat) : (logEvent s k u d r).power = s.power := logEvent_keep s (·.power) (fun _ _ => rfl) (fun _ _ => rfl) (fun _ _ => rfl) (fun _ _ => rfl) k u d r
@[simp] theorem logEvent_sec (k : EvKind) (u : Nat) (d : Bytes) (r : Nat) : (logEvent s k u d r).sec = s.sec := logEvent_keep s (·.sec) (fun _ _ => rfl) (fun _ _ => rfl) (fun _ _ => rfl) (fun _ _ => rfl) k u d r
@[simp] theorem logEvent_ctxs (k : EvKind) (u : Nat) (d : Bytes) (r : Nat) : (logEvent s k u d r).ctxs = s.ctxs := logEvent_keep s (·.ctxs) (fun _ _ => rfl) (fun _ _ => rfl) (fun _ _ => rfl) (fun _ _ => rfl) k u d r
@[simp] theorem logEvent_queues (k : EvKind) (u : Nat) (d : Bytes) (r : Nat) : (logEvent s k u d r).queues = s.queues := logEvent_keep s (·.queues) (fun _ _ => rfl) (fun _ _ => rfl) (fun _ _ => rfl) (fun _ _ => rfl) k u d r
@[simp] theorem logEvent_cmds (k : EvKind) (u : Nat) (d : Bytes) (r : Nat) : (logEvent s k u d r).cmds = s.cmds := logEvent_keep s (·.cmds) (fun _ _ => rfl) (fun _ _ => rfl) (fun _ _ => rfl) (fun _ _ => rfl) k u d r
@[simp] theorem logEvent_reqs (k : EvKind) (u : Nat) (d : Bytes) (r : Nat) : (logEvent s k u d r).reqs = s.reqs := logEvent_keep s (·.reqs) (fun _ _ => rfl) (fun _ _ => rfl) (fun _ _ => rfl) (fun _ _ => rfl) k u d r
@[simp] theorem logEvent_ports (k : EvKind) (u : Nat) (d : Bytes) (r : Nat) : (logEvent s k u d r).ports = s.ports := logEvent_keep s (·.ports) (fun _ _ => rfl) (fun _ _ => rfl) (fun _ _ => rfl) (fun _ _ => rfl) k u d r
@[simp] theorem logEvent_switch (k : EvKind) (u : Nat) (d : Bytes) (r : Nat) : (logEvent s k u d r).switch = s.switch := logEvent_keep s (·.switch) (fun _ _ => rfl) (fun _ _ => rfl) (fun _ _ => rfl) (fun _ _ => rfl) k u d r
@[simp] theorem logEvent_groups (k : EvKind) (u : Nat) (d : Bytes) (r : Nat) : (logEvent s k u d r).groups = s.groups := logEvent_keep s (·.groups) (fun _ _ => rfl) (fun _ _ => rfl) (fun _ _ => rfl) (fun _ _ => rfl) k u d r
@[simp] theorem logEvent_colls (k : EvKind) (u : Nat) (d : Bytes) (r : Nat) : (logEvent s k u d r).colls = s.colls := logEvent_keep s (·.colls) (fun _ _ => rfl) (fun _ _ => rfl) (fun _ _ => rfl) (fun _ _ => rfl) k u d r
@[simp] theorem logEvent_hb (k : EvKind) (u : Nat) (d : Bytes) (r : Nat) : (logEvent s k u d r).hb = s.hb := logEvent_keep s (·.hb) (fun _ _ => rfl) (fun _ _ => rfl) (fun _ _ => rfl) (fun _ _ => rfl) k u d r
@[simp] theorem logEvent_ls (k : EvKind) (u : Nat) (d : Bytes) (r : Nat) : (logEvent s k u d r).ls = s.ls := logEvent_keep s (·.ls) (fun _ _ => rfl) (fun _ _ => rfl) (fun _ _ => rfl) (fun _ _ => rfl) k u d r
@[simp] theorem logEvent_age (k : EvKind) (u : Nat) (d : Bytes) (r : Nat) : (logEvent s k u d r).age = s.age := logEvent_keep s (·.age) (fun _ _ => rfl) (fun _ _ => rfl) (fun _ _ => rfl) (fun _ _ => rfl) k u d r
@[simp] theorem logEvent_dump (k : EvKind) (u : Nat) (d : Bytes) (r : Nat) : (logEvent s k u d r).dump = s.dump := logEvent_keep s (·.dump) (fun _ _ => rfl) (fun _ _ => rfl) (fun _ _ => rfl) (fun _ _ => rfl) k u d r
@[simp] theorem logEvent_teardowns (k : EvKind) (u : Nat) (d : Bytes) (r : Nat) : (logEvent s k u d r).teardowns = s.teardowns := logEvent_keep s (·.teardowns) (fun _ _ => rfl) (fun _ _ => rfl) (fun _ _ => rfl) (fun _ _ => rfl) k u d r

@[simp] theorem logState_pending (o : Mode) (r : Nat) : (logState s o r).pending = s.pending := logEvent_pending ..
@[simp] theorem logState_variant (o : Mode) (r : Nat) : (logState s o r).variant = s.variant := logEvent_variant ..
@[simp] theorem logState_mode (o : Mode) (r : Nat) : (logState s o r).mode = s.mode := logEvent_mode ..
@[simp] theorem logState_degraded (o : Mode) (r : Nat) : (logState s o r).degraded = s.degraded := logEvent_degraded ..
@[simp] theorem logState_role (o : Mode) (r : Nat) : (logState s o r).role = s.role := logEvent_role ..
@[simp] theorem logState_now (o : Mode) (r : Nat) : (logState s o r).now = s.now := logEvent_now ..
@[simp] theorem logState_fresh (o : Mode) (r : Nat) : (logState s o r).fresh = s.fresh := logEvent_fresh ..
@[simp] theorem logState_pins (o : Mode) (r : Nat) : (logState s o r).pins = s.pins := logEvent_pins ..
@[simp] theorem logState_power (o : Mode) (r : Nat) : (logState s o r).power = s.power := logEvent_power ..
@[simp] theorem logState_sec (o : Mode) (r : Nat) : (logState s o r).sec = s.sec := logEvent_sec ..
@[simp] theorem logState_ctxs (o : Mode) (r : Nat) : (logState s o r).ctxs = s.ctxs := logEvent_ctxs ..
@[simp] theorem logState_queues (o : Mode) (r : Nat) : (logState s o r).queues = s.queues := logEvent_queues ..
@[simp] theorem logState_cmds (o : Mode) (r : Nat) : (logState s o r).cmds = s.cmds := logEvent_cmds ..
@[simp] theorem logState_reqs (o : Mode) (r : Nat) : (logState s o r).reqs = s.reqs := logEvent_reqs ..
@[simp] theorem logState_ports (o : Mode) (r : Nat) : (logState s o r).ports = s.ports := logEvent_ports ..
@[simp] theorem logState_switch (o : Mode) (r : Nat) : (logState s o r).switch = s.switch := logEvent_switch ..
@[simp] theorem logState_groups (o : Mode) (r : Nat) : (logState s o r).groups = s.groups := logEvent_groups ..
@[simp] theorem logState_colls (o : Mode) (r : Nat) : (logState s o r).colls = s.colls := logEvent_colls ..
@[simp] theorem logState_hb (o : Mode) (r : Nat) : (logState s o r).hb = s.hb := logEvent_hb ..
@[simp] theorem logState_ls (o : Mode) (r : Nat) : (logState s o r).ls = s.ls := logEvent_ls ..
@[simp] theorem logState_age (o : Mode) (r : Nat) : (logState s o r).age = s.age := logEvent_age ..
@[simp] theorem logState_dump (o : Mode) (r : Nat) : (logState s o r).dump = s.dump := logEvent_dump ..
@[simp] theorem logState_teardowns (o : Mode) (r : Nat) : (logState s o r).teardowns = s.teardowns := logEvent_teardowns ..

@[simp] theorem logRegWrite_pending (o v : Nat) : (logRegWrite s o v).pending = s.pending := logEvent_pending ..
@[simp] theorem logRegWrite_variant (o v : Nat) : (logRegWrite s o v).variant = s.variant := logEvent_variant ..
@[simp] theorem logRegWrite_mode (o v : Nat) : (logRegWrite s o v).mode = s.mode := logEvent_mode ..
@[simp] theorem logRegWrite_degraded (o v : Nat) : (logRegWrite s o v).degraded = s.degraded := logEvent_degraded ..
@[simp] theorem logRegWrite_role (o v : Nat) : (logRegWrite s o v).role = s.role := logEvent_role ..
@[simp] theorem logRegWrite_now (o v : Nat) : (logRegWrite s o v).now = s.now := logEvent_now ..
@[simp] theorem logRegWrite_fresh (o v : Nat) : (logRegWrite s o v).fresh = s.fresh := logEvent_fresh ..
@[simp] theorem logRegWrite_pins (o v : Nat) : (logRegWrite s o v).pins = s.pins := logEvent_pins ..
@[simp] theorem logRegWrite_power (o v : Nat) : (logRegWrite s o v).power = s.power := logEvent_power ..
@[simp] theorem logRegWrite_sec (o v : Nat) : (logRegWrite s o v).sec = s.sec := logEvent_sec ..
@[simp] theorem logRegWrite_ctxs (o v : Nat) : (logRegWrite s o v).ctxs = s.ctxs := logEvent_ctxs ..
@[simp] theorem logRegWrite_queues (o v : Nat) : (logRegWrite s o v).queues = s.queues := logEvent_queues ..
@[simp] theorem logRegWrite_cmds (o v : Nat) : (logRegWrite s o v).cmds = s.cmds := logEvent_cmds ..
@[simp] theorem logRegWrite_reqs (o v : Nat) : (logRegWrite s o v).reqs = s.reqs := logEvent_reqs ..
@[simp] theorem logRegWrite_ports (o v : Nat) : (logRegWrite s o v).ports = s.ports := logEvent_ports ..
@[simp] theorem logRegWrite_switch (o v : Nat) : (logRegWrite s o v).switch = s.switch := logEvent_switch ..
@[simp] theorem logRegWrite_groups (o v : Nat) : (logRegWrite s o v).groups = s.groups := logEvent_groups ..
@[simp] theorem logRegWrite_colls (o v : Nat) : (logRegWrite s o v).colls = s.colls := logEvent_colls ..
@[simp] theorem logRegWrite_hb (o v : Nat) : (logRegWrite s o v).hb = s.hb := logEvent_hb ..
@[simp] theorem logRegWrite_ls (o v : Nat) : (logRegWrite s o v).ls = s.ls := logEvent_ls ..
@[simp] theorem logRegWrite_age (o v : Nat) : (logRegWrite s o v).age = s.age := logEvent_age ..
@[simp] theorem logRegWrite_dump (o v : Nat) : (logRegWrite s o v).dump = s.dump := logEvent_dump ..
@[simp] theorem logRegWrite_teardowns (o v : Nat) : (logRegWrite s o v).teardowns = s.teardowns := logEvent_teardowns ..

@[simp] theorem logCommand_pending (b q : Nat) (o st : Byte) (t sl r : Nat) : (logCommand s b q o st t sl r).pending = s.pending := logEvent_pending ..
@[simp] theorem logCommand_variant (b q : Nat) (o st : Byte) (t sl r : Nat) : (logCommand s b q o st t sl r).variant = s.variant := logEvent_variant ..
@[simp] theorem logCommand_mode (b q : Nat) (o st : Byte) (t sl r : Nat) : (logCommand s b q o st t sl r).mode = s.mode := logEvent_mode ..
@[simp] theorem logCommand_degraded (b q : Nat) (o st : Byte) (t sl r : Nat) : (logCommand s b q o st t sl r).degraded = s.degraded := logEvent_degraded ..
@[simp] theorem logCommand_role (b q : Nat) (o st : Byte) (t sl r : Nat) : (logCommand s b q o st t sl r).role = s.role := logEvent_role ..
@[simp] theorem logCommand_now (b q : Nat) (o st : Byte) (t sl r : Nat) : (logCommand s b q o st t sl r).now = s.now := logEvent_now ..
@[simp] theorem logCommand_fresh (b q : Nat) (o st : Byte) (t sl r : Nat) : (logCommand s b q o st t sl r).fresh = s.fresh := logEvent_fresh ..
@[simp] theorem logCommand_pins (b q : Nat) (o st : Byte) (t sl r : Nat) : (logCommand s b q o st t sl r).pins = s.pins := logEvent_pins ..
@[simp] theorem logCommand_power (b q : Nat) (o st : Byte) (t sl r : Nat) : (logCommand s b q o st t sl r).power = s.power := logEvent_power ..
@[simp] theorem logCommand_sec (b q : Nat) (o st : Byte) (t sl r : Nat) : (logCommand s b q o st t sl r).sec = s.sec := logEvent_sec ..
@[simp] theorem logCommand_ctxs (b q : Nat) (o st : Byte) (t sl r : Nat) : (logCommand s b q o st t sl r).ctxs = s.ctxs := logEvent_ctxs ..
@[simp] theorem logCommand_queues (b q : Nat) (o st : Byte) (t sl r : Nat) : (logCommand s b q o st t sl r).queues = s.queues := logEvent_queues ..
@[simp] theorem logCommand_cmds (b q : Nat) (o st : Byte) (t sl r : Nat) : (logCommand s b q o st t sl r).cmds = s.cmds := logEvent_cmds ..
@[simp] theorem logCommand_reqs (b q : Nat) (o st : Byte) (t sl r : Nat) : (logCommand s b q o st t sl r).reqs = s.reqs := logEvent_reqs ..
@[simp] theorem logCommand_ports (b q : Nat) (o st : Byte) (t sl r : Nat) : (logCommand s b q o st t sl r).ports = s.ports := logEvent_ports ..
@[simp] theorem logCommand_switch (b q : Nat) (o st : Byte) (t sl r : Nat) : (logCommand s b q o st t sl r).switch = s.switch := logEvent_switch ..
@[simp] theorem logCommand_groups (b q : Nat) (o st : Byte) (t sl r : Nat) : (logCommand s b q o st t sl r).groups = s.groups := logEvent_groups ..
@[simp] theorem logCommand_colls (b q : Nat) (o st : Byte) (t sl r : Nat) : (logCommand s b q o st t sl r).colls = s.colls := logEvent_colls ..
@[simp] theorem logCommand_hb (b q : Nat) (o st : Byte) (t sl r : Nat) : (logCommand s b q o st t sl r).hb = s.hb := logEvent_hb ..
@[simp] theorem logCommand_ls (b q : Nat) (o st : Byte) (t sl r : Nat) : (logCommand s b q o st t sl r).ls = s.ls := logEvent_ls ..
@[simp] theorem logCommand_age (b q : Nat) (o st : Byte) (t sl r : Nat) : (logCommand s b q o st t sl r).age = s.age := logEvent_age ..
@[simp] theorem logCommand_dump (b q : Nat) (o st : Byte) (t sl r : Nat) : (logCommand s b q o st t sl r).dump = s.dump := logEvent_dump ..
@[simp] theorem logCommand_teardowns (b q : Nat) (o st : Byte) (t sl r : Nat) : (logCommand s b q o st t sl r).teardowns = s.teardowns := logEvent_teardowns ..

@[simp] theorem logPort_pending (p c st r : Nat) : (logPort s p c st r).pending = s.pending := logEvent_pending ..
@[simp] theorem logPort_variant (p c st r : Nat) : (logPort s p c st r).variant = s.variant := logEvent_variant ..
@[simp] theorem logPort_mode (p c st r : Nat) : (logPort s p c st r).mode = s.mode := logEvent_mode ..
@[simp] theorem logPort_degraded (p c st r : Nat) : (logPort s p c st r).degraded = s.degraded := logEvent_degraded ..
@[simp] theorem logPort_role (p c st r : Nat) : (logPort s p c st r).role = s.role := logEvent_role ..
@[simp] theorem logPort_now (p c st r : Nat) : (logPort s p c st r).now = s.now := logEvent_now ..
@[simp] theorem logPort_fresh (p c st r : Nat) : (logPort s p c st r).fresh = s.fresh := logEvent_fresh ..
@[simp] theorem logPort_pins (p c st r : Nat) : (logPort s p c st r).pins = s.pins := logEvent_pins ..
@[simp] theorem logPort_power (p c st r : Nat) : (logPort s p c st r).power = s.power := logEvent_power ..
@[simp] theorem logPort_sec (p c st r : Nat) : (logPort s p c st r).sec = s.sec := logEvent_sec ..
@[simp] theorem logPort_ctxs (p c st r : Nat) : (logPort s p c st r).ctxs = s.ctxs := logEvent_ctxs ..
@[simp] theorem logPort_queues (p c st r : Nat) : (logPort s p c st r).queues = s.queues := logEvent_queues ..
@[simp] theorem logPort_cmds (p c st r : Nat) : (logPort s p c st r).cmds = s.cmds := logEvent_cmds ..
@[simp] theorem logPort_reqs (p c st r : Nat) : (logPort s p c st r).reqs = s.reqs := logEvent_reqs ..
@[simp] theorem logPort_ports (p c st r : Nat) : (logPort s p c st r).ports = s.ports := logEvent_ports ..
@[simp] theorem logPort_switch (p c st r : Nat) : (logPort s p c st r).switch = s.switch := logEvent_switch ..
@[simp] theorem logPort_groups (p c st r : Nat) : (logPort s p c st r).groups = s.groups := logEvent_groups ..
@[simp] theorem logPort_colls (p c st r : Nat) : (logPort s p c st r).colls = s.colls := logEvent_colls ..
@[simp] theorem logPort_hb (p c st r : Nat) : (logPort s p c st r).hb = s.hb := logEvent_hb ..
@[simp] theorem logPort_ls (p c st r : Nat) : (logPort s p c st r).ls = s.ls := logEvent_ls ..
@[simp] theorem logPort_age (p c st r : Nat) : (logPort s p c st r).age = s.age := logEvent_age ..
@[simp] theorem logPort_dump (p c st r : Nat) : (logPort s p c st r).dump = s.dump := logEvent_dump ..
@[simp] theorem logPort_teardowns (p c st r : Nat) : (logPort s p c st r).teardowns = s.teardowns := logEvent_teardowns ..

@[simp] theorem logColl_pending (x : CtxId) (g e c k r : Nat) : (logColl s x g e c k r).pending = s.pending := logEvent_pending ..
@[simp] theorem logColl_variant (x : CtxId) (g e c k r : Nat) : (logColl s x g e c k r).variant = s.variant := logEvent_variant ..
@[simp] theorem logColl_mode (x : CtxId) (g e c k r : Nat) : (logColl s x g e c k r).mode = s.mode := logEvent_mode ..
@[simp] theorem logColl_degraded (x : CtxId) (g e c k r : Nat) : (logColl s x g e c k r).degraded = s.degraded := logEvent_degraded ..
@[simp] theorem logColl_role (x : CtxId) (g e c k r : Nat) : (logColl s x g e c k r).role = s.role := logEvent_role ..
@[simp] theorem logColl_now (x : CtxId) (g e c k r : Nat) : (logColl s x g e c k r).now = s.now := logEvent_now ..
@[simp] theorem logColl_fresh (x : CtxId) (g e c k r : Nat) : (logColl s x g e c k r).fresh = s.fresh := logEvent_fresh ..
@[simp] theorem logColl_pins (x : CtxId) (g e c k r : Nat) : (logColl s x g e c k r).pins = s.pins := logEvent_pins ..
@[simp] theorem logColl_power (x : CtxId) (g e c k r : Nat) : (logColl s x g e c k r).power = s.power := logEvent_power ..
@[simp] theorem logColl_sec (x : CtxId) (g e c k r : Nat) : (logColl s x g e c k r).sec = s.sec := logEvent_sec ..
@[simp] theorem logColl_ctxs (x : CtxId) (g e c k r : Nat) : (logColl s x g e c k r).ctxs = s.ctxs := logEvent_ctxs ..
@[simp] theorem logColl_queues (x : CtxId) (g e c k r : Nat) : (logColl s x g e c k r).queues = s.queues := logEvent_queues ..
@[simp] theorem logColl_cmds (x : CtxId) (g e c k r : Nat) : (logColl s x g e c k r).cmds = s.cmds := logEvent_cmds ..
@[simp] theorem logColl_reqs (x : CtxId) (g e c k r : Nat) : (logColl s x g e c k r).reqs = s.reqs := logEvent_reqs ..
@[simp] theorem logColl_ports (x : CtxId) (g e c k r : Nat) : (logColl s x g e c k r).ports = s.ports := logEvent_ports ..
@[simp] theorem logColl_switch (x : CtxId) (g e c k r : Nat) : (logColl s x g e c k r).switch = s.switch := logEvent_switch ..
@[simp] theorem logColl_groups (x : CtxId) (g e c k r : Nat) : (logColl s x g e c k r).groups = s.groups := logEvent_groups ..
@[simp] theorem logColl_colls (x : CtxId) (g e c k r : Nat) : (logColl s x g e c k r).colls = s.colls := logEvent_colls ..
@[simp] theorem logColl_hb (x : CtxId) (g e c k r : Nat) : (logColl s x g e c k r).hb = s.hb := logEvent_hb ..
@[simp] theorem logColl_ls (x : CtxId) (g e c k r : Nat) : (logColl s x g e c k r).ls = s.ls := logEvent_ls ..
@[simp] theorem logColl_age (x : CtxId) (g e c k r : Nat) : (logColl s x g e c k r).age = s.age := logEvent_age ..
@[simp] theorem logColl_dump (x : CtxId) (g e c k r : Nat) : (logColl s x g e c k r).dump = s.dump := logEvent_dump ..
@[simp] theorem logColl_teardowns (x : CtxId) (g e c k r : Nat) : (logColl s x g e c k r).teardowns = s.teardowns := logEvent_teardowns ..

@[simp] theorem logHarbour_pending (x : CtxId) (h : Word) (w r : Nat) : (logHarbour s x h w r).pending = s.pending := logEvent_pending ..
@[simp] theorem logHarbour_variant (x : CtxId) (h : Word) (w r : Nat) : (logHarbour s x h w r).variant = s.variant := logEvent_variant ..
@[simp] theorem logHarbour_mode (x : CtxId) (h : Word) (w r : Nat) : (logHarbour s x h w r).mode = s.mode := logEvent_mode ..
@[simp] theorem logHarbour_degraded (x : CtxId) (h : Word) (w r : Nat) : (logHarbour s x h w r).degraded = s.degraded := logEvent_degraded ..
@[simp] theorem logHarbour_role (x : CtxId) (h : Word) (w r : Nat) : (logHarbour s x h w r).role = s.role := logEvent_role ..
@[simp] theorem logHarbour_now (x : CtxId) (h : Word) (w r : Nat) : (logHarbour s x h w r).now = s.now := logEvent_now ..
@[simp] theorem logHarbour_fresh (x : CtxId) (h : Word) (w r : Nat) : (logHarbour s x h w r).fresh = s.fresh := logEvent_fresh ..
@[simp] theorem logHarbour_pins (x : CtxId) (h : Word) (w r : Nat) : (logHarbour s x h w r).pins = s.pins := logEvent_pins ..
@[simp] theorem logHarbour_power (x : CtxId) (h : Word) (w r : Nat) : (logHarbour s x h w r).power = s.power := logEvent_power ..
@[simp] theorem logHarbour_sec (x : CtxId) (h : Word) (w r : Nat) : (logHarbour s x h w r).sec = s.sec := logEvent_sec ..
@[simp] theorem logHarbour_ctxs (x : CtxId) (h : Word) (w r : Nat) : (logHarbour s x h w r).ctxs = s.ctxs := logEvent_ctxs ..
@[simp] theorem logHarbour_queues (x : CtxId) (h : Word) (w r : Nat) : (logHarbour s x h w r).queues = s.queues := logEvent_queues ..
@[simp] theorem logHarbour_cmds (x : CtxId) (h : Word) (w r : Nat) : (logHarbour s x h w r).cmds = s.cmds := logEvent_cmds ..
@[simp] theorem logHarbour_reqs (x : CtxId) (h : Word) (w r : Nat) : (logHarbour s x h w r).reqs = s.reqs := logEvent_reqs ..
@[simp] theorem logHarbour_ports (x : CtxId) (h : Word) (w r : Nat) : (logHarbour s x h w r).ports = s.ports := logEvent_ports ..
@[simp] theorem logHarbour_switch (x : CtxId) (h : Word) (w r : Nat) : (logHarbour s x h w r).switch = s.switch := logEvent_switch ..
@[simp] theorem logHarbour_groups (x : CtxId) (h : Word) (w r : Nat) : (logHarbour s x h w r).groups = s.groups := logEvent_groups ..
@[simp] theorem logHarbour_colls (x : CtxId) (h : Word) (w r : Nat) : (logHarbour s x h w r).colls = s.colls := logEvent_colls ..
@[simp] theorem logHarbour_hb (x : CtxId) (h : Word) (w r : Nat) : (logHarbour s x h w r).hb = s.hb := logEvent_hb ..
@[simp] theorem logHarbour_ls (x : CtxId) (h : Word) (w r : Nat) : (logHarbour s x h w r).ls = s.ls := logEvent_ls ..
@[simp] theorem logHarbour_age (x : CtxId) (h : Word) (w r : Nat) : (logHarbour s x h w r).age = s.age := logEvent_age ..
@[simp] theorem logHarbour_dump (x : CtxId) (h : Word) (w r : Nat) : (logHarbour s x h w r).dump = s.dump := logEvent_dump ..
@[simp] theorem logHarbour_teardowns (x : CtxId) (h : Word) (w r : Nat) : (logHarbour s x h w r).teardowns = s.teardowns := logEvent_teardowns ..

@[simp] theorem logSecurity_pending (x : CtxId) (t : Byte) (n : Word) (e r : Nat) : (logSecurity s x t n e r).pending = s.pending := logEvent_pending ..
@[simp] theorem logSecurity_variant (x : CtxId) (t : Byte) (n : Word) (e r : Nat) : (logSecurity s x t n e r).variant = s.variant := logEvent_variant ..
@[simp] theorem logSecurity_mode (x : CtxId) (t : Byte) (n : Word) (e r : Nat) : (logSecurity s x t n e r).mode = s.mode := logEvent_mode ..
@[simp] theorem logSecurity_degraded (x : CtxId) (t : Byte) (n : Word) (e r : Nat) : (logSecurity s x t n e r).degraded = s.degraded := logEvent_degraded ..
@[simp] theorem logSecurity_role (x : CtxId) (t : Byte) (n : Word) (e r : Nat) : (logSecurity s x t n e r).role = s.role := logEvent_role ..
@[simp] theorem logSecurity_now (x : CtxId) (t : Byte) (n : Word) (e r : Nat) : (logSecurity s x t n e r).now = s.now := logEvent_now ..
@[simp] theorem logSecurity_fresh (x : CtxId) (t : Byte) (n : Word) (e r : Nat) : (logSecurity s x t n e r).fresh = s.fresh := logEvent_fresh ..
@[simp] theorem logSecurity_pins (x : CtxId) (t : Byte) (n : Word) (e r : Nat) : (logSecurity s x t n e r).pins = s.pins := logEvent_pins ..
@[simp] theorem logSecurity_power (x : CtxId) (t : Byte) (n : Word) (e r : Nat) : (logSecurity s x t n e r).power = s.power := logEvent_power ..
@[simp] theorem logSecurity_sec (x : CtxId) (t : Byte) (n : Word) (e r : Nat) : (logSecurity s x t n e r).sec = s.sec := logEvent_sec ..
@[simp] theorem logSecurity_ctxs (x : CtxId) (t : Byte) (n : Word) (e r : Nat) : (logSecurity s x t n e r).ctxs = s.ctxs := logEvent_ctxs ..
@[simp] theorem logSecurity_queues (x : CtxId) (t : Byte) (n : Word) (e r : Nat) : (logSecurity s x t n e r).queues = s.queues := logEvent_queues ..
@[simp] theorem logSecurity_cmds (x : CtxId) (t : Byte) (n : Word) (e r : Nat) : (logSecurity s x t n e r).cmds = s.cmds := logEvent_cmds ..
@[simp] theorem logSecurity_reqs (x : CtxId) (t : Byte) (n : Word) (e r : Nat) : (logSecurity s x t n e r).reqs = s.reqs := logEvent_reqs ..
@[simp] theorem logSecurity_ports (x : CtxId) (t : Byte) (n : Word) (e r : Nat) : (logSecurity s x t n e r).ports = s.ports := logEvent_ports ..
@[simp] theorem logSecurity_switch (x : CtxId) (t : Byte) (n : Word) (e r : Nat) : (logSecurity s x t n e r).switch = s.switch := logEvent_switch ..
@[simp] theorem logSecurity_groups (x : CtxId) (t : Byte) (n : Word) (e r : Nat) : (logSecurity s x t n e r).groups = s.groups := logEvent_groups ..
@[simp] theorem logSecurity_colls (x : CtxId) (t : Byte) (n : Word) (e r : Nat) : (logSecurity s x t n e r).colls = s.colls := logEvent_colls ..
@[simp] theorem logSecurity_hb (x : CtxId) (t : Byte) (n : Word) (e r : Nat) : (logSecurity s x t n e r).hb = s.hb := logEvent_hb ..
@[simp] theorem logSecurity_ls (x : CtxId) (t : Byte) (n : Word) (e r : Nat) : (logSecurity s x t n e r).ls = s.ls := logEvent_ls ..
@[simp] theorem logSecurity_age (x : CtxId) (t : Byte) (n : Word) (e r : Nat) : (logSecurity s x t n e r).age = s.age := logEvent_age ..
@[simp] theorem logSecurity_dump (x : CtxId) (t : Byte) (n : Word) (e r : Nat) : (logSecurity s x t n e r).dump = s.dump := logEvent_dump ..
@[simp] theorem logSecurity_teardowns (x : CtxId) (t : Byte) (n : Word) (e r : Nat) : (logSecurity s x t n e r).teardowns = s.teardowns := logEvent_teardowns ..

@[simp] theorem logPower_pending (w r : Nat) : (logPower s w r).pending = s.pending := logEvent_pending ..
@[simp] theorem logPower_variant (w r : Nat) : (logPower s w r).variant = s.variant := logEvent_variant ..
@[simp] theorem logPower_mode (w r : Nat) : (logPower s w r).mode = s.mode := logEvent_mode ..
@[simp] theorem logPower_degraded (w r : Nat) : (logPower s w r).degraded = s.degraded := logEvent_degraded ..
@[simp] theorem logPower_role (w r : Nat) : (logPower s w r).role = s.role := logEvent_role ..
@[simp] theorem logPower_now (w r : Nat) : (logPower s w r).now = s.now := logEvent_now ..
@[simp] theorem logPower_fresh (w r : Nat) : (logPower s w r).fresh = s.fresh := logEvent_fresh ..
@[simp] theorem logPower_pins (w r : Nat) : (logPower s w r).pins = s.pins := logEvent_pins ..
@[simp] theorem logPower_power (w r : Nat) : (logPower s w r).power = s.power := logEvent_power ..
@[simp] theorem logPower_sec (w r : Nat) : (logPower s w r).sec = s.sec := logEvent_sec ..
@[simp] theorem logPower_ctxs (w r : Nat) : (logPower s w r).ctxs = s.ctxs := logEvent_ctxs ..
@[simp] theorem logPower_queues (w r : Nat) : (logPower s w r).queues = s.queues := logEvent_queues ..
@[simp] theorem logPower_cmds (w r : Nat) : (logPower s w r).cmds = s.cmds := logEvent_cmds ..
@[simp] theorem logPower_reqs (w r : Nat) : (logPower s w r).reqs = s.reqs := logEvent_reqs ..
@[simp] theorem logPower_ports (w r : Nat) : (logPower s w r).ports = s.ports := logEvent_ports ..
@[simp] theorem logPower_switch (w r : Nat) : (logPower s w r).switch = s.switch := logEvent_switch ..
@[simp] theorem logPower_groups (w r : Nat) : (logPower s w r).groups = s.groups := logEvent_groups ..
@[simp] theorem logPower_colls (w r : Nat) : (logPower s w r).colls = s.colls := logEvent_colls ..
@[simp] theorem logPower_hb (w r : Nat) : (logPower s w r).hb = s.hb := logEvent_hb ..
@[simp] theorem logPower_ls (w r : Nat) : (logPower s w r).ls = s.ls := logEvent_ls ..
@[simp] theorem logPower_age (w r : Nat) : (logPower s w r).age = s.age := logEvent_age ..
@[simp] theorem logPower_dump (w r : Nat) : (logPower s w r).dump = s.dump := logEvent_dump ..
@[simp] theorem logPower_teardowns (w r : Nat) : (logPower s w r).teardowns = s.teardowns := logEvent_teardowns ..

@[simp] theorem logFault_pending (a b c r : Nat) : (logFault s a b c r).pending = s.pending := logEvent_pending ..
@[simp] theorem logFault_variant (a b c r : Nat) : (logFault s a b c r).variant = s.variant := logEvent_variant ..
@[simp] theorem logFault_mode (a b c r : Nat) : (logFault s a b c r).mode = s.mode := logEvent_mode ..
@[simp] theorem logFault_degraded (a b c r : Nat) : (logFault s a b c r).degraded = s.degraded := logEvent_degraded ..
@[simp] theorem logFault_role (a b c r : Nat) : (logFault s a b c r).role = s.role := logEvent_role ..
@[simp] theorem logFault_now (a b c r : Nat) : (logFault s a b c r).now = s.now := logEvent_now ..
@[simp] theorem logFault_fresh (a b c r : Nat) : (logFault s a b c r).fresh = s.fresh := logEvent_fresh ..
@[simp] theorem logFault_pins (a b c r : Nat) : (logFault s a b c r).pins = s.pins := logEvent_pins ..
@[simp] theorem logFault_power (a b c r : Nat) : (logFault s a b c r).power = s.power := logEvent_power ..
@[simp] theorem logFault_sec (a b c r : Nat) : (logFault s a b c r).sec = s.sec := logEvent_sec ..
@[simp] theorem logFault_ctxs (a b c r : Nat) : (logFault s a b c r).ctxs = s.ctxs := logEvent_ctxs ..
@[simp] theorem logFault_queues (a b c r : Nat) : (logFault s a b c r).queues = s.queues := logEvent_queues ..
@[simp] theorem logFault_cmds (a b c r : Nat) : (logFault s a b c r).cmds = s.cmds := logEvent_cmds ..
@[simp] theorem logFault_reqs (a b c r : Nat) : (logFault s a b c r).reqs = s.reqs := logEvent_reqs ..
@[simp] theorem logFault_ports (a b c r : Nat) : (logFault s a b c r).ports = s.ports := logEvent_ports ..
@[simp] theorem logFault_switch (a b c r : Nat) : (logFault s a b c r).switch = s.switch := logEvent_switch ..
@[simp] theorem logFault_groups (a b c r : Nat) : (logFault s a b c r).groups = s.groups := logEvent_groups ..
@[simp] theorem logFault_colls (a b c r : Nat) : (logFault s a b c r).colls = s.colls := logEvent_colls ..
@[simp] theorem logFault_hb (a b c r : Nat) : (logFault s a b c r).hb = s.hb := logEvent_hb ..
@[simp] theorem logFault_ls (a b c r : Nat) : (logFault s a b c r).ls = s.ls := logEvent_ls ..
@[simp] theorem logFault_age (a b c r : Nat) : (logFault s a b c r).age = s.age := logEvent_age ..
@[simp] theorem logFault_dump (a b c r : Nat) : (logFault s a b c r).dump = s.dump := logEvent_dump ..
@[simp] theorem logFault_teardowns (a b c r : Nat) : (logFault s a b c r).teardowns = s.teardowns := logEvent_teardowns ..

@[simp] theorem logRoute_pending (f p r : Nat) : (logRoute s f p r).pending = s.pending := logEvent_pending ..
@[simp] theorem logRoute_variant (f p r : Nat) : (logRoute s f p r).variant = s.variant := logEvent_variant ..
@[simp] theorem logRoute_mode (f p r : Nat) : (logRoute s f p r).mode = s.mode := logEvent_mode ..
@[simp] theorem logRoute_degraded (f p r : Nat) : (logRoute s f p r).degraded = s.degraded := logEvent_degraded ..
@[simp] theorem logRoute_role (f p r : Nat) : (logRoute s f p r).role = s.role := logEvent_role ..
@[simp] theorem logRoute_now (f p r : Nat) : (logRoute s f p r).now = s.now := logEvent_now ..
@[simp] theorem logRoute_fresh (f p r : Nat) : (logRoute s f p r).fresh = s.fresh := logEvent_fresh ..
@[simp] theorem logRoute_pins (f p r : Nat) : (logRoute s f p r).pins = s.pins := logEvent_pins ..
@[simp] theorem logRoute_power (f p r : Nat) : (logRoute s f p r).power = s.power := logEvent_power ..
@[simp] theorem logRoute_sec (f p r : Nat) : (logRoute s f p r).sec = s.sec := logEvent_sec ..
@[simp] theorem logRoute_ctxs (f p r : Nat) : (logRoute s f p r).ctxs = s.ctxs := logEvent_ctxs ..
@[simp] theorem logRoute_queues (f p r : Nat) : (logRoute s f p r).queues = s.queues := logEvent_queues ..
@[simp] theorem logRoute_cmds (f p r : Nat) : (logRoute s f p r).cmds = s.cmds := logEvent_cmds ..
@[simp] theorem logRoute_reqs (f p r : Nat) : (logRoute s f p r).reqs = s.reqs := logEvent_reqs ..
@[simp] theorem logRoute_ports (f p r : Nat) : (logRoute s f p r).ports = s.ports := logEvent_ports ..
@[simp] theorem logRoute_switch (f p r : Nat) : (logRoute s f p r).switch = s.switch := logEvent_switch ..
@[simp] theorem logRoute_groups (f p r : Nat) : (logRoute s f p r).groups = s.groups := logEvent_groups ..
@[simp] theorem logRoute_colls (f p r : Nat) : (logRoute s f p r).colls = s.colls := logEvent_colls ..
@[simp] theorem logRoute_hb (f p r : Nat) : (logRoute s f p r).hb = s.hb := logEvent_hb ..
@[simp] theorem logRoute_ls (f p r : Nat) : (logRoute s f p r).ls = s.ls := logEvent_ls ..
@[simp] theorem logRoute_age (f p r : Nat) : (logRoute s f p r).age = s.age := logEvent_age ..
@[simp] theorem logRoute_dump (f p r : Nat) : (logRoute s f p r).dump = s.dump := logEvent_dump ..
@[simp] theorem logRoute_teardowns (f p r : Nat) : (logRoute s f p r).teardowns = s.teardowns := logEvent_teardowns ..

end Sys2Proof.Machine
end

