-- ==== Sys2Proof/Laws/Memory.lean ====
section
/-!
SUPPORT. Laws of the sparse store: a read after a write, the canonical form, and what they say of memory and registers.
-/
namespace Sys2Proof.Machine

open Sys2Proof

/-! ## The sparse store -/

section
variable {α : Type}

theorem sparseGet_del (d : Nat → α) (l : List (Nat × α)) (k k' : Nat) :
    sparseGet d (sparseDel l k) k' = if k' = k then d k else sparseGet d l k' := by
  induction l with
  | nil => by_cases h : k' = k <;> simp [sparseDel, sparseGet, h]
  | cons p l ih =>
    obtain ⟨a, v⟩ := p
    unfold sparseDel at ih ⊢
    by_cases h : a = k
    · subst h
      by_cases h' : k' = a
      · subst h'; simpa using ih
      · have : ¬ a = k' := fun e => h' e.symm
        simpa [sparseGet, this, h'] using ih
    · by_cases h' : a = k'
      · subst h'; simp [h, sparseGet]
      · simpa [h, sparseGet, h'] using ih

theorem sparseGet_ins (d : Nat → α) (l : List (Nat × α)) (k k' : Nat) (x : α) :
    sparseGet d (sparseIns l k x) k' = if k' = k then x else sparseGet d l k' := by
  induction l with
  | nil => by_cases h : k = k' <;> simp [sparseIns, sparseGet, h, eq_comm]
  | cons p l ih =>
    obtain ⟨a, v⟩ := p
    unfold sparseIns
    split
    · by_cases h : k = k'
      · simp [sparseGet, h]
      · have : ¬ k' = k := fun e => h e.symm
        simp [sparseGet, h, this]
    · split
      · rename_i h
        subst h
        by_cases h : a = k'
        · simp [sparseGet, h]
        · have : ¬ k' = a := fun e => h e.symm
          simp [sparseGet, h, this]
      · rename_i hk
        by_cases h : a = k'
        · subst h; simp [sparseGet, hk]
        · simp [sparseGet, h, ih]

/-- A read after a write: the written value at its place, and elsewhere what was there. -/
theorem sparseGet_set [DecidableEq α] (d : Nat → α) (l : List (Nat × α)) (k k' : Nat) (x : α) :
    sparseGet d (sparseSet d l k x) k' = if k' = k then x else sparseGet d l k' := by
  unfold sparseSet
  split
  · rename_i h; rw [sparseGet_del, h]
  · exact sparseGet_ins d l k k' x

/-- A filter on addresses keeps what it lets through, and the rest reads as unlisted. -/
theorem sparseGet_filter (d : Nat → α) (l : List (Nat × α)) (p : Nat → Bool) (k : Nat) :
    sparseGet d (l.filter (fun c => p c.1)) k = if p k then sparseGet d l k else d k := by
  induction l with
  | nil => simp [sparseGet]
  | cons c l ih =>
    obtain ⟨a, v⟩ := c
    by_cases h : p a
    · by_cases h' : a = k
      · subst h'; simp [h, sparseGet]
      · simp [h, sparseGet, h', ih]
    · by_cases h' : a = k
      · subst h'; simp [h, ih]
      · simp [h, sparseGet, h', ih]

/-- Whether an address lies above a bound. -/
def above (lo : Option Nat) (a : Nat) : Bool := match lo with
  | none => true
  | some b => decide (b < a)

theorem sparseAbove_cons [DecidableEq α] (d : Nat → α) (lo : Option Nat) (a : Nat) (v : α) (l : List (Nat × α)) :
    sparseAbove d lo ((a, v) :: l) = (above lo a && decide (v ≠ d a) && sparseAbove d (some a) l) := by
  cases lo <;> rfl

theorem sparseAbove_weaken [DecidableEq α] (d : Nat → α) (lo : Option Nat) (a : Nat) (l : List (Nat × α)) (h : above lo a = true)
    (w : sparseAbove d (some a) l = true) : sparseAbove d lo l = true := by
  cases l with
  | nil => rfl
  | cons c l =>
    obtain ⟨b, v⟩ := c
    rw [sparseAbove_cons] at w ⊢
    simp only [Bool.and_eq_true, above, decide_eq_true_eq] at w ⊢
    refine ⟨⟨?_, w.1.2⟩, w.2⟩
    cases lo with
    | none => rfl
    | some c => simp only [above, decide_eq_true_eq] at h ⊢; omega

theorem sparseAbove_filter [DecidableEq α] (d : Nat → α) (q : Nat × α → Bool) (l : List (Nat × α)) :
    ∀ lo, sparseAbove d lo l = true → sparseAbove d lo (l.filter q) = true := by
  induction l with
  | nil => intro lo h; exact h
  | cons c l ih =>
    obtain ⟨a, v⟩ := c
    intro lo h
    rw [sparseAbove_cons] at h
    simp only [Bool.and_eq_true] at h
    by_cases hq : q (a, v)
    · rw [List.filter_cons_of_pos hq, sparseAbove_cons]
      simp only [Bool.and_eq_true]
      exact ⟨h.1, ih _ h.2⟩
    · rw [List.filter_cons_of_neg hq]
      exact sparseAbove_weaken d lo a _ h.1.1 (ih _ h.2)

theorem sparseAbove_ins [DecidableEq α] (d : Nat → α) (k : Nat) (x : α) (hx : x ≠ d k) (l : List (Nat × α)) :
    ∀ lo, above lo k = true → sparseAbove d lo l = true → sparseAbove d lo (sparseIns l k x) = true := by
  induction l with
  | nil =>
    intro lo hk _
    rw [sparseIns, sparseAbove_cons]
    simp [hk, hx, sparseAbove]
  | cons c l ih =>
    obtain ⟨a, v⟩ := c
    intro lo hk h
    rw [sparseAbove_cons] at h
    simp only [Bool.and_eq_true] at h
    unfold sparseIns
    split
    · rw [sparseAbove_cons, sparseAbove_cons]
      simp only [Bool.and_eq_true]
      exact ⟨⟨hk, by simp [hx]⟩, ⟨by simpa [above] using ‹k < a›, h.1.2⟩, h.2⟩
    · split
      · rename_i e
        subst e
        rw [sparseAbove_cons]
        simp only [Bool.and_eq_true]
        exact ⟨⟨hk, by simp [hx]⟩, h.2⟩
      · rw [sparseAbove_cons]
        simp only [Bool.and_eq_true]
        exact ⟨h.1, ih _ (by simp only [above, decide_eq_true_eq]; omega) h.2⟩

/-- A write keeps the canonical form. -/
theorem sparseWf_set [DecidableEq α] (d : Nat → α) (l : List (Nat × α)) (k : Nat) (x : α) (h : sparseWf d l = true) :
    sparseWf d (sparseSet d l k x) = true := by
  unfold sparseSet sparseWf
  split
  · exact sparseAbove_filter d _ l none h
  · exact sparseAbove_ins d k x ‹_› l none rfl h

theorem sparseWf_filter [DecidableEq α] (d : Nat → α) (l : List (Nat × α)) (q : Nat × α → Bool) (h : sparseWf d l = true) :
    sparseWf d (l.filter q) = true := sparseAbove_filter d q l none h

end

/-! ## Registers -/

variable (s : State)

/-- A register reads as written, and every other register as before. -/
theorem reg_setReg (o o' : Nat) (v : Word) : reg (setReg s o v) o' = if o' = o then v else reg s o' := sparseGet_set _ _ _ _ _

@[simp] theorem reg_setReg_same (o : Nat) (v : Word) : reg (setReg s o v) o = v := by simp [reg_setReg]

theorem reg_setReg_other (o o' : Nat) (v : Word) (h : o' ≠ o) : reg (setReg s o v) o' = reg s o' := by simp [reg_setReg, h]

/-- What does not change the register file or the variant changes no register. -/
theorem reg_of_eq (s t : State) (hv : t.variant = s.variant) (hr : t.regs = s.regs) (o : Nat) : reg t o = reg s o := by
  unfold reg; rw [hv, hr]

theorem reg_bump (c o : Nat) : reg (bump s c) o = if o = c then (if reg s c = 0xFFFFFFFF then 0xFFFFFFFF else reg s c + 1) else reg s o :=
  reg_setReg s c o _

theorem reg_setFlag (f i o : Nat) : reg (setFlag s f i) o = if o = f then reg s f ||| (1 <<< i) else reg s o := reg_setReg s f o _

/-- A counted event changes its counter and its flag, and nothing else of the register file. -/
theorem reg_countEvent (c f i o : Nat) (hc : o ≠ c) (hf : o ≠ f) : reg (countEvent s c f i) o = reg s o := by
  unfold countEvent
  rw [reg_setFlag, if_neg hf, reg_bump, if_neg hc]

theorem regsWf_setReg (o : Nat) (v : Word) (h : regsWf s = true) : regsWf (setReg s o v) = true := sparseWf_set _ _ _ _ h

/-! ## Memory -/

/-- A read after writing bytes: the written byte inside the range, and what was there outside. -/
theorem sparseGet_memPut (m : List Host.Cell) (a : Nat) (bs : Bytes) (k : Nat) :
    sparseGet memDefault (memPut m a bs) k =
      if a ≤ k ∧ k < a + bs.length then bs.getD (k - a) 0 else sparseGet memDefault m k := by
  induction bs generalizing m a with
  | nil =>
    have : ¬ (a ≤ k ∧ k < a + ([] : Bytes).length) := by simp only [List.length_nil]; omega
    rw [if_neg this]; rfl
  | cons b bs ih =>
    rw [memPut, ih, sparseGet_set]
    simp only [List.length_cons]
    by_cases h : a + 1 ≤ k ∧ k < a + 1 + bs.length
    · rw [if_pos h, if_pos (by omega)]
      have : k - a = (k - (a + 1)) + 1 := by omega
      rw [this]; rfl
    · rw [if_neg h]
      by_cases h' : k = a
      · subst h'; simp
      · rw [if_neg h', if_neg (by omega)]

/-- A byte of memory after a write. -/
theorem memByte_memWrite (a : Nat) (bs : Bytes) (k : Nat) :
    memByte (memWrite s a bs) k = if a ≤ k ∧ k < a + bs.length then bs.getD (k - a) 0 else memByte s k := sparseGet_memPut _ _ _ _

/-- A byte of memory after a range was zeroed. -/
theorem memByte_memZero (a n k : Nat) : memByte (memZero s a n) k = if a ≤ k ∧ k < a + n then 0 else memByte s k := by
  unfold memByte memZero
  have := sparseGet_filter memDefault s.mem (fun x => !(decide (a ≤ x) && decide (x < a + n))) k
  refine Eq.trans this ?_
  by_cases h : a ≤ k ∧ k < a + n
  · rw [if_pos h]; simp [h, memDefault]
  · rw [if_neg h, if_pos]
    simp only [Bool.not_eq_true', Bool.and_eq_false_iff, decide_eq_false_iff_not]; omega

theorem memPut_wf (m : List Host.Cell) (a : Nat) (bs : Bytes) (h : Memory.wf m = true) : Memory.wf (memPut m a bs) = true := by
  induction bs generalizing m a with
  | nil => exact h
  | cons b bs ih => exact ih _ _ (sparseWf_set _ _ _ _ h)

theorem memWrite_wf (a : Nat) (bs : Bytes) (h : Memory.wf s.mem = true) : Memory.wf (memWrite s a bs).mem = true := memPut_wf _ _ _ h

theorem memZero_wf (a n : Nat) (h : Memory.wf s.mem = true) : Memory.wf (memZero s a n).mem = true := sparseWf_filter _ _ _ h

theorem hostWrite_wf (a : Nat) (bs : Bytes) (h : Memory.wf s.mem = true) : Memory.wf (hostWrite s a bs).mem = true := by
  unfold hostWrite
  split
  · exact memWrite_wf s _ _ h
  · exact h

theorem applyEnv_wf (e : Env) (h : Memory.wf s.mem = true) : Memory.wf (applyEnv s e).mem = true := by
  have key : ∀ (l : List Host.Cell) (m : List Host.Cell), Memory.wf m = true →
      Memory.wf (l.foldl (fun m c => sparseSet memDefault m c.1 c.2) m) = true := by
    intro l
    induction l with
    | nil => intro m hm; exact hm
    | cons c l ih => intro m hm; exact ih _ (sparseWf_set _ _ _ _ hm)
  have h' : Memory.wf (e.slotErrors.foldl spoilSlots s).mem = true := (spoilSlots_keep s (·.mem) (fun _ _ => rfl) _).symm ▸ h
  unfold applyEnv
  cases e.faults with
  | none => exact key _ _ h'
  | some f => exact key _ _ h'

/-- Every operation that changes memory or registers keeps a sound state sound. -/
theorem sound_memWrite (a : Nat) (bs : Bytes) (h : Sound s) : Sound (memWrite s a bs) := ⟨memWrite_wf s a bs h.1, h.2⟩
theorem sound_memZero (a n : Nat) (h : Sound s) : Sound (memZero s a n) := ⟨memZero_wf s a n h.1, h.2⟩
theorem sound_setReg (o : Nat) (v : Word) (h : Sound s) : Sound (setReg s o v) := ⟨h.1, regsWf_setReg s o v h.2⟩
theorem sound_bump (o : Nat) (h : Sound s) : Sound (bump s o) := sound_setReg s _ _ h
theorem sound_setFlag (o i : Nat) (h : Sound s) : Sound (setFlag s o i) := sound_setReg s _ _ h
theorem sound_countEvent (c f i : Nat) (h : Sound s) : Sound (countEvent s c f i) := sound_setFlag _ _ _ (sound_bump s c h)
theorem sound_setRegField (o hi lo v : Nat) (h : Sound s) : Sound (setRegField s o hi lo v) := sound_setReg s _ _ h
theorem sound_hostWrite (a : Nat) (bs : Bytes) (h : Sound s) : Sound (hostWrite s a bs) := by
  unfold hostWrite
  split
  · exact sound_memWrite s _ _ h
  · exact h
theorem sound_ringPut (r : RingRegs) (b : Bytes) (h : Sound s) : Sound (ringPut s r b) := sound_setReg _ _ _ (sound_hostWrite s _ _ h)
theorem sound_applyEnv (e : Env) (h : Sound s) : Sound (applyEnv s e) := by
  refine ⟨applyEnv_wf s e h.1, ?_⟩
  unfold regsWf
  rw [applyEnv_variant, applyEnv_regs]
  exact h.2
theorem sound_setHostPort (i : Nat) (p : HostPort) (h : Sound s) : Sound (setHostPort s i p) := by
  unfold setHostPort
  split <;> exact h
theorem sound_sendMsix (v : Nat) (h : Sound s) : Sound (sendMsix s v) := by
  unfold sendMsix
  dsimp only
  split
  · exact sound_countEvent s _ _ _ h
  · split
    · exact sound_setHostPort s _ _ h
    · split <;> exact h
theorem sound_dropMsix (h : Sound s) : Sound (dropMsix s) := sound_countEvent s _ _ _ h
/-- Soundness sees the variant, memory and the register file only. -/
theorem sound_of_eq (s t : State) (hv : t.variant = s.variant) (hm : t.mem = s.mem) (hr : t.regs = s.regs) (h : Sound s) : Sound t := by
  unfold Sound regsWf at *
  rw [hv, hm, hr]
  exact h
theorem sound_host (x : HostIf) (h : Sound s) : Sound { s with host := x } := h
theorem sound_logNaming (k : EvKind) (u : Nat) (d : Bytes) (r : Nat) (l : List Fid) (h : Sound s) : Sound (logNaming s k u d r l) := by
  unfold logNaming
  dsimp only
  split
  · split
    · exact sound_sendMsix _ _ (sound_host _ _ (sound_ringPut _ _ _ (sound_host _ _ h)))
    · exact sound_host _ _ (sound_ringPut _ _ _ (sound_host _ _ h))
  · exact sound_host _ _ (sound_dropMsix _ (sound_host _ _ h))

theorem sound_logEvent (k : EvKind) (u : Nat) (d : Bytes) (r : Nat) (h : Sound s) : Sound (logEvent s k u d r) := sound_logNaming s k u d r [] h

/-! ## The event log -/

theorem setHostPort_eventSeq (i : Nat) (p : HostPort) : (setHostPort s i p).host.eventSeq = s.host.eventSeq := by
  unfold setHostPort
  split <;> rfl
theorem sendMsix_eventSeq (v : Nat) : (sendMsix s v).host.eventSeq = s.host.eventSeq := by
  unfold sendMsix
  dsimp only
  split
  · rfl
  · split
    · exact setHostPort_eventSeq s _ _
    · split <;> rfl
/-- Every event record takes the next sequence number (R584). -/
theorem logEvent_eventSeq (k : EvKind) (u : Nat) (d : Bytes) (r : Nat) : (logEvent s k u d r).host.eventSeq = s.host.eventSeq + 1 := by
  unfold logEvent logNaming
  simp only []
  split
  · split
    · rw [sendMsix_eventSeq, ringPut_host]
    · rw [ringPut_host]
  · rw [dropMsix_host]

end Sys2Proof.Machine
end

