-- ==== Sys2Proof/Laws/Packets.lean ====
section
/-!
SUPPORT. What the shared reception of packets can do: which headers pass steps 1 to 3 of R82, and that a packet which passes steps 1 to 5
reaches the meaning of its row with its payload.
-/
namespace Sys2Proof.Machine

/-- A header passes steps 1 to 3 of R82 exactly where none of them refuses it. -/
theorem headSteps_eq_none (s : State) (u : Nat) (known bad : Bool) (h : Header) :
    headSteps s u known bad h = none ↔ tooOld s h = false ∧ bad = false ∧ known = true ∧ h.dgen = genOf s h.dst ∧
      h.sgen = genOf s h.src ∧ burgeeDead s h = false := by
  cases ho : tooOld s h <;> cases bad <;> cases known <;> cases hb : burgeeDead s h <;>
    by_cases hd : h.dgen = genOf s h.dst <;> by_cases hs : h.sgen = genOf s h.src <;> simp [headSteps, ho, hb, hd, hs]

/-- A packet that passes steps 1 to 5 of R82 opens with its payload, and no other does. -/
theorem openSteps_eq_ok (s : State) (u : Nat) (known : Bool) (p : Packet) (bs : Bytes) :
    openSteps s u known p = .ok bs ↔ headSteps s u known (malformed s p) p.hdr = none ∧ openPacket s p = .ok bs := by
  unfold openSteps
  cases hh : headSteps s u known (malformed s p) p.hdr with
  | some o =>
    simp only [reduceCtorEq, false_and, iff_false]
    rintro rfl
    unfold headSteps at hh
    (repeat' split at hh) <;> cases hh
  | none => cases ho : openPacket s p <;> simp

/-- A request that opens at a unit whose quiet time is over goes on with its payload. -/
theorem openRequest_ok (s : State) (hu : HomeUnit) (p : Packet) (k : State → Bytes → State) (bs : Bytes)
    (hq : ∀ b, hu = .block b → isQuiet s b = false) (ho : openSteps s (homeUnitNo s hu) (knownAt s hu (burgeeCtx p.hdr)) p = .ok bs) :
    openRequest s hu p k = k s bs := by
  cases hu with
  | block b => simp [openRequest, hq b rfl, ho]
  | _ => simp [openRequest, ho]

/-- A collective packet of its row's kind that opens where it arrives is taken with the message that its payload spells. -/
theorem collPacket_ok (s : State) (p : Packet) (take : State → CollAt → Nat → CollMsg → Bool → State) (at_ : CollAt) (bs : Bytes)
    (m : CollMsg) (hi : inService s = true) (ha : collAt s p.hdr = some at_) (hq : ∀ b, at_ = .member b → isQuiet s b = false)
    (ho : openSteps s (collUnitAt s at_ p.hdr) (collKnown s at_ p.hdr) p = .ok bs) (hm : collMsgOf p.hdr bs = some m) :
    collPacket s p p.hdr.ptype p.hdr.opcode take = take s at_ (collUnitAt s at_ p.hdr) m false := by
  cases at_ with
  | member b => simp [collPacket, hi, ha, hq b rfl, ho, hm]
  | module => simp [collPacket, hi, ha, ho, hm]

/-- An MGMT packet at a block's fabric ID is a stray (R619). -/
theorem takeMgmt_stray (s : State) (p : Packet) (laidOut : Bytes → Bool) (k : State → Bytes → State) (b : Nat) (ht : p.hdr.ptype = tyMgmt)
    (hb : blockOfFid s p.hdr.dst = some b) : takeMgmt s p.hdr.opcode p laidOut k = countPkt s (unitOfBlock s b) .stray := by
  simp [takeMgmt, ht, hb]

/-- An MGMT packet that opens at the module's own fabric ID goes on where its payload keeps its layout, and is malformed where not. -/
theorem takeMgmt_opens (s : State) (p : Packet) (laidOut : Bytes → Bool) (k : State → Bytes → State) (bs : Bytes) (ht : p.hdr.ptype = tyMgmt)
    (hb : blockOfFid s p.hdr.dst = none) (hd : me s = p.hdr.dst) (ho : openSteps s (unitMgmt s) true p = .ok bs) :
    takeMgmt s p.hdr.opcode p laidOut k = if laidOut bs then k s bs else refuseMalformed s (unitMgmt s) p.hdr := by
  simp [takeMgmt, ht, hb, hd, ho]

end Sys2Proof.Machine
end

