-- ==== Sys2Proof/WellFormed.lean ====
section
/-!
DEFINITION. Which commands are well formed: the numbers that a command names lie within the part's numbering (R6, R77,
R168, R526, R587), and the byte strings that it carries have the sizes that the spec gives them.
-/
namespace Sys2Proof

/-- The external ports that a command names (R6). -/
def Instr.ports : Instr → List Nat
  | .retrain p => [p]
  | .release p => [p]
  | .portEnableWrite p _ => [p]
  | .blockRestart p _ => [p]
  | .packetIngress p _ => [p]
  | .cellArrive p _ => [p]
  | .reassemblyTimeout p _ _ => [p]
  | .egressTransmit p => [p]
  | .routeWithdraw p _ => [p]
  | .routeRestore p _ => [p]
  | .cableInsert p => [p]
  | .cableModuleLowPwr p _ _ => [p]
  | .cableModuleReady p => [p]
  | .cableDpActivated p => [p]
  | .cableBringupFail p _ => [p]
  | .cableRetryExpiry p => [p]
  | .cableRemove p => [p]
  | .cablePoll p _ => [p]
  | .sdaStuck p _ => [p]
  | .linkInit p _ => [p]
  | .initAck p _ => [p]
  | .trainingTimeout p => [p]
  | .los p _ => [p]
  | .fecFail p _ _ => [p]
  | .swapReq p _ => [p]
  | .swapReady p _ => [p]
  | .swapMarker p _ => [p]
  | .swapTimeout p => [p]
  | .dataFrameReceive p _ => [p]
  | .credit p _ => [p]
  | .creditSendTimer p => [p]
  | .linkRetry p _ => [p]
  | .apWr p _ _ _ _ _ => [p]
  | .apRd p _ _ _ _ _ _ => [p]
  | .cpl p _ _ _ => [p]
  | .attachTimeout p _ => [p]
  | .lsPair p _ => [p]
  | .lsRecord p _ => [p]
  | .lsDiverge p _ => [p]
  | .lsResume p _ => [p]
  | .lanesAligned p _ => [p]
  | .spareLaneLock p => [p]
  | _ => []

/-- The block and queue that a command of a queue names (R168). -/
def Instr.queue? : Instr → Option (Nat × Nat)
  | .descriptorFetch b q => some (b, q)
  | .counterWaitSatisfied b q => some (b, q)
  | .tileStart b q => some (b, q)
  | .pennantWrite b q => some (b, q)
  | .write b q => some (b, q)
  | .read b q => some (b, q)
  | .vread b q => some (b, q)
  | .atomic b q => some (b, q)
  | .copyPush b q => some (b, q)
  | .copyPull b q => some (b, q)
  | .copyLocal b q => some (b, q)
  | .fence b q => some (b, q)
  | .checkAccumulate b q => some (b, q)
  | .checkRead b q => some (b, q)
  | .checkLoad b q => some (b, q)
  | .ownXfer b q => some (b, q)
  | .xlateInval b q => some (b, q)
  | .ctxDefine b q => some (b, q)
  | .queueEnable b q => some (b, q)
  | .queueDisable b q => some (b, q)
  | .ctrWrite b q => some (b, q)
  | .ctrAdd b q => some (b, q)
  | .ctrRead b q => some (b, q)
  | .nop b q => some (b, q)
  | .collLaunch b q => some (b, q)
  | .collExt b q => some (b, q)
  | .regroup b q => some (b, q)
  | .groupDefine b q => some (b, q)
  | .groupClose b q => some (b, q)
  | .progLoad b q => some (b, q)
  | .progUnload b q => some (b, q)
  | .halyardWatch b q => some (b, q)
  | .hbSetCreate b q => some (b, q)
  | .hbSetDestroy b q => some (b, q)
  | .hbPortBind b q => some (b, q)
  | .hbPortUnbind b q => some (b, q)
  | .hbSweep b q => some (b, q)
  | .hbCommit b q => some (b, q)
  | .hbStepAbort b q => some (b, q)
  | .hbQuota b q => some (b, q)
  | .teardown b q => some (b, q)
  | _ => none

/-- A number that a command names, with the first number beyond its range: blocks, reduction dies, planes, halyards,
memory devices, PCI Express ports, MSI-X vectors (R6, R372, R526, R535, R564, R565). -/
def Instr.numbers : Instr → List (Nat × Nat)
  | .perstNAssert p => [(p, 2)]
  | .hostLinkLoss p => [(p, 2)]
  | .nonOwnerMemoryRequest p => [(p, 2)]
  | .perstNDeassert p => [(p, 2)]
  | .hostLinkUp p => [(p, 2)]
  | .msixVectorUnmask p v => [(p, 2), (v, 2048)]
  | .arm d => [(d, 26)]
  | .residueInjectFire d => [(d, 26)]
  | .combineWindowClose d => [(d, 26)]
  | .reductionDieFail d => [(d, 26)]
  | .reductionDieSwap a b => [(a, 26), (b, 26)]
  | .planeSwap a b => [(a, 18), (b, 18)]
  | .planeFail d => [(d, 18)]
  | .memoryDeviceFail d => [(d, 16)]
  | .halyardEnable h _ => [(h, 4096)]
  | .halyardClear h => [(h, 4096)]
  | .cacheEnWrite b _ => [(b, 32)]
  | .contextAdmit b => [(b, 32)]
  | .ledgerEntryExpiry b _ _ => [(b, 0x301)]
  | .spareBlockQuietExpiry b => [(b, 32)]
  | .rateLimitRecover b _ => [(b, 32)]
  | .contextQuantumExpiry b _ => [(b, 32)]
  | .endPointBlockSwap b => [(b, 32)]
  | .endPointBlockFail b => [(b, 40)]
  | .hostDoorbellPageWrite p _ _ => [(p, 256)]
  | _ => []

/-- The packet that a command carries. -/
def Instr.packet? : Instr → Option Packet
  | .tdReq p => some p
  | .tdDone p => some p
  | .orderedReqReceive p => some p
  | .readReqReceive p => some p
  | .answerReceive _ p => some p
  | .combinablePacketArrive p => some p
  | .combinedAdd p => some p
  | .blockRestart _ p => some p
  | .packetIngress _ p => some p
  | .congNotify p => some p
  | .routeWithdraw _ p => some p
  | .routeRestore _ p => some p
  | .plan p => some p
  | .join p => some p
  | .activate p => some p
  | .close p => some p
  | .ready p => some p
  | .go p => some p
  | .scan p => some p
  | .anchors p => some p
  | .contrib p => some p
  | .partialSum p _ => some p
  | .result p => some p
  | .checked p => some p
  | .delivered p => some p
  | .commit p => some p
  | .retract p => some p
  | .abort p => some p
  | .stall p => some p
  | .done p => some p
  | .finish p => some p
  | .provCrc p => some p
  | .provList p => some p
  | .ensignFwd p => some p
  | .ensignRsp p => some p
  | .lsPair _ p => some p
  | .lsRecord _ p => some p
  | .lsDiverge _ p => some p
  | .lsResume _ p => some p
  | _ => none

/-- The BAR accesses that a command makes: offset and bytes (R10, R568). -/
def Instr.access? : Instr → Option (Nat × Nat)
  | .registerWrite off d => some (off, d.length)
  | .counterReadClear off n => some (off, n)
  | .pairLoRead off n => some (off, n)
  | .bar2Access off n w => some (off, match w with
    | none => n
    | some d => d.length)
  | _ => none

/-- Whether every port that a command names exists: external ports 0 to 143 and internal ports 144 to 187 (R6, R604). -/
def Instr.portsOk (i : Instr) : Bool := i.ports.all (fun p => decide (p < 188))

/-- Whether a command of a queue names a block and a queue of it (R168). -/
def Instr.queueOk (i : Instr) : Bool := match i.queue? with
  | none => true
  | some (b, q) => decide (b < 32) && decide (q < 520)

/-- Whether the other numbers that a command names are in range. -/
def Instr.numbersOk (i : Instr) : Bool := i.numbers.all (fun n => decide (n.1 < n.2))

/-- Whether a carried packet is no longer than a packet can be: 4,096 bytes of payload, the CRC and the tag (R68). -/
def Instr.packetOk (i : Instr) : Bool := match i.packet? with
  | none => true
  | some p => decide (p.body.length ≤ 4120)

/-- Whether a BAR access moves at least one byte. -/
def Instr.accessOk (i : Instr) : Bool := match i.access? with
  | none => true
  | some (_, n) => decide (0 < n)

/-- The well-formed commands. -/
def Instr.wf (i : Instr) : Bool := i.portsOk && i.queueOk && i.numbersOk && i.packetOk && i.accessOk

end Sys2Proof
end

