-- ==== Sys2Proof/Laws/PerInstr.lean ====
section
/-!
SUPPORT. The per-instruction family Numbering: the ports, the queue and the other numbers that a well-formed command names lie
within the part's numbering (R6, R168), one lemma for each command.
-/
namespace Sys2Proof.Laws

open Sys2Proof

/-- What well-formedness says of the numbers that a command names. -/
def Numbering.Statement (i : Instr) : Prop :=
  i.wf = true → (∀ p ∈ i.ports, p < 188) ∧ (∀ b q, i.queue? = some (b, q) → b < 32 ∧ q < 520) ∧ (∀ n ∈ i.numbers, n.1 < n.2)

/-- It holds of every command at once. -/
theorem numbering_of_wf (i : Instr) : Numbering.Statement i := by
  intro h
  simp only [Instr.wf, Bool.and_eq_true] at h
  obtain ⟨⟨⟨⟨hp, hq⟩, hn⟩, -⟩, -⟩ := h
  refine ⟨?_, ?_, ?_⟩
  · simpa [Instr.portsOk] using hp
  · intro b q e
    simpa [Instr.queueOk, e] using hq
  · simpa [Instr.numbersOk] using hn

theorem Numbering.pgCtlAssert : Numbering.Statement .pgCtlAssert := numbering_of_wf _
theorem Numbering.rootPllLock : ∀ role lockstep selfTest0 env, Numbering.Statement (.rootPllLock role lockstep selfTest0 env) := fun _ _ _ _ => numbering_of_wf _
theorem Numbering.mainImageCheck : ∀ dieImages tables, Numbering.Statement (.mainImageCheck dieImages tables) := fun _ _ => numbering_of_wf _
theorem Numbering.configAnswerStart : Numbering.Statement .configAnswerStart := numbering_of_wf _
theorem Numbering.memoryTrainingDone : ∀ rates, Numbering.Statement (.memoryTrainingDone rates) := fun _ => numbering_of_wf _
theorem Numbering.bootComplete : Numbering.Statement .bootComplete := numbering_of_wf _
theorem Numbering.powerGoodBootTimeout : Numbering.Statement .powerGoodBootTimeout := numbering_of_wf _
theorem Numbering.pgCtlDeassert : Numbering.Statement .pgCtlDeassert := numbering_of_wf _
theorem Numbering.dataPlanePgLoss : ∀ rail, Numbering.Statement (.dataPlanePgLoss rail) := fun _ => numbering_of_wf _
theorem Numbering.rootPllLockLoss : ∀ refLost, Numbering.Statement (.rootPllLockLoss refLost) := fun _ => numbering_of_wf _
theorem Numbering.epoAssert : Numbering.Statement .epoAssert := numbering_of_wf _
theorem Numbering.thermalTrip : Numbering.Statement .thermalTrip := numbering_of_wf _
theorem Numbering.fastShedAssert : Numbering.Statement .fastShedAssert := numbering_of_wf _
theorem Numbering.fastShedRelease : Numbering.Statement .fastShedRelease := numbering_of_wf _
theorem Numbering.capCodeSample : ∀ code, Numbering.Statement (.capCodeSample code) := fun _ => numbering_of_wf _
theorem Numbering.powerMeasure : ∀ watts, Numbering.Statement (.powerMeasure watts) := fun _ => numbering_of_wf _
theorem Numbering.coreVsetStep : Numbering.Statement .coreVsetStep := numbering_of_wf _
theorem Numbering.thermalCapStep : ∀ hottest, Numbering.Statement (.thermalCapStep hottest) := fun _ => numbering_of_wf _
theorem Numbering.perstNAssert : ∀ port, Numbering.Statement (.perstNAssert port) := fun _ => numbering_of_wf _
theorem Numbering.hostLinkLoss : ∀ port, Numbering.Statement (.hostLinkLoss port) := fun _ => numbering_of_wf _
theorem Numbering.hostReadTimeout : ∀ addr len, Numbering.Statement (.hostReadTimeout addr len) := fun _ _ => numbering_of_wf _
theorem Numbering.nonOwnerMemoryRequest : ∀ port, Numbering.Statement (.nonOwnerMemoryRequest port) := fun _ => numbering_of_wf _
theorem Numbering.registerWrite : ∀ off data, Numbering.Statement (.registerWrite off data) := fun _ _ => numbering_of_wf _
theorem Numbering.counterReadClear : ∀ off size, Numbering.Statement (.counterReadClear off size) := fun _ _ => numbering_of_wf _
theorem Numbering.pairLoRead : ∀ off size, Numbering.Statement (.pairLoRead off size) := fun _ _ => numbering_of_wf _
theorem Numbering.leaveMaintRequest : ∀ role env, Numbering.Statement (.leaveMaintRequest role env) := fun _ _ => numbering_of_wf _
theorem Numbering.enterMaintRequest : ∀ role, Numbering.Statement (.enterMaintRequest role) := fun _ => numbering_of_wf _
theorem Numbering.stateReqReservedTarget : ∀ target role, Numbering.Statement (.stateReqReservedTarget target role) := fun _ _ => numbering_of_wf _
theorem Numbering.arm : ∀ die, Numbering.Statement (.arm die) := fun _ => numbering_of_wf _
theorem Numbering.residueInjectFire : ∀ die, Numbering.Statement (.residueInjectFire die) := fun _ => numbering_of_wf _
theorem Numbering.retrain : ∀ port, Numbering.Statement (.retrain port) := fun _ => numbering_of_wf _
theorem Numbering.release : ∀ port, Numbering.Statement (.release port) := fun _ => numbering_of_wf _
theorem Numbering.portEnableWrite : ∀ port value, Numbering.Statement (.portEnableWrite port value) := fun _ _ => numbering_of_wf _
theorem Numbering.cacheEnWrite : ∀ block value, Numbering.Statement (.cacheEnWrite block value) := fun _ _ => numbering_of_wf _
theorem Numbering.halyardEnable : ∀ h cfg, Numbering.Statement (.halyardEnable h cfg) := fun _ _ => numbering_of_wf _
theorem Numbering.halyardClear : ∀ h, Numbering.Statement (.halyardClear h) := fun _ => numbering_of_wf _
theorem Numbering.eventRingEnable : ∀ lo hi, Numbering.Statement (.eventRingEnable lo hi) := fun _ _ => numbering_of_wf _
theorem Numbering.mboxTailWrite : ∀ index env, Numbering.Statement (.mboxTailWrite index env) := fun _ _ => numbering_of_wf _
theorem Numbering.mailboxRequest : Numbering.Statement .mailboxRequest := numbering_of_wf _
theorem Numbering.start : ∀ env, Numbering.Statement (.start env) := fun _ => numbering_of_wf _
theorem Numbering.firmwareProgramDone : ∀ flashOk, Numbering.Statement (.firmwareProgramDone flashOk) := fun _ => numbering_of_wf _
theorem Numbering.next : Numbering.Statement .next := numbering_of_wf _
theorem Numbering.confirm : Numbering.Statement .confirm := numbering_of_wf _
theorem Numbering.run : Numbering.Statement .run := numbering_of_wf _
theorem Numbering.plannerPeriod : Numbering.Statement .plannerPeriod := numbering_of_wf _
theorem Numbering.takeover : Numbering.Statement .takeover := numbering_of_wf _
theorem Numbering.resume : Numbering.Statement .resume := numbering_of_wf _
theorem Numbering.hostDoorbellPageWrite : ∀ page off data, Numbering.Statement (.hostDoorbellPageWrite page off data) := fun _ _ _ => numbering_of_wf _
theorem Numbering.standbyMsixWrite : ∀ off data, Numbering.Statement (.standbyMsixWrite off data) := fun _ _ => numbering_of_wf _
theorem Numbering.bar2Access : ∀ off len write, Numbering.Statement (.bar2Access off len write) := fun _ _ _ => numbering_of_wf _
theorem Numbering.submissionDoorbell : ∀ path doorbell env, Numbering.Statement (.submissionDoorbell path doorbell env) := fun _ _ _ => numbering_of_wf _
theorem Numbering.consumerDoorbell : ∀ path doorbell, Numbering.Statement (.consumerDoorbell path doorbell) := fun _ _ => numbering_of_wf _
theorem Numbering.descriptorFetch : ∀ block queue, Numbering.Statement (.descriptorFetch block queue) := fun _ _ => numbering_of_wf _
theorem Numbering.counterWaitSatisfied : ∀ block queue, Numbering.Statement (.counterWaitSatisfied block queue) := fun _ _ => numbering_of_wf _
theorem Numbering.tileStart : ∀ block queue, Numbering.Statement (.tileStart block queue) := fun _ _ => numbering_of_wf _
theorem Numbering.pennantWrite : ∀ block queue, Numbering.Statement (.pennantWrite block queue) := fun _ _ => numbering_of_wf _
theorem Numbering.contextAdmit : ∀ block, Numbering.Statement (.contextAdmit block) := fun _ => numbering_of_wf _
theorem Numbering.write : ∀ block queue, Numbering.Statement (.write block queue) := fun _ _ => numbering_of_wf _
theorem Numbering.read : ∀ block queue, Numbering.Statement (.read block queue) := fun _ _ => numbering_of_wf _
theorem Numbering.vread : ∀ block queue, Numbering.Statement (.vread block queue) := fun _ _ => numbering_of_wf _
theorem Numbering.atomic : ∀ block queue, Numbering.Statement (.atomic block queue) := fun _ _ => numbering_of_wf _
theorem Numbering.copyPush : ∀ block queue, Numbering.Statement (.copyPush block queue) := fun _ _ => numbering_of_wf _
theorem Numbering.copyPull : ∀ block queue, Numbering.Statement (.copyPull block queue) := fun _ _ => numbering_of_wf _
theorem Numbering.copyLocal : ∀ block queue, Numbering.Statement (.copyLocal block queue) := fun _ _ => numbering_of_wf _
theorem Numbering.fence : ∀ block queue, Numbering.Statement (.fence block queue) := fun _ _ => numbering_of_wf _
theorem Numbering.checkAccumulate : ∀ block queue, Numbering.Statement (.checkAccumulate block queue) := fun _ _ => numbering_of_wf _
theorem Numbering.checkRead : ∀ block queue, Numbering.Statement (.checkRead block queue) := fun _ _ => numbering_of_wf _
theorem Numbering.checkLoad : ∀ block queue, Numbering.Statement (.checkLoad block queue) := fun _ _ => numbering_of_wf _
theorem Numbering.ownXfer : ∀ block queue, Numbering.Statement (.ownXfer block queue) := fun _ _ => numbering_of_wf _
theorem Numbering.ownershipTransferApply : ∀ msg, Numbering.Statement (.ownershipTransferApply msg) := fun _ => numbering_of_wf _
theorem Numbering.xlateInval : ∀ block queue, Numbering.Statement (.xlateInval block queue) := fun _ _ => numbering_of_wf _
theorem Numbering.ctxDefine : ∀ block queue, Numbering.Statement (.ctxDefine block queue) := fun _ _ => numbering_of_wf _
theorem Numbering.queueEnable : ∀ block queue, Numbering.Statement (.queueEnable block queue) := fun _ _ => numbering_of_wf _
theorem Numbering.queueDisable : ∀ block queue, Numbering.Statement (.queueDisable block queue) := fun _ _ => numbering_of_wf _
theorem Numbering.ctrWrite : ∀ block queue, Numbering.Statement (.ctrWrite block queue) := fun _ _ => numbering_of_wf _
theorem Numbering.ctrAdd : ∀ block queue, Numbering.Statement (.ctrAdd block queue) := fun _ _ => numbering_of_wf _
theorem Numbering.ctrRead : ∀ block queue, Numbering.Statement (.ctrRead block queue) := fun _ _ => numbering_of_wf _
theorem Numbering.nop : ∀ block queue, Numbering.Statement (.nop block queue) := fun _ _ => numbering_of_wf _
theorem Numbering.collLaunch : ∀ block queue, Numbering.Statement (.collLaunch block queue) := fun _ _ => numbering_of_wf _
theorem Numbering.collExt : ∀ block queue, Numbering.Statement (.collExt block queue) := fun _ _ => numbering_of_wf _
theorem Numbering.regroup : ∀ block queue, Numbering.Statement (.regroup block queue) := fun _ _ => numbering_of_wf _
theorem Numbering.groupDefine : ∀ block queue, Numbering.Statement (.groupDefine block queue) := fun _ _ => numbering_of_wf _
theorem Numbering.groupClose : ∀ block queue, Numbering.Statement (.groupClose block queue) := fun _ _ => numbering_of_wf _
theorem Numbering.progLoad : ∀ block queue, Numbering.Statement (.progLoad block queue) := fun _ _ => numbering_of_wf _
theorem Numbering.progUnload : ∀ block queue, Numbering.Statement (.progUnload block queue) := fun _ _ => numbering_of_wf _
theorem Numbering.halyardWatch : ∀ block queue, Numbering.Statement (.halyardWatch block queue) := fun _ _ => numbering_of_wf _
theorem Numbering.hbSetCreate : ∀ block queue, Numbering.Statement (.hbSetCreate block queue) := fun _ _ => numbering_of_wf _
theorem Numbering.hbSetDestroy : ∀ block queue, Numbering.Statement (.hbSetDestroy block queue) := fun _ _ => numbering_of_wf _
theorem Numbering.hbPortBind : ∀ block queue, Numbering.Statement (.hbPortBind block queue) := fun _ _ => numbering_of_wf _
theorem Numbering.hbPortUnbind : ∀ block queue, Numbering.Statement (.hbPortUnbind block queue) := fun _ _ => numbering_of_wf _
theorem Numbering.hbSweep : ∀ block queue, Numbering.Statement (.hbSweep block queue) := fun _ _ => numbering_of_wf _
theorem Numbering.hbCommit : ∀ block queue, Numbering.Statement (.hbCommit block queue) := fun _ _ => numbering_of_wf _
theorem Numbering.hbStepAbort : ∀ block queue, Numbering.Statement (.hbStepAbort block queue) := fun _ _ => numbering_of_wf _
theorem Numbering.hbQuota : ∀ block queue, Numbering.Statement (.hbQuota block queue) := fun _ _ => numbering_of_wf _
theorem Numbering.teardown : ∀ block queue, Numbering.Statement (.teardown block queue) := fun _ _ => numbering_of_wf _
theorem Numbering.teardownQuietExpiry : ∀ ctx, Numbering.Statement (.teardownQuietExpiry ctx) := fun _ => numbering_of_wf _
theorem Numbering.tdReq : ∀ pkt, Numbering.Statement (.tdReq pkt) := fun _ => numbering_of_wf _
theorem Numbering.tdDone : ∀ pkt, Numbering.Statement (.tdDone pkt) := fun _ => numbering_of_wf _
theorem Numbering.tdDoneTimeout : ∀ peer ctx, Numbering.Statement (.tdDoneTimeout peer ctx) := fun _ _ => numbering_of_wf _
theorem Numbering.orderedReqReceive : ∀ pkt, Numbering.Statement (.orderedReqReceive pkt) := fun _ => numbering_of_wf _
theorem Numbering.readReqReceive : ∀ pkt, Numbering.Statement (.readReqReceive pkt) := fun _ => numbering_of_wf _
theorem Numbering.answerReceive : ∀ unit pkt, Numbering.Statement (.answerReceive unit pkt) := fun _ _ => numbering_of_wf _
theorem Numbering.resendTimeout : ∀ request, Numbering.Statement (.resendTimeout request) := fun _ => numbering_of_wf _
theorem Numbering.ledgerEntryExpiry : ∀ block key seq, Numbering.Statement (.ledgerEntryExpiry block key seq) := fun _ _ _ => numbering_of_wf _
theorem Numbering.combinablePacketArrive : ∀ pkt, Numbering.Statement (.combinablePacketArrive pkt) := fun _ => numbering_of_wf _
theorem Numbering.combineWindowClose : ∀ die, Numbering.Statement (.combineWindowClose die) := fun _ => numbering_of_wf _
theorem Numbering.combinedAdd : ∀ pkt, Numbering.Statement (.combinedAdd pkt) := fun _ => numbering_of_wf _
theorem Numbering.blockRestart : ∀ port pkt, Numbering.Statement (.blockRestart port pkt) := fun _ _ => numbering_of_wf _
theorem Numbering.blockRestartRepeat : ∀ fid, Numbering.Statement (.blockRestartRepeat fid) := fun _ => numbering_of_wf _
theorem Numbering.spareBlockQuietExpiry : ∀ block, Numbering.Statement (.spareBlockQuietExpiry block) := fun _ => numbering_of_wf _
theorem Numbering.packetIngress : ∀ port pkt, Numbering.Statement (.packetIngress port pkt) := fun _ _ => numbering_of_wf _
theorem Numbering.cellArrive : ∀ port cell, Numbering.Statement (.cellArrive port cell) := fun _ _ => numbering_of_wf _
theorem Numbering.reassemblyTimeout : ∀ port ingress packetId, Numbering.Statement (.reassemblyTimeout port ingress packetId) := fun _ _ _ => numbering_of_wf _
theorem Numbering.egressTransmit : ∀ port, Numbering.Statement (.egressTransmit port) := fun _ => numbering_of_wf _
theorem Numbering.congNotify : ∀ pkt, Numbering.Statement (.congNotify pkt) := fun _ => numbering_of_wf _
theorem Numbering.rateLimitRecover : ∀ block fid, Numbering.Statement (.rateLimitRecover block fid) := fun _ _ => numbering_of_wf _
theorem Numbering.routeWithdraw : ∀ port pkt, Numbering.Statement (.routeWithdraw port pkt) := fun _ _ => numbering_of_wf _
theorem Numbering.routeRestore : ∀ port pkt, Numbering.Statement (.routeRestore port pkt) := fun _ _ => numbering_of_wf _
theorem Numbering.routeRestoreDelayExpiry : ∀ fid, Numbering.Statement (.routeRestoreDelayExpiry fid) := fun _ => numbering_of_wf _
theorem Numbering.cableInsert : ∀ port, Numbering.Statement (.cableInsert port) := fun _ => numbering_of_wf _
theorem Numbering.cableModuleLowPwr : ∀ port cmisRev appsOk, Numbering.Statement (.cableModuleLowPwr port cmisRev appsOk) := fun _ _ _ => numbering_of_wf _
theorem Numbering.cableModuleReady : ∀ port, Numbering.Statement (.cableModuleReady port) := fun _ => numbering_of_wf _
theorem Numbering.cableDpActivated : ∀ port, Numbering.Statement (.cableDpActivated port) := fun _ => numbering_of_wf _
theorem Numbering.cableBringupFail : ∀ port stepNo, Numbering.Statement (.cableBringupFail port stepNo) := fun _ _ => numbering_of_wf _
theorem Numbering.cableRetryExpiry : ∀ port, Numbering.Statement (.cableRetryExpiry port) := fun _ => numbering_of_wf _
theorem Numbering.cableRemove : ∀ port, Numbering.Statement (.cableRemove port) := fun _ => numbering_of_wf _
theorem Numbering.cablePoll : ∀ port flags, Numbering.Statement (.cablePoll port flags) := fun _ _ => numbering_of_wf _
theorem Numbering.sdaStuck : ∀ port stillLow, Numbering.Statement (.sdaStuck port stillLow) := fun _ _ => numbering_of_wf _
theorem Numbering.linkInit : ∀ port frame, Numbering.Statement (.linkInit port frame) := fun _ _ => numbering_of_wf _
theorem Numbering.initAck : ∀ port frame, Numbering.Statement (.initAck port frame) := fun _ _ => numbering_of_wf _
theorem Numbering.trainingTimeout : ∀ port, Numbering.Statement (.trainingTimeout port) := fun _ => numbering_of_wf _
theorem Numbering.los : ∀ port lanes, Numbering.Statement (.los port lanes) := fun _ _ => numbering_of_wf _
theorem Numbering.fecFail : ∀ port corrected uncorrectable, Numbering.Statement (.fecFail port corrected uncorrectable) := fun _ _ _ => numbering_of_wf _
theorem Numbering.swapReq : ∀ port frame, Numbering.Statement (.swapReq port frame) := fun _ _ => numbering_of_wf _
theorem Numbering.swapReady : ∀ port frame, Numbering.Statement (.swapReady port frame) := fun _ _ => numbering_of_wf _
theorem Numbering.swapMarker : ∀ port transmit, Numbering.Statement (.swapMarker port transmit) := fun _ _ => numbering_of_wf _
theorem Numbering.swapTimeout : ∀ port, Numbering.Statement (.swapTimeout port) := fun _ => numbering_of_wf _
theorem Numbering.dataFrameReceive : ∀ port frame, Numbering.Statement (.dataFrameReceive port frame) := fun _ _ => numbering_of_wf _
theorem Numbering.credit : ∀ port frame, Numbering.Statement (.credit port frame) := fun _ _ => numbering_of_wf _
theorem Numbering.creditSendTimer : ∀ port, Numbering.Statement (.creditSendTimer port) := fun _ => numbering_of_wf _
theorem Numbering.linkRetry : ∀ port frame, Numbering.Statement (.linkRetry port frame) := fun _ _ => numbering_of_wf _
theorem Numbering.apWr : ∀ port tag ctx window addr data, Numbering.Statement (.apWr port tag ctx window addr data) := fun _ _ _ _ _ _ => numbering_of_wf _
theorem Numbering.apRd : ∀ port tag ctx window addr len vol, Numbering.Statement (.apRd port tag ctx window addr len vol) := fun _ _ _ _ _ _ _ => numbering_of_wf _
theorem Numbering.cpl : ∀ port tag status data, Numbering.Statement (.cpl port tag status data) := fun _ _ _ _ => numbering_of_wf _
theorem Numbering.attachTimeout : ∀ port tag, Numbering.Statement (.attachTimeout port tag) := fun _ _ => numbering_of_wf _
theorem Numbering.plan : ∀ pkt, Numbering.Statement (.plan pkt) := fun _ => numbering_of_wf _
theorem Numbering.join : ∀ pkt, Numbering.Statement (.join pkt) := fun _ => numbering_of_wf _
theorem Numbering.joinTimeout : ∀ group, Numbering.Statement (.joinTimeout group) := fun _ => numbering_of_wf _
theorem Numbering.activate : ∀ pkt, Numbering.Statement (.activate pkt) := fun _ => numbering_of_wf _
theorem Numbering.close : ∀ pkt, Numbering.Statement (.close pkt) := fun _ => numbering_of_wf _
theorem Numbering.ready : ∀ pkt, Numbering.Statement (.ready pkt) := fun _ => numbering_of_wf _
theorem Numbering.claimGrant : ∀ cls, Numbering.Statement (.claimGrant cls) := fun _ => numbering_of_wf _
theorem Numbering.claimTimeout : ∀ key, Numbering.Statement (.claimTimeout key) := fun _ => numbering_of_wf _
theorem Numbering.go : ∀ pkt, Numbering.Statement (.go pkt) := fun _ => numbering_of_wf _
theorem Numbering.scan : ∀ pkt, Numbering.Statement (.scan pkt) := fun _ => numbering_of_wf _
theorem Numbering.anchors : ∀ pkt, Numbering.Statement (.anchors pkt) := fun _ => numbering_of_wf _
theorem Numbering.contrib : ∀ pkt, Numbering.Statement (.contrib pkt) := fun _ => numbering_of_wf _
theorem Numbering.partialSum : ∀ pkt negZeros, Numbering.Statement (.partialSum pkt negZeros) := fun _ _ => numbering_of_wf _
theorem Numbering.result : ∀ pkt, Numbering.Statement (.result pkt) := fun _ => numbering_of_wf _
theorem Numbering.checked : ∀ pkt, Numbering.Statement (.checked pkt) := fun _ => numbering_of_wf _
theorem Numbering.delivered : ∀ pkt, Numbering.Statement (.delivered pkt) := fun _ => numbering_of_wf _
theorem Numbering.commit : ∀ pkt, Numbering.Statement (.commit pkt) := fun _ => numbering_of_wf _
theorem Numbering.retract : ∀ pkt, Numbering.Statement (.retract pkt) := fun _ => numbering_of_wf _
theorem Numbering.abort : ∀ pkt, Numbering.Statement (.abort pkt) := fun _ => numbering_of_wf _
theorem Numbering.stall : ∀ pkt, Numbering.Statement (.stall pkt) := fun _ => numbering_of_wf _
theorem Numbering.stallTimeout : ∀ group collId chunk, Numbering.Statement (.stallTimeout group collId chunk) := fun _ _ _ => numbering_of_wf _
theorem Numbering.done : ∀ pkt, Numbering.Statement (.done pkt) := fun _ => numbering_of_wf _
theorem Numbering.finish : ∀ pkt, Numbering.Statement (.finish pkt) := fun _ => numbering_of_wf _
theorem Numbering.provCrc : ∀ pkt, Numbering.Statement (.provCrc pkt) := fun _ => numbering_of_wf _
theorem Numbering.provList : ∀ pkt, Numbering.Statement (.provList pkt) := fun _ => numbering_of_wf _
theorem Numbering.prepare : ∀ msg, Numbering.Statement (.prepare msg) := fun _ => numbering_of_wf _
theorem Numbering.voteYes : ∀ msg, Numbering.Statement (.voteYes msg) := fun _ => numbering_of_wf _
theorem Numbering.voteNo : ∀ msg, Numbering.Statement (.voteNo msg) := fun _ => numbering_of_wf _
theorem Numbering.decideCommit : ∀ msg, Numbering.Statement (.decideCommit msg) := fun _ => numbering_of_wf _
theorem Numbering.decideAbort : ∀ msg, Numbering.Statement (.decideAbort msg) := fun _ => numbering_of_wf _
theorem Numbering.voteTimeout : ∀ key, Numbering.Statement (.voteTimeout key) := fun _ => numbering_of_wf _
theorem Numbering.preparedQueryTimer : ∀ key, Numbering.Statement (.preparedQueryTimer key) := fun _ => numbering_of_wf _
theorem Numbering.query : ∀ msg, Numbering.Statement (.query msg) := fun _ => numbering_of_wf _
theorem Numbering.stateReply : ∀ msg, Numbering.Statement (.stateReply msg) := fun _ => numbering_of_wf _
theorem Numbering.hello : ∀ msg, Numbering.Statement (.hello msg) := fun _ => numbering_of_wf _
theorem Numbering.keyInstall : ∀ msg, Numbering.Statement (.keyInstall msg) := fun _ => numbering_of_wf _
theorem Numbering.keyActivate : ∀ msg, Numbering.Statement (.keyActivate msg) := fun _ => numbering_of_wf _
theorem Numbering.keyRetire : ∀ msg, Numbering.Statement (.keyRetire msg) := fun _ => numbering_of_wf _
theorem Numbering.sessionEnd : ∀ msg, Numbering.Statement (.sessionEnd msg) := fun _ => numbering_of_wf _
theorem Numbering.sessionIdleTimeout : ∀ session, Numbering.Statement (.sessionIdleTimeout session) := fun _ => numbering_of_wf _
theorem Numbering.ensignFwd : ∀ pkt, Numbering.Statement (.ensignFwd pkt) := fun _ => numbering_of_wf _
theorem Numbering.ensignRsp : ∀ pkt, Numbering.Statement (.ensignRsp pkt) := fun _ => numbering_of_wf _
theorem Numbering.lsPair : ∀ port pkt, Numbering.Statement (.lsPair port pkt) := fun _ _ => numbering_of_wf _
theorem Numbering.lsRecord : ∀ port pkt, Numbering.Statement (.lsRecord port pkt) := fun _ _ => numbering_of_wf _
theorem Numbering.lsMatchTimeout : ∀ kind key, Numbering.Statement (.lsMatchTimeout kind key) := fun _ _ => numbering_of_wf _
theorem Numbering.lsDiverge : ∀ port pkt, Numbering.Statement (.lsDiverge port pkt) := fun _ _ => numbering_of_wf _
theorem Numbering.lsResume : ∀ port pkt, Numbering.Statement (.lsResume port pkt) := fun _ _ => numbering_of_wf _
theorem Numbering.monitorSample : ∀ readings, Numbering.Statement (.monitorSample readings) := fun _ => numbering_of_wf _
theorem Numbering.failLimitResponse : ∀ monitor, Numbering.Statement (.failLimitResponse monitor) := fun _ => numbering_of_wf _
theorem Numbering.spareTest : ∀ kind unit, Numbering.Statement (.spareTest kind unit) := fun _ _ => numbering_of_wf _
theorem Numbering.spareTestDone : ∀ kind unit pass, Numbering.Statement (.spareTestDone kind unit pass) := fun _ _ _ => numbering_of_wf _
theorem Numbering.planeSwap : ∀ worn spare, Numbering.Statement (.planeSwap worn spare) := fun _ _ => numbering_of_wf _
theorem Numbering.reductionDieSwap : ∀ worn spare, Numbering.Statement (.reductionDieSwap worn spare) := fun _ _ => numbering_of_wf _
theorem Numbering.endPointBlockSwap : ∀ block, Numbering.Statement (.endPointBlockSwap block) := fun _ => numbering_of_wf _
theorem Numbering.planeFail : ∀ die, Numbering.Statement (.planeFail die) := fun _ => numbering_of_wf _
theorem Numbering.reductionDieFail : ∀ die, Numbering.Statement (.reductionDieFail die) := fun _ => numbering_of_wf _
theorem Numbering.endPointBlockFail : ∀ block, Numbering.Statement (.endPointBlockFail block) := fun _ => numbering_of_wf _
theorem Numbering.memoryDeviceFail : ∀ device, Numbering.Statement (.memoryDeviceFail device) := fun _ => numbering_of_wf _
theorem Numbering.harbourLineRetire : ∀ line edcRetries found, Numbering.Statement (.harbourLineRetire line edcRetries found) := fun _ _ _ => numbering_of_wf _
theorem Numbering.heartbeatLoss : Numbering.Statement .heartbeatLoss := numbering_of_wf _
theorem Numbering.fatalError : ∀ cause, Numbering.Statement (.fatalError cause) := fun _ => numbering_of_wf _
theorem Numbering.dumpStart : Numbering.Statement .dumpStart := numbering_of_wf _
theorem Numbering.dumpDone : Numbering.Statement .dumpDone := numbering_of_wf _
theorem Numbering.clearFaults : Numbering.Statement .clearFaults := numbering_of_wf _
theorem Numbering.statusWord : Numbering.Statement .statusWord := numbering_of_wf _
theorem Numbering.readTemperature1 : Numbering.Statement .readTemperature1 := numbering_of_wf _
theorem Numbering.readPin : Numbering.Statement .readPin := numbering_of_wf _
theorem Numbering.pmbusRevision : Numbering.Statement .pmbusRevision := numbering_of_wf _
theorem Numbering.mfrPowerCap : ∀ write, Numbering.Statement (.mfrPowerCap write) := fun _ => numbering_of_wf _
theorem Numbering.mfrCapState : Numbering.Statement .mfrCapState := numbering_of_wf _
theorem Numbering.pmbusUnsupportedCommand : ∀ code, Numbering.Statement (.pmbusUnsupportedCommand code) := fun _ => numbering_of_wf _
theorem Numbering.dataPlanePgAssert : ∀ rail, Numbering.Statement (.dataPlanePgAssert rail) := fun _ => numbering_of_wf _
theorem Numbering.lanesAligned : ∀ port lanes, Numbering.Statement (.lanesAligned port lanes) := fun _ _ => numbering_of_wf _
theorem Numbering.spareLaneLock : ∀ port, Numbering.Statement (.spareLaneLock port) := fun _ => numbering_of_wf _
theorem Numbering.contextQuantumExpiry : ∀ block ctx, Numbering.Statement (.contextQuantumExpiry block ctx) := fun _ _ => numbering_of_wf _
theorem Numbering.prepareWaitExpiry : ∀ key, Numbering.Statement (.prepareWaitExpiry key) := fun _ => numbering_of_wf _
theorem Numbering.managementDieFault : Numbering.Statement .managementDieFault := numbering_of_wf _
theorem Numbering.standbyDieFault : Numbering.Statement .standbyDieFault := numbering_of_wf _
theorem Numbering.perstNDeassert : ∀ port, Numbering.Statement (.perstNDeassert port) := fun _ => numbering_of_wf _
theorem Numbering.hostLinkUp : ∀ port, Numbering.Statement (.hostLinkUp port) := fun _ => numbering_of_wf _
theorem Numbering.msixVectorUnmask : ∀ port vector, Numbering.Statement (.msixVectorUnmask port vector) := fun _ _ => numbering_of_wf _

end Sys2Proof.Laws
end

