-- ==== Sys2Proof/Laws/Translate.lean ====
section
/-!
SUPPORT. Lookups through the translation caches: what a lookup answers where nothing is cached, and what filling and dropping
cached entries leaves as it was.
-/
namespace Sys2Proof.Machine

open Sys2Proof

/-! ## What a lookup answers -/

@[simp] theorem lookPure_out {α : Type} (a : α) : (lookPure a).out = a := rfl
@[simp] theorem lookPure_fill {α : Type} (a : α) : (lookPure a).fill = [] := rfl

theorem lookThen_error {ε α β : Type} (l : Look (Except ε α)) (f : α → Look (Except ε β)) (e : ε) (h : l.out = .error e) :
    (lookThen l f).out = .error e := by simp [lookThen, h]

theorem lookThen_ok {ε α β : Type} (l : Look (Except ε α)) (f : α → Look (Except ε β)) (a : α) (h : l.out = .ok a) :
    (lookThen l f).out = (f a).out ∧ (lookThen l f).fill = l.fill ++ (f a).fill := by simp [lookThen, h]

theorem lookFail_ok {ε δ α : Type} (l : Look (Except ε α)) (f : ε → δ) (a : α) (h : l.out = .ok a) : (lookFail l f).out = .ok a := by
  simp [lookFail, h]

theorem lookFail_error {ε δ α : Type} (l : Look (Except ε α)) (f : ε → δ) (e : ε) (h : l.out = .error e) :
    (lookFail l f).out = .error (f e) := by simp [lookFail, h]

/-- A block that holds no entry finds none. -/
theorem cachedAt_none (s : State) (b : Nat) (mine : CacheTag → Bool) (h : ∀ e ∈ s.tables, e.block ≠ b) : cachedAt s b mine = none := by
  simp only [cachedAt, List.find?_eq_none]
  intro e he
  simp [h e he]

/-- A table entry that is not cached is read from its table. -/
theorem cachedRead_none (s : State) (b : Nat) (host : Bool) (a n : Nat) (t : CacheTag)
    (h : cachedAt s b (fun x => decide (x = t)) = none) : cachedRead s b host a n t = (tableRead s b host a n, true) := by
  simp [cachedRead, h]

/-- A cached entry that equals its table answers what the table holds. -/
theorem cachedRead_same (s : State) (b : Nat) (host : Bool) (a n : Nat) (t : CacheTag) (e : CachedEntry)
    (h : cachedAt s b (fun x => decide (x = t)) = some e) (hm : tableRead s b host a n = .ok e.bytes) :
    cachedRead s b host a n t = (tableRead s b host a n, false) := by
  simp [cachedRead, h, hm]

/-! ## Filling the caches -/

/-- What sees neither ports, nor what is sent, sees nothing of a frame. -/
theorem putFrame_keep {α : Type} (f : State → α) (hp : ∀ s g, f { s with ports := g } = f s) (ho : ∀ s o, f { s with out := o } = f s)
    (s : State) (p vc : Nat) (bs : Bytes) : f (putFrame s p vc bs) = f s := (ho _ _).trans (hp s _)
theorem sendFrame_keep {α : Type} (f : State → α) (hp : ∀ s g, f { s with ports := g } = f s) (ho : ∀ s o, f { s with out := o } = f s)
    (s : State) (p vc : Nat) (bs : Bytes) : f (sendFrame s p vc bs) = f s := by
  unfold sendFrame offerFrame
  dsimp only
  split
  · rfl
  · split
    · exact putFrame_keep f hp ho s _ _ _
    · exact hp s _

/-- What sees none of the parts that a failed read may change sees nothing of one: the host side, the listed faults, the requests on the attach
link, ports, and what is sent. -/
theorem leaveSilent_keep {α : Type} (f : State → α) (hh : ∀ s h, f { s with host := h } = f s) (hf : ∀ s m, f { s with memFaults := m } = f s)
    (ha : ∀ s n r, f { s with nextAttTag := n, attReqs := r } = f s) (hp : ∀ s g, f { s with ports := g } = f s)
    (ho : ∀ s o, f { s with out := o } = f s) (s : State) (b a n : Nat) : f (leaveSilent s b a n) = f s := by
  unfold leaveSilent
  split
  · exact noteHostRead_keep s f hh hf a n
  · split
    · unfold attachSend
      cases pickPort s b with
      | none => rfl
      | some p => exact (sendFrame_keep f hp ho _ _ _ _).trans (ha s _ _)
    · rfl

/-- What sees nothing of a failed read, neither the cached entries, nor the count of lookups, nor registers, sees nothing of a lookup. -/
theorem warm_keep {α β : Type} (f : State → β) (ht : ∀ s g n, f { s with tables := g, lookups := n } = f s)
    (hr : ∀ s g, f { s with regs := g } = f s) (hl : ∀ s b a n, f (leaveSilent s b a n) = f s) (s : State) (b : Nat) (l : Look α) :
    f (warm s b l) = f s := by
  have key : ∀ (m : List CacheTag) (t : State), f (m.foldl (fun s _ => countXlateMiss s b) t) = f t := by
    intro m
    induction m with
    | nil => intro t; rfl
    | cons a m ih => intro t; rw [List.foldl_cons, ih]; exact hr t _
  have left : ∀ (m : List (Nat × Nat)) (t : State), f (m.foldl (fun s r => leaveSilent s b r.1 r.2) t) = f t := by
    intro m
    induction m with
    | nil => intro t; rfl
    | cons a m ih => intro t; rw [List.foldl_cons, ih]; exact hl t _ _ _
  exact (left _ _).trans ((key _ _).trans (ht s _ _))

@[simp] theorem warm_pending {α : Type} (s : State) (b : Nat) (l : Look α) : (warm s b l).pending = s.pending :=
  warm_keep (·.pending) (fun _ _ _ => rfl) (fun _ _ => rfl) (leaveSilent_keep _ (fun _ _ => rfl) (fun _ _ => rfl) (fun _ _ _ => rfl) (fun _ _ => rfl) (fun _ _ => rfl)) s b l
@[simp] theorem warm_variant {α : Type} (s : State) (b : Nat) (l : Look α) : (warm s b l).variant = s.variant :=
  warm_keep (·.variant) (fun _ _ _ => rfl) (fun _ _ => rfl) (leaveSilent_keep _ (fun _ _ => rfl) (fun _ _ => rfl) (fun _ _ _ => rfl) (fun _ _ => rfl) (fun _ _ => rfl)) s b l
@[simp] theorem warm_mode {α : Type} (s : State) (b : Nat) (l : Look α) : (warm s b l).mode = s.mode :=
  warm_keep (·.mode) (fun _ _ _ => rfl) (fun _ _ => rfl) (leaveSilent_keep _ (fun _ _ => rfl) (fun _ _ => rfl) (fun _ _ _ => rfl) (fun _ _ => rfl) (fun _ _ => rfl)) s b l
@[simp] theorem warm_degraded {α : Type} (s : State) (b : Nat) (l : Look α) : (warm s b l).degraded = s.degraded :=
  warm_keep (·.degraded) (fun _ _ _ => rfl) (fun _ _ => rfl) (leaveSilent_keep _ (fun _ _ => rfl) (fun _ _ => rfl) (fun _ _ _ => rfl) (fun _ _ => rfl) (fun _ _ => rfl)) s b l
@[simp] theorem warm_role {α : Type} (s : State) (b : Nat) (l : Look α) : (warm s b l).role = s.role :=
  warm_keep (·.role) (fun _ _ _ => rfl) (fun _ _ => rfl) (leaveSilent_keep _ (fun _ _ => rfl) (fun _ _ => rfl) (fun _ _ _ => rfl) (fun _ _ => rfl) (fun _ _ => rfl)) s b l
@[simp] theorem warm_lockstep {α : Type} (s : State) (b : Nat) (l : Look α) : (warm s b l).lockstep = s.lockstep :=
  warm_keep (·.lockstep) (fun _ _ _ => rfl) (fun _ _ => rfl) (leaveSilent_keep _ (fun _ _ => rfl) (fun _ _ => rfl) (fun _ _ _ => rfl) (fun _ _ => rfl) (fun _ _ => rfl)) s b l
@[simp] theorem warm_now {α : Type} (s : State) (b : Nat) (l : Look α) : (warm s b l).now = s.now :=
  warm_keep (·.now) (fun _ _ _ => rfl) (fun _ _ => rfl) (leaveSilent_keep _ (fun _ _ => rfl) (fun _ _ => rfl) (fun _ _ _ => rfl) (fun _ _ => rfl) (fun _ _ => rfl)) s b l
@[simp] theorem warm_serviceAt {α : Type} (s : State) (b : Nat) (l : Look α) : (warm s b l).serviceAt = s.serviceAt :=
  warm_keep (·.serviceAt) (fun _ _ _ => rfl) (fun _ _ => rfl) (leaveSilent_keep _ (fun _ _ => rfl) (fun _ _ => rfl) (fun _ _ _ => rfl) (fun _ _ => rfl) (fun _ _ => rfl)) s b l
@[simp] theorem warm_bootAt {α : Type} (s : State) (b : Nat) (l : Look α) : (warm s b l).bootAt = s.bootAt :=
  warm_keep (·.bootAt) (fun _ _ _ => rfl) (fun _ _ => rfl) (leaveSilent_keep _ (fun _ _ => rfl) (fun _ _ => rfl) (fun _ _ _ => rfl) (fun _ _ => rfl) (fun _ _ => rfl)) s b l
@[simp] theorem warm_fresh {α : Type} (s : State) (b : Nat) (l : Look α) : (warm s b l).fresh = s.fresh :=
  warm_keep (·.fresh) (fun _ _ _ => rfl) (fun _ _ => rfl) (leaveSilent_keep _ (fun _ _ => rfl) (fun _ _ => rfl) (fun _ _ _ => rfl) (fun _ _ => rfl) (fun _ _ => rfl)) s b l
@[simp] theorem warm_pins {α : Type} (s : State) (b : Nat) (l : Look α) : (warm s b l).pins = s.pins :=
  warm_keep (·.pins) (fun _ _ _ => rfl) (fun _ _ => rfl) (leaveSilent_keep _ (fun _ _ => rfl) (fun _ _ => rfl) (fun _ _ _ => rfl) (fun _ _ => rfl) (fun _ _ => rfl)) s b l
@[simp] theorem warm_mem {α : Type} (s : State) (b : Nat) (l : Look α) : (warm s b l).mem = s.mem :=
  warm_keep (·.mem) (fun _ _ _ => rfl) (fun _ _ => rfl) (leaveSilent_keep _ (fun _ _ => rfl) (fun _ _ => rfl) (fun _ _ _ => rfl) (fun _ _ => rfl) (fun _ _ => rfl)) s b l
@[simp] theorem warm_power {α : Type} (s : State) (b : Nat) (l : Look α) : (warm s b l).power = s.power :=
  warm_keep (·.power) (fun _ _ _ => rfl) (fun _ _ => rfl) (leaveSilent_keep _ (fun _ _ => rfl) (fun _ _ => rfl) (fun _ _ _ => rfl) (fun _ _ => rfl) (fun _ _ => rfl)) s b l
@[simp] theorem warm_sec {α : Type} (s : State) (b : Nat) (l : Look α) : (warm s b l).sec = s.sec :=
  warm_keep (·.sec) (fun _ _ _ => rfl) (fun _ _ => rfl) (leaveSilent_keep _ (fun _ _ => rfl) (fun _ _ => rfl) (fun _ _ _ => rfl) (fun _ _ => rfl) (fun _ _ => rfl)) s b l
@[simp] theorem warm_ctxs {α : Type} (s : State) (b : Nat) (l : Look α) : (warm s b l).ctxs = s.ctxs :=
  warm_keep (·.ctxs) (fun _ _ _ => rfl) (fun _ _ => rfl) (leaveSilent_keep _ (fun _ _ => rfl) (fun _ _ => rfl) (fun _ _ _ => rfl) (fun _ _ => rfl) (fun _ _ => rfl)) s b l
@[simp] theorem warm_ctxBlocks {α : Type} (s : State) (b : Nat) (l : Look α) : (warm s b l).ctxBlocks = s.ctxBlocks :=
  warm_keep (·.ctxBlocks) (fun _ _ _ => rfl) (fun _ _ => rfl) (leaveSilent_keep _ (fun _ _ => rfl) (fun _ _ => rfl) (fun _ _ _ => rfl) (fun _ _ => rfl) (fun _ _ => rfl)) s b l
@[simp] theorem warm_admitNext {α : Type} (s : State) (b : Nat) (l : Look α) : (warm s b l).admitNext = s.admitNext :=
  warm_keep (·.admitNext) (fun _ _ _ => rfl) (fun _ _ => rfl) (leaveSilent_keep _ (fun _ _ => rfl) (fun _ _ => rfl) (fun _ _ _ => rfl) (fun _ _ => rfl) (fun _ _ => rfl)) s b l
@[simp] theorem warm_queues {α : Type} (s : State) (b : Nat) (l : Look α) : (warm s b l).queues = s.queues :=
  warm_keep (·.queues) (fun _ _ _ => rfl) (fun _ _ => rfl) (leaveSilent_keep _ (fun _ _ => rfl) (fun _ _ => rfl) (fun _ _ _ => rfl) (fun _ _ => rfl) (fun _ _ => rfl)) s b l
@[simp] theorem warm_cmds {α : Type} (s : State) (b : Nat) (l : Look α) : (warm s b l).cmds = s.cmds :=
  warm_keep (·.cmds) (fun _ _ _ => rfl) (fun _ _ => rfl) (leaveSilent_keep _ (fun _ _ => rfl) (fun _ _ => rfl) (fun _ _ _ => rfl) (fun _ _ => rfl) (fun _ _ => rfl)) s b l
@[simp] theorem warm_reqs {α : Type} (s : State) (b : Nat) (l : Look α) : (warm s b l).reqs = s.reqs :=
  warm_keep (·.reqs) (fun _ _ _ => rfl) (fun _ _ => rfl) (leaveSilent_keep _ (fun _ _ => rfl) (fun _ _ => rfl) (fun _ _ _ => rfl) (fun _ _ => rfl) (fun _ _ => rfl)) s b l
@[simp] theorem warm_stalled {α : Type} (s : State) (b : Nat) (l : Look α) : (warm s b l).stalled = s.stalled :=
  warm_keep (·.stalled) (fun _ _ _ => rfl) (fun _ _ => rfl) (leaveSilent_keep _ (fun _ _ => rfl) (fun _ _ => rfl) (fun _ _ _ => rfl) (fun _ _ => rfl) (fun _ _ => rfl)) s b l
@[simp] theorem warm_combIn {α : Type} (s : State) (b : Nat) (l : Look α) : (warm s b l).combIn = s.combIn :=
  warm_keep (·.combIn) (fun _ _ _ => rfl) (fun _ _ => rfl) (leaveSilent_keep _ (fun _ _ => rfl) (fun _ _ => rfl) (fun _ _ _ => rfl) (fun _ _ => rfl) (fun _ _ => rfl)) s b l
@[simp] theorem warm_srcStreams {α : Type} (s : State) (b : Nat) (l : Look α) : (warm s b l).srcStreams = s.srcStreams :=
  warm_keep (·.srcStreams) (fun _ _ _ => rfl) (fun _ _ => rfl) (leaveSilent_keep _ (fun _ _ => rfl) (fun _ _ => rfl) (fun _ _ _ => rfl) (fun _ _ => rfl) (fun _ _ => rfl)) s b l
@[simp] theorem warm_homeStreams {α : Type} (s : State) (b : Nat) (l : Look α) : (warm s b l).homeStreams = s.homeStreams :=
  warm_keep (·.homeStreams) (fun _ _ _ => rfl) (fun _ _ => rfl) (leaveSilent_keep _ (fun _ _ => rfl) (fun _ _ => rfl) (fun _ _ _ => rfl) (fun _ _ => rfl) (fun _ _ => rfl)) s b l
@[simp] theorem warm_nonces {α : Type} (s : State) (b : Nat) (l : Look α) : (warm s b l).nonces = s.nonces :=
  warm_keep (·.nonces) (fun _ _ _ => rfl) (fun _ _ => rfl) (leaveSilent_keep _ (fun _ _ => rfl) (fun _ _ => rfl) (fun _ _ _ => rfl) (fun _ _ => rfl) (fun _ _ => rfl)) s b l
@[simp] theorem warm_unitBuilt {α : Type} (s : State) (b : Nat) (l : Look α) : (warm s b l).unitBuilt = s.unitBuilt :=
  warm_keep (·.unitBuilt) (fun _ _ _ => rfl) (fun _ _ => rfl) (leaveSilent_keep _ (fun _ _ => rfl) (fun _ _ => rfl) (fun _ _ _ => rfl) (fun _ _ => rfl) (fun _ _ => rfl)) s b l
@[simp] theorem warm_ledger {α : Type} (s : State) (b : Nat) (l : Look α) : (warm s b l).ledger = s.ledger :=
  warm_keep (·.ledger) (fun _ _ _ => rfl) (fun _ _ => rfl) (leaveSilent_keep _ (fun _ _ => rfl) (fun _ _ => rfl) (fun _ _ _ => rfl) (fun _ _ => rfl) (fun _ _ => rfl)) s b l
@[simp] theorem warm_gens {α : Type} (s : State) (b : Nat) (l : Look α) : (warm s b l).gens = s.gens :=
  warm_keep (·.gens) (fun _ _ _ => rfl) (fun _ _ => rfl) (leaveSilent_keep _ (fun _ _ => rfl) (fun _ _ => rfl) (fun _ _ _ => rfl) (fun _ _ => rfl) (fun _ _ => rfl)) s b l
@[simp] theorem warm_quietUntil {α : Type} (s : State) (b : Nat) (l : Look α) : (warm s b l).quietUntil = s.quietUntil :=
  warm_keep (·.quietUntil) (fun _ _ _ => rfl) (fun _ _ => rfl) (leaveSilent_keep _ (fun _ _ => rfl) (fun _ _ => rfl) (fun _ _ _ => rfl) (fun _ _ => rfl) (fun _ _ => rfl)) s b l
@[simp] theorem warm_repeatAt {α : Type} (s : State) (b : Nat) (l : Look α) : (warm s b l).repeatAt = s.repeatAt :=
  warm_keep (·.repeatAt) (fun _ _ _ => rfl) (fun _ _ => rfl) (leaveSilent_keep _ (fun _ _ => rfl) (fun _ _ => rfl) (fun _ _ _ => rfl) (fun _ _ => rfl) (fun _ _ => rfl)) s b l
@[simp] theorem warm_cache {α : Type} (s : State) (b : Nat) (l : Look α) : (warm s b l).cache = s.cache :=
  warm_keep (·.cache) (fun _ _ _ => rfl) (fun _ _ => rfl) (leaveSilent_keep _ (fun _ _ => rfl) (fun _ _ => rfl) (fun _ _ _ => rfl) (fun _ _ => rfl) (fun _ _ => rfl)) s b l
@[simp] theorem warm_windows {α : Type} (s : State) (b : Nat) (l : Look α) : (warm s b l).windows = s.windows :=
  warm_keep (·.windows) (fun _ _ _ => rfl) (fun _ _ => rfl) (leaveSilent_keep _ (fun _ _ => rfl) (fun _ _ => rfl) (fun _ _ _ => rfl) (fun _ _ => rfl) (fun _ _ => rfl)) s b l
@[simp] theorem warm_limits {α : Type} (s : State) (b : Nat) (l : Look α) : (warm s b l).limits = s.limits :=
  warm_keep (·.limits) (fun _ _ _ => rfl) (fun _ _ => rfl) (leaveSilent_keep _ (fun _ _ => rfl) (fun _ _ => rfl) (fun _ _ _ => rfl) (fun _ _ => rfl) (fun _ _ => rfl)) s b l
@[simp] theorem warm_apertures {α : Type} (s : State) (b : Nat) (l : Look α) : (warm s b l).apertures = s.apertures :=
  warm_keep (·.apertures) (fun _ _ _ => rfl) (fun _ _ => rfl) (leaveSilent_keep _ (fun _ _ => rfl) (fun _ _ => rfl) (fun _ _ _ => rfl) (fun _ _ => rfl) (fun _ _ => rfl)) s b l
@[simp] theorem warm_switch {α : Type} (s : State) (b : Nat) (l : Look α) : (warm s b l).switch = s.switch :=
  warm_keep (·.switch) (fun _ _ _ => rfl) (fun _ _ => rfl) (leaveSilent_keep _ (fun _ _ => rfl) (fun _ _ => rfl) (fun _ _ _ => rfl) (fun _ _ => rfl) (fun _ _ => rfl)) s b l
@[simp] theorem warm_groups {α : Type} (s : State) (b : Nat) (l : Look α) : (warm s b l).groups = s.groups :=
  warm_keep (·.groups) (fun _ _ _ => rfl) (fun _ _ => rfl) (leaveSilent_keep _ (fun _ _ => rfl) (fun _ _ => rfl) (fun _ _ _ => rfl) (fun _ _ => rfl) (fun _ _ => rfl)) s b l
@[simp] theorem warm_planBufs {α : Type} (s : State) (b : Nat) (l : Look α) : (warm s b l).planBufs = s.planBufs :=
  warm_keep (·.planBufs) (fun _ _ _ => rfl) (fun _ _ => rfl) (leaveSilent_keep _ (fun _ _ => rfl) (fun _ _ => rfl) (fun _ _ _ => rfl) (fun _ _ => rfl) (fun _ _ => rfl)) s b l
@[simp] theorem warm_groupCmds {α : Type} (s : State) (b : Nat) (l : Look α) : (warm s b l).groupCmds = s.groupCmds :=
  warm_keep (·.groupCmds) (fun _ _ _ => rfl) (fun _ _ => rfl) (leaveSilent_keep _ (fun _ _ => rfl) (fun _ _ => rfl) (fun _ _ _ => rfl) (fun _ _ => rfl) (fun _ _ => rfl)) s b l
@[simp] theorem warm_claims {α : Type} (s : State) (b : Nat) (l : Look α) : (warm s b l).claims = s.claims :=
  warm_keep (·.claims) (fun _ _ _ => rfl) (fun _ _ => rfl) (leaveSilent_keep _ (fun _ _ => rfl) (fun _ _ => rfl) (fun _ _ _ => rfl) (fun _ _ => rfl) (fun _ _ => rfl)) s b l
@[simp] theorem warm_colls {α : Type} (s : State) (b : Nat) (l : Look α) : (warm s b l).colls = s.colls :=
  warm_keep (·.colls) (fun _ _ _ => rfl) (fun _ _ => rfl) (leaveSilent_keep _ (fun _ _ => rfl) (fun _ _ => rfl) (fun _ _ _ => rfl) (fun _ _ => rfl) (fun _ _ => rfl)) s b l
@[simp] theorem warm_launches {α : Type} (s : State) (b : Nat) (l : Look α) : (warm s b l).launches = s.launches :=
  warm_keep (·.launches) (fun _ _ _ => rfl) (fun _ _ => rfl) (leaveSilent_keep _ (fun _ _ => rfl) (fun _ _ => rfl) (fun _ _ _ => rfl) (fun _ _ => rfl) (fun _ _ => rfl)) s b l
@[simp] theorem warm_programs {α : Type} (s : State) (b : Nat) (l : Look α) : (warm s b l).programs = s.programs :=
  warm_keep (·.programs) (fun _ _ _ => rfl) (fun _ _ => rfl) (leaveSilent_keep _ (fun _ _ => rfl) (fun _ _ => rfl) (fun _ _ _ => rfl) (fun _ _ => rfl) (fun _ _ => rfl)) s b l
@[simp] theorem warm_hb {α : Type} (s : State) (b : Nat) (l : Look α) : (warm s b l).hb = s.hb :=
  warm_keep (·.hb) (fun _ _ _ => rfl) (fun _ _ => rfl) (leaveSilent_keep _ (fun _ _ => rfl) (fun _ _ => rfl) (fun _ _ _ => rfl) (fun _ _ => rfl) (fun _ _ => rfl)) s b l
@[simp] theorem warm_ls {α : Type} (s : State) (b : Nat) (l : Look α) : (warm s b l).ls = s.ls :=
  warm_keep (·.ls) (fun _ _ _ => rfl) (fun _ _ => rfl) (leaveSilent_keep _ (fun _ _ => rfl) (fun _ _ => rfl) (fun _ _ _ => rfl) (fun _ _ => rfl) (fun _ _ => rfl)) s b l
@[simp] theorem warm_age {α : Type} (s : State) (b : Nat) (l : Look α) : (warm s b l).age = s.age :=
  warm_keep (·.age) (fun _ _ _ => rfl) (fun _ _ => rfl) (leaveSilent_keep _ (fun _ _ => rfl) (fun _ _ => rfl) (fun _ _ _ => rfl) (fun _ _ => rfl) (fun _ _ => rfl)) s b l
@[simp] theorem warm_dump {α : Type} (s : State) (b : Nat) (l : Look α) : (warm s b l).dump = s.dump :=
  warm_keep (·.dump) (fun _ _ _ => rfl) (fun _ _ => rfl) (leaveSilent_keep _ (fun _ _ => rfl) (fun _ _ => rfl) (fun _ _ _ => rfl) (fun _ _ => rfl) (fun _ _ => rfl)) s b l
@[simp] theorem warm_teardowns {α : Type} (s : State) (b : Nat) (l : Look α) : (warm s b l).teardowns = s.teardowns :=
  warm_keep (·.teardowns) (fun _ _ _ => rfl) (fun _ _ => rfl) (leaveSilent_keep _ (fun _ _ => rfl) (fun _ _ => rfl) (fun _ _ _ => rfl) (fun _ _ => rfl) (fun _ _ => rfl)) s b l

/-- A lookup changes no register but the block's count of misses. -/
theorem reg_warm {α : Type} (s : State) (b : Nat) (l : Look α) (o : Nat) (h : o ≠ epBase b + 0x918) : reg (warm s b l) o = reg s o := by
  have key : ∀ (m : List CacheTag) (t : State), reg (m.foldl (fun s _ => countXlateMiss s b) t) o = reg t o := by
    intro m
    induction m with
    | nil => intro t; rfl
    | cons a m ih => intro t; rw [List.foldl_cons, ih, countXlateMiss, reg_bump]; simp [h]
  have left : ∀ (m : List (Nat × Nat)) (t : State), reg (m.foldl (fun s r => leaveSilent s b r.1 r.2) t) o = reg t o := by
    intro m
    induction m with
    | nil => intro t; rfl
    | cons a m ih =>
      intro t
      rw [List.foldl_cons, ih]
      exact leaveSilent_keep (fun s => reg s o) (fun _ _ => rfl) (fun _ _ => rfl) (fun _ _ _ => rfl) (fun _ _ => rfl) (fun _ _ => rfl) t b _ _
  exact (left _ _).trans (key _ _)

/-- A lookup keeps memory and registers in their canonical form. -/
theorem sound_warm {α : Type} (s : State) (b : Nat) (l : Look α) (h : Sound s) : Sound (warm s b l) := by
  have key : ∀ (m : List CacheTag) (t : State), Sound t → Sound (m.foldl (fun s _ => countXlateMiss s b) t) := by
    intro m
    induction m with
    | nil => intro t ht; exact ht
    | cons a m ih => intro t ht; rw [List.foldl_cons]; exact ih _ (sound_bump t _ ht)
  have left : ∀ (m : List (Nat × Nat)) (t : State), Sound t → Sound (m.foldl (fun s r => leaveSilent s b r.1 r.2) t) := by
    intro m
    induction m with
    | nil => intro t ht; exact ht
    | cons a m ih =>
      intro t ht
      rw [List.foldl_cons]
      exact ih _ (leaveSilent_keep Sound (fun _ _ => rfl) (fun _ _ => rfl) (fun _ _ _ => rfl) (fun _ _ => rfl) (fun _ _ => rfl) t b _ _ ▸ ht)
  exact left _ _ (key _ _ (sound_of_eq s _ rfl rfl rfl h))

/-! ## Dropping entries -/

theorem mem_dropTables (s : State) (gone : CachedEntry → Bool) (e : CachedEntry) :
    e ∈ (dropTables s gone).tables ↔ e ∈ s.tables ∧ gone e = false := by simp [dropTables]

@[simp] theorem dropTables_pending (s : State) (g : CachedEntry → Bool) : (dropTables s g).pending = s.pending := rfl
@[simp] theorem dropTables_variant (s : State) (g : CachedEntry → Bool) : (dropTables s g).variant = s.variant := rfl
@[simp] theorem dropTables_mode (s : State) (g : CachedEntry → Bool) : (dropTables s g).mode = s.mode := rfl
@[simp] theorem dropTables_degraded (s : State) (g : CachedEntry → Bool) : (dropTables s g).degraded = s.degraded := rfl
@[simp] theorem dropTables_role (s : State) (g : CachedEntry → Bool) : (dropTables s g).role = s.role := rfl
@[simp] theorem dropTables_lockstep (s : State) (g : CachedEntry → Bool) : (dropTables s g).lockstep = s.lockstep := rfl
@[simp] theorem dropTables_now (s : State) (g : CachedEntry → Bool) : (dropTables s g).now = s.now := rfl
@[simp] theorem dropTables_serviceAt (s : State) (g : CachedEntry → Bool) : (dropTables s g).serviceAt = s.serviceAt := rfl
@[simp] theorem dropTables_bootAt (s : State) (g : CachedEntry → Bool) : (dropTables s g).bootAt = s.bootAt := rfl
@[simp] theorem dropTables_fresh (s : State) (g : CachedEntry → Bool) : (dropTables s g).fresh = s.fresh := rfl
@[simp] theorem dropTables_pins (s : State) (g : CachedEntry → Bool) : (dropTables s g).pins = s.pins := rfl
@[simp] theorem dropTables_mem (s : State) (g : CachedEntry → Bool) : (dropTables s g).mem = s.mem := rfl
@[simp] theorem dropTables_memFaults (s : State) (g : CachedEntry → Bool) : (dropTables s g).memFaults = s.memFaults := rfl
@[simp] theorem dropTables_host (s : State) (g : CachedEntry → Bool) : (dropTables s g).host = s.host := rfl
@[simp] theorem dropTables_power (s : State) (g : CachedEntry → Bool) : (dropTables s g).power = s.power := rfl
@[simp] theorem dropTables_sec (s : State) (g : CachedEntry → Bool) : (dropTables s g).sec = s.sec := rfl
@[simp] theorem dropTables_ctxs (s : State) (g : CachedEntry → Bool) : (dropTables s g).ctxs = s.ctxs := rfl
@[simp] theorem dropTables_ctxBlocks (s : State) (g : CachedEntry → Bool) : (dropTables s g).ctxBlocks = s.ctxBlocks := rfl
@[simp] theorem dropTables_admitNext (s : State) (g : CachedEntry → Bool) : (dropTables s g).admitNext = s.admitNext := rfl
@[simp] theorem dropTables_queues (s : State) (g : CachedEntry → Bool) : (dropTables s g).queues = s.queues := rfl
@[simp] theorem dropTables_cmds (s : State) (g : CachedEntry → Bool) : (dropTables s g).cmds = s.cmds := rfl
@[simp] theorem dropTables_reqs (s : State) (g : CachedEntry → Bool) : (dropTables s g).reqs = s.reqs := rfl
@[simp] theorem dropTables_stalled (s : State) (g : CachedEntry → Bool) : (dropTables s g).stalled = s.stalled := rfl
@[simp] theorem dropTables_combIn (s : State) (g : CachedEntry → Bool) : (dropTables s g).combIn = s.combIn := rfl
@[simp] theorem dropTables_srcStreams (s : State) (g : CachedEntry → Bool) : (dropTables s g).srcStreams = s.srcStreams := rfl
@[simp] theorem dropTables_homeStreams (s : State) (g : CachedEntry → Bool) : (dropTables s g).homeStreams = s.homeStreams := rfl
@[simp] theorem dropTables_nonces (s : State) (g : CachedEntry → Bool) : (dropTables s g).nonces = s.nonces := rfl
@[simp] theorem dropTables_unitBuilt (s : State) (g : CachedEntry → Bool) : (dropTables s g).unitBuilt = s.unitBuilt := rfl
@[simp] theorem dropTables_ledger (s : State) (g : CachedEntry → Bool) : (dropTables s g).ledger = s.ledger := rfl
@[simp] theorem dropTables_gens (s : State) (g : CachedEntry → Bool) : (dropTables s g).gens = s.gens := rfl
@[simp] theorem dropTables_quietUntil (s : State) (g : CachedEntry → Bool) : (dropTables s g).quietUntil = s.quietUntil := rfl
@[simp] theorem dropTables_repeatAt (s : State) (g : CachedEntry → Bool) : (dropTables s g).repeatAt = s.repeatAt := rfl
@[simp] theorem dropTables_cache (s : State) (g : CachedEntry → Bool) : (dropTables s g).cache = s.cache := rfl
@[simp] theorem dropTables_windows (s : State) (g : CachedEntry → Bool) : (dropTables s g).windows = s.windows := rfl
@[simp] theorem dropTables_limits (s : State) (g : CachedEntry → Bool) : (dropTables s g).limits = s.limits := rfl
@[simp] theorem dropTables_attReqs (s : State) (g : CachedEntry → Bool) : (dropTables s g).attReqs = s.attReqs := rfl
@[simp] theorem dropTables_apertures (s : State) (g : CachedEntry → Bool) : (dropTables s g).apertures = s.apertures := rfl
@[simp] theorem dropTables_nextAttTag (s : State) (g : CachedEntry → Bool) : (dropTables s g).nextAttTag = s.nextAttTag := rfl
@[simp] theorem dropTables_ports (s : State) (g : CachedEntry → Bool) : (dropTables s g).ports = s.ports := rfl
@[simp] theorem dropTables_switch (s : State) (g : CachedEntry → Bool) : (dropTables s g).switch = s.switch := rfl
@[simp] theorem dropTables_groups (s : State) (g : CachedEntry → Bool) : (dropTables s g).groups = s.groups := rfl
@[simp] theorem dropTables_planBufs (s : State) (g : CachedEntry → Bool) : (dropTables s g).planBufs = s.planBufs := rfl
@[simp] theorem dropTables_groupCmds (s : State) (g : CachedEntry → Bool) : (dropTables s g).groupCmds = s.groupCmds := rfl
@[simp] theorem dropTables_claims (s : State) (g : CachedEntry → Bool) : (dropTables s g).claims = s.claims := rfl
@[simp] theorem dropTables_colls (s : State) (g : CachedEntry → Bool) : (dropTables s g).colls = s.colls := rfl
@[simp] theorem dropTables_launches (s : State) (g : CachedEntry → Bool) : (dropTables s g).launches = s.launches := rfl
@[simp] theorem dropTables_programs (s : State) (g : CachedEntry → Bool) : (dropTables s g).programs = s.programs := rfl
@[simp] theorem dropTables_hb (s : State) (g : CachedEntry → Bool) : (dropTables s g).hb = s.hb := rfl
@[simp] theorem dropTables_ls (s : State) (g : CachedEntry → Bool) : (dropTables s g).ls = s.ls := rfl
@[simp] theorem dropTables_age (s : State) (g : CachedEntry → Bool) : (dropTables s g).age = s.age := rfl
@[simp] theorem dropTables_dump (s : State) (g : CachedEntry → Bool) : (dropTables s g).dump = s.dump := rfl
@[simp] theorem dropTables_teardowns (s : State) (g : CachedEntry → Bool) : (dropTables s g).teardowns = s.teardowns := rfl
@[simp] theorem dropTables_out (s : State) (g : CachedEntry → Bool) : (dropTables s g).out = s.out := rfl
@[simp] theorem dropTables_regs (s : State) (g : CachedEntry → Bool) : (dropTables s g).regs = s.regs := rfl
@[simp] theorem dropTables_lookups (s : State) (g : CachedEntry → Bool) : (dropTables s g).lookups = s.lookups := rfl

end Sys2Proof.Machine
end

