-- ==== Sys2Proof/Tests/Slice0.lean ====
section
/-!
SUPPORT. Tests: a smoke test of the well-formedness checks, small one-step tests whose expected values come from the spec, and for
every statement with hypotheses a theorem that shows concrete states and operands that meet them.
-/
namespace Sys2Proof.Tests

open Sys2Proof Sys2Proof.Machine

set_option Elab.async false

/-! ## Small states -/

/-- Whether a command answers a next state of which `f` holds. -/
def ok (r : Host.Outcome State Fault Refusal) (f : State → Bool) : Bool := match r with
  | .next t => f t
  | _ => false

/-- A PCI Express port out of reset with its link up. -/
def hostUp : HostPort := { HostPort.blank with linkUp := true, perst := false }

/-- A module in MAINT with its data plane running, owned over PCI Express port 0. -/
def maint : State := { State.reset with
  mode := .maint
  power := { State.reset.power with gated := false, lanesOff := false }
  pins := { State.reset.pins with pgCore := true, pgSerdes := true, pgIo := true, pgMem := true }
  host := { State.reset.host with answering := true, port0 := hostUp }
  sec := { State.reset.sec with mainOk := true } }

/-- The same module in SERVICE. -/
def serv : State := { maint with mode := .service }

/-- A module in BOOT. -/
def boot : State := { State.reset with mode := .boot, sec := { State.reset.sec with mainOk := true } }

/-- A module in SERVICE whose own fabric ID is 0x100. -/
def fid : State := setReg serv (glbBase + 8) 0x10100

/-- A port that is UP on lanes 0 to 7. -/
def portUpLanes : Port := { Port.blank with
  state := .up, present := true, cable := .ready, active := 0xFF, aligned := 0xFF
  vcs := List.replicate 4 { sent := 0, limit := 0, rcvd := 0, advertised := 0, freed := 0, retrying := false } }

/-- A read of host memory over a link that is up, where nothing refuses it. -/
theorem hostRead_ok {s : State} {a n : Nat} {bs : Bytes} (h1 : hostLinkOk s = true) (h2 : memFaultAt s (hostAddr a) n = none)
    (h3 : memRead s (hostAddr a) n = bs) : hostRead s a n = .ok bs := by
  simp [hostRead, h1, h2, h3]

/-! ## The step, power and boot -/

theorem test_step_takes_the_front : step { serv with pending := [.statusWord, .clearFaults] } =
    exec .statusWord { serv with pending := [.clearFaults] } := rfl
theorem test_idle : ok (step State.reset) (fun t => decide (t = { State.reset with now := 2600 })) = true := by decide +kernel

/-- A module whose request to enter MAINT is BUSY. -/
def asked : State := { serv with host := { serv.host with request := some (1, 0) } }
theorem witness_StepTakesTheFront :
    ({ serv with pending := [Instr.clearFaults] } : State).pending = .clearFaults :: [] ∧
    (State.reset.pending = [] ∧ (∀ e ∈ State.reset.ports, e.2.swap = none) ∧ State.reset.host.request = none) ∧
    (asked.pending = [] ∧ asked.ports = [] ∧ asked.host.request = some (1, 0) ∧ asked.host.stopping = false ∧ configurable asked = true) := by
  decide +kernel

/-- A module in OFF that has one byte in each space. -/
def off : State := { memWrite (memWrite (memWrite serv (hostAddr 0) [7]) (scratchAddr 25 0) [8]) (flashAddr 5) [9] with mode := .off }
theorem witness_PowerPins : (off.mode = .off ∧ clockFailed off = false ∧ off.pins.epoLow = false ∧ off.pins.shedLow = false) ∧
    (serv.mode ≠ .off ∧ serv.mode ≠ .epoOff) ∧ asked.host.request.isSome = true := by decide +kernel
theorem test_power_up_stopped : ok (exec .pgCtlAssert { off with pins := { off.pins with epoLow := true } }) (fun t => decide (t.mode = .epoOff)) = true := by
  decide +kernel
theorem test_power_up : ok (exec .pgCtlAssert off) (fun t =>
    decide (t.mode = .reset ∧ memByte t (hostAddr 0) = 7 ∧ memByte t (scratchAddr 25 0) = 0 ∧ memByte t (flashAddr 5) = 9)) = true := by
  decide +kernel
theorem test_power_off : ok (exec .pgCtlDeassert serv) (fun t =>
    decide (t.mode = .off ∧ t.power.gated = true ∧ t.host.port0.linkUp = false)) = true := by decide +kernel
theorem test_emergency_off : ok (exec .epoAssert serv) (fun t =>
    decide (t.mode = .epoOff ∧ t.power.dpOffLow = true ∧ t.power.lanesOff = true)) = true := by decide +kernel

theorem witness_FatalAndDump :
    (serv.mode = .boot ∨ serv.mode = .maint ∨ serv.mode = .service) ∧
    (railGood serv .memory = true ∧ needsRail serv.variant .memory = true) ∧ serv.host.standbyReady = false ∧
    ({ serv with mode := .fatal } : State).mode = .fatal ∧ asked.host.request.isSome = true ∧
    (({ serv with mode := .dump, dump := { serv.dump with unwritten := true } } : State).dump.unwritten = true) := by decide +kernel
theorem test_fatal : ok (exec (.dataPlanePgLoss .memory) serv) (fun t =>
    decide (t.mode = .fatal ∧ t.dump.cause = 1 ∧ t.dump.stateBefore = .service ∧ t.power.gated = true)) = true := by decide +kernel
theorem test_thermal_trip : ok (exec .thermalTrip serv) (fun t => decide (t.mode = .fatal ∧ t.dump.cause = 3)) = true := by decide +kernel
theorem test_pll_loss : ok (exec (.rootPllLockLoss true) serv) (fun t => decide (t.mode = .fatal ∧ t.dump.cause = 2)) = true := by decide +kernel
theorem test_dump : ok (exec .dumpStart { serv with mode := .fatal }) (fun t => decide (t.mode = .dump)) = true := by decide +kernel

theorem witness_StoppedModuleStaysStopped :
    Stopped { serv with mode := .epoOff, power := { serv.power with gated := true }, pending := [.pgCtlDeassert] } ∧
    (∀ rest, ({ serv with mode := .epoOff, power := { serv.power with gated := true }, pending := [.pgCtlDeassert] } : State).pending ≠
      Instr.pgCtlAssert :: rest) ∧
    ok (step { serv with mode := .epoOff, power := { serv.power with gated := true }, pending := [.pgCtlDeassert] })
      (fun t => decide (t.mode = .off)) = true := by
  refine ⟨⟨by decide, by decide⟩, by simp, by decide +kernel⟩

/-- BOOT with a core rail missing, and with every rail good. -/
def bootDark : State := { boot with pins := { maint.pins with pgCore := false }, host := { boot.host with answering := true } }
def bootLit : State := { boot with pins := maint.pins, host := { boot.host with answering := true } }
/-- The same with a rail that was late, and FAST_SHED_N low. -/
def bootLate : State := { bootDark with
  power := { bootDark.power with noRestart := true }, pins := { bootDark.pins with shedLow := true } }
theorem witness_DataPlaneStarts :
    (bootLit.mode = .boot ∧ bootLit.sec.mainOk = true) ∧ (railsUp { bootDark with pins := setRail bootDark.pins .core true } = true) ∧
    (bootDark.mode = .boot ∧ bootDark.host.answering = true ∧ bootDark.power.noRestart = false) ∧
    (bootLate.power.noRestart = true ∧ bootLate.mode ≠ .off ∧ bootLate.pins.shedLow = true ∧
      railsUp { bootLate with pins := setRail bootLate.pins .core true } = true) ∧
    (serv.mode ≠ .boot ∧ serv.pins.shedLow = false) ∧ railsUp bootDark = false := by decide +kernel
theorem test_late_rail : ok (exec (.dataPlanePgAssert .core) bootLate) (fun t => decide (t.power.gated = true ∧ t.power.floor = true)) = true := by
  decide +kernel
theorem test_data_plane_starts : ok (exec (.dataPlanePgAssert .core) bootDark) (fun t => decide (t.power.gated = false)) = true := by
  decide +kernel
theorem test_config_answer : ok (exec .configAnswerStart bootLit) (fun t =>
    decide (t.host.answering = true ∧ t.host.standbyReady = true ∧ t.power.gated = false)) = true := by decide +kernel
theorem test_power_good_timeout : ok (exec .powerGoodBootTimeout bootDark) (fun t => decide (t.now = 1300000000 ∧ t.host.eventSeq = 1)) = true := by
  decide +kernel

/-- BOOT as training finds it, and as the end of boot finds it. -/
def bootTrain : State := { bootLit with power := { boot.power with gated := false } }
def bootEnd : State := { bootTrain with age := { boot.age with devices := List.replicate 16 48 } }
theorem witness_BootSteps :
    State.reset.mode = .reset ∧ dieState State.reset (ordMgmt 0) ≠ .failed ∧
    (boot.mode = .boot ∧ ({ boot with sec := { boot.sec with mainOk := false } } : State).sec.mainOk = false ∧ boot.sec.bootSlot < 3 ∧
      boot.sec.meas.length = 8) ∧
    (bootTrain.mode = .boot ∧ bootTrain.power.gated = false ∧ memCount bootTrain.variant ≠ 0 ∧ bootTrain.age.devices = [] ∧
      recovery bootTrain = false) ∧ bootReady bootEnd = true := by decide +kernel
theorem test_pll_lock : ok (exec (.rootPllLock 1 true true {}) State.reset) (fun t =>
    decide (t.mode = .boot ∧ t.role = 1 ∧ t.lockstep = true ∧ t.host.owner = 0)) = true := by decide +kernel
theorem test_training : ok (exec (.memoryTrainingDone (48 :: 47 :: List.replicate 14 40)) bootTrain) (fun t =>
    decide (t.age.devices = 48 :: 0 :: List.replicate 14 40)) = true := by decide +kernel
theorem test_boot_complete : ok (exec .bootComplete bootEnd) (fun t => decide (t.mode = .maint ∧ t.host.eventSeq = 1)) = true := by
  decide +kernel

/-! ## Power caps and PMBus -/

/-- A set point of 750 mV; an overrun; the floor state. -/
def vset : State := setReg serv (cpBase + 0x24) 750
def floorServ : State := { setRegField serv (cpBase + 8) 20 20 1 with power := { serv.power with floor := true, arithHalf := true } }
theorem witness_PowerSteps :
    (serv.mode ≠ .off ∧ serv.power.floor = false ∧ railsUp serv = true) ∧
    (({ floorServ with mode := .boot } : State).power.floor = true ∧ configurable { floorServ with mode := .boot } = false) ∧
    (floorServ.power.floor = true ∧ configurable floorServ = true ∧ floorServ.hb.held = []) ∧
    (100 * (100 : BitVec 12).toNat ≤ heldTo serv ∧ heldTo serv < 100 * (4000 : BitVec 12).toNat ∧ serv.power.withheld < 64 ∧
      nextCeiling serv (100 * 4000) < 100 * 4000) ∧
    (controlRuns serv = true ∧ ({ serv with power := { serv.power with capSamples := [4, 4] } } : State).power.capSamples = [] ++ [(4 : BitVec 4), 4]) ∧
    (controlRuns serv = true ∧ serv.power.gated = false ∧ 105 < celsius (signed 16 (0x6A0 : BitVec 16).toNat) ∧
      celsius (signed 16 (0x640 : BitVec 16).toNat) ≤ 100) ∧ serv.power.overrunSince = none := by decide +kernel
theorem witness_PowerSteps_vset : controlRuns vset = true ∧ regField vset (cpBase + 0x24) 9 0 ≠ 0 ∧ (clampMv (wantedMv vset)).toNat < 1024 := by
  refine ⟨by decide +kernel, by decide +kernel, ?_⟩
  have h : clampMv (wantedMv vset) ≤ 850 := by unfold clampMv; omega
  omega
theorem test_cap_code : ok (exec (.capCodeSample 4) { serv with power := { serv.power with capSamples := [3, 4, 4] } }) (fun t =>
    decide (capCode t = 4 ∧ capNow t = 2240)) = true := by decide +kernel
theorem test_thermal_cut : ok (exec (.thermalCapStep 0x6A0) serv) (fun t =>
    decide (t.power.thermalOn = true ∧ t.power.thermalCut = 175 ∧ capNow t = 2756)) = true := by decide +kernel
theorem test_fast_shed : ok (exec .fastShedAssert serv) (fun t =>
    decide (t.power.floor = true ∧ t.power.arithHalf = true ∧ regBit t (cpBase + 8) 20 = true)) = true := by decide +kernel
theorem test_fast_shed_end : ok (exec .fastShedRelease floorServ) (fun t =>
    decide (t.power.floor = false ∧ regBit t (cpBase + 8) 20 = false)) = true := by decide +kernel

/-- One temperature sample of 80 °C. -/
def warm : State := setReg serv (monOff 208) 0x80000500
theorem witness_PmbusCommands : serv.mode ≠ .off ∧ hottest warm = some 1280 ∧ hottest serv = none ∧ serv.power.floor = false ∧
    (0x01 : Byte) ∉ ([0x03, 0x79, 0x8D, 0x97, 0x98, 0xD0, 0xD1] : List Byte) := by decide +kernel
theorem test_read_temperature : ok (exec .readTemperature1 warm) (fun t => decide (t.power.pmbusAnswers = [[80, 0]])) = true := by decide +kernel
theorem test_status_word : ok (exec .statusWord { boot with power := { boot.power with cml := true } }) (fun t =>
    decide (t.power.pmbusAnswers = [[2, 8]])) = true := by decide +kernel
theorem test_power_cap : ok (exec (.mfrPowerCap (some 1000)) serv) (fun t => decide (t.power.pmbusCap = 1000 ∧ capNow t = 1000)) = true := by
  decide +kernel
theorem test_power_cap_low : ok (exec (.mfrPowerCap (some 100)) serv) (fun t => decide (capNow t = 700)) = true := by decide +kernel
theorem test_pmbus_other : ok (exec (.pmbusUnsupportedCommand 1) serv) (fun t => decide (pmbStatus t = 2)) = true := by decide +kernel

/-! ## The host interface -/

/-- An MSI-X entry, and a module whose owner's vector 5 has it masked with a message waiting. -/
def entry : MsixEntry := { addr := 0xFEE00000, data := 9, masked := true }
def msixServ : State := { serv with host := { serv.host with standbyReady := true, port0 := { hostUp with table := [(5, entry)], waiting := [5] } } }
/-- A module that its driver's takeover has moved to die 1. -/
def tookOver : State := { serv with host := { serv.host with owner := 1, ownerCause := 1, port1 := hostUp } }
theorem witness_MsixTables : Tab.get? (hostPort msixServ 0).table 5 = some entry ∧
    (2047 < 2048 ∧ msixServ.host.owner < 2 ∧ controlRuns msixServ = true ∧ msixServ.host.answering = true ∧ msixServ.host.standbyReady = true) ∧
    (serv.host.standbyReady = false ∧ serv.host.ownerCause = 0) ∧
    (tookOver.host.standbyReady = false ∧ tookOver.host.ownerCause ≠ 0 ∧ tookOver.host.owner < 2 ∧ controlRuns tookOver = true ∧
      tookOver.host.answering = true) := by decide +kernel
theorem test_unmask : ok (exec (.msixVectorUnmask 0 5) msixServ) (fun t =>
    decide (t.out = [.msix 0 5 0xFEE00000 9] ∧ (hostPort t 0).waiting = [])) = true := by decide +kernel
theorem test_standby_table : ok (exec (.standbyMsixWrite (standbyAt + 16 * 2047) (msixBytes entry)) msixServ) (fun t =>
    decide (Tab.get? (hostPort t 1).table 2047 = some entry)) = true := by decide +kernel

theorem witness_RegisterWrites :
    (configurable maint = true ∧ (cpBase + 4) % 4 = 0 ∧ cpBase + 4 < bar0Bytes ∧ (liveReg maint (cpBase + 4)).map (·.half) = some .single ∧
      (liveReg maint (cpBase + 4)).isSome = true ∧ blkOf (cpBase + 4) = some (.cp, 0, 4) ∧ maint.mode = .maint ∧
      valueOk maint .cp 4 0x000A000A = true) ∧
    (∃ r, liveReg serv (mgBase + 0x300) = some r ∧ r.maint = true ∧ serv.mode = .service ∧ blkOf (mgBase + 0x300) = some (.mg, 0, 0x300)) ∧
    (∃ r, liveReg maint (cpBase + 4) = some r ∧ blkOf (cpBase + 4) = some (.cp, 0, 4) ∧ valueOk maint .cp 4 0 = false) := by
  refine ⟨by decide +kernel, ⟨_, rfl, by decide +kernel⟩, ⟨_, rfl, by decide +kernel⟩⟩
theorem test_register_write : ok (exec (.registerWrite (cpBase + 4) (toLe 4 0xFFE7FC0B)) maint) (fun t =>
    decide (reg t (cpBase + 4) = 0x83E7000B)) = true := by decide +kernel
theorem test_register_refused : ok (exec (.registerWrite (mgBase + 0x300) (toLe 4 0x003200C9)) serv) (fun t =>
    decide (reg t (mgBase + 0x300) = 0x003200C8 ∧ t.host.eventSeq = 1)) = true := by decide +kernel

/-- A counter of port 7, and the counter pair of a port. -/
def counted : State := setReg (setReg serv (ptBase 7 + 0x604) 17) (mgBase + 0x28) 4
theorem witness_RegisterReads :
    (∃ r, liveReg counted (mgBase + 0x28) = some r ∧ r.half = .single ∧ (mgBase + 0x28) % 4 = 0 ∧ mgBase + 0x28 < bar0Bytes ∧
      controlRuns counted = true ∧ readsNow counted (mgBase + 0x28) = true) ∧
    (∃ r q, liveReg serv (mgBase + 0x210) = some r ∧ r.half = .lo ∧ liveReg serv (mgBase + 0x210 + 4) = some q ∧ q.half = .hi ∧
      readsNow serv (mgBase + 0x210) = true ∧ readsNow serv (mgBase + 0x210 + 4) = true) := by
  refine ⟨⟨_, rfl, by decide +kernel⟩, ⟨_, _, rfl, by decide, rfl, by decide +kernel⟩⟩
theorem test_read_clear : ok (exec (.counterReadClear (mgBase + 0x28) 4) counted) (fun t =>
    decide (t.out = [.regRead (mgBase + 0x28) 4] ∧ reg t (mgBase + 0x28) = 0)) = true := by decide +kernel

/-- MAINT with a harbour of sixteen devices. -/
def hbMaint : State := { maint with age := { maint.age with devices := List.replicate 16 48 }, hb := { maint.hb with unitsTotal := 64 } }
theorem witness_BarLimits : bar0Bytes ≤ bar0Bytes ∧ bar2Bytes < bar2Bytes + 1 ∧
    (4 + 4 ≤ bar2Bytes ∧ controlRuns hbMaint = true ∧ hbMaint.mode = .maint ∧ memCount hbMaint.variant ≠ 0) ∧
    ({ hbMaint with power := { hbMaint.power with floor := true } } : State).power.floor = true ∧ serv.mode ≠ .maint := by decide +kernel
theorem test_outside_bar : exec (.registerWrite bar0Bytes [0, 0, 0, 0]) serv = .fault (.outsideBar 0x10000000) := rfl
theorem test_bar2 : ok (exec (.bar2Access 254 0 (some [1, 2, 3, 4])) hbMaint) (fun t => ok (exec (.bar2Access 255 2 none) t) (fun u =>
    decide (u.out = [.bar2 [2, 3]]))) = true := by decide +kernel
theorem test_bar2_service : ok (exec (.bar2Access 0 4 none) serv) (fun t => decide (t.out = [.unsupported 0])) = true := by decide +kernel

/-- MAINT with every check of R576 passed. -/
def ready : State := setReg (setReg maint (mgBase + 0x210) 0x100001) (epBase 0 + 0xB00) 0x100001
theorem witness_MaintRequests :
    (configurable asked = true ∧ asked.host.request.isSome = true) ∧
    (let s : State := { asked with host := { asked.host with stopping := true } }
     s.host.request = some (1, 0) ∧ s.host.stopping = true ∧ s.queues = []) ∧
    (∃ r, liveReg serv (mgBase + 4) = some r ∧ r.maint = false ∧ r.half = .single) ∧
    (configurable serv = true ∧ serv.host.request = none ∧ maintRefusal serv = none) ∧ maintRefusal { serv with degraded := true } = some rrDegraded ∧
    (0 : BitVec 4) ≠ 1 ∧ (0 : BitVec 4) ≠ 2 ∧
    (reg (setReg ready (mgBase + 4) 2) (mgBase + 4) = BitVec.ofNat 32 (2 + 16 * (0 : BitVec 2).toNat) ∧
      serviceRefusal (setReg ready (mgBase + 4) 2) 0 = none) ∧
    (reg (setReg maint (mgBase + 4) 2) (mgBase + 4) = 2 ∧ serviceRefusal (setReg maint (mgBase + 4) 2) 0 = some rrNoSaveArea) ∧
    (maint.mode = .maint ∧ recovery maint = false ∧ 2 ≤ ({ maint with role := 3 } : State).role.toNat ∧ (1 : BitVec 2) ≠ maint.role) ∧
    accepted (setReg maint (glbBase + 0x20) 1) 0 = true ∧ offered (setReg maint (glbBase + 0x20) 1) 0 = false := by
  refine ⟨by decide +kernel, by decide +kernel, ⟨_, rfl, by decide +kernel⟩, ?_⟩
  decide +kernel
theorem test_busy : ok (exec (.registerWrite (mgBase + 4) [1, 1, 0, 0]) serv) (fun t =>
    decide ((mgState t).getLsbD 9 = true ∧ t.mode = .service) && ok (step t) (fun u => decide (u.mode = .maint ∧ (mgState u).getLsbD 9 = false))) = true := by
  decide +kernel
theorem test_enter_service : ok (exec (.leaveMaintRequest 0 {}) ready) (fun t =>
    decide (t.mode = .service ∧ t.host.reqStatus = 0)) = true := by decide +kernel
theorem test_service_refused : ok (exec (.leaveMaintRequest 1 {}) ready) (fun t =>
    decide (t.mode = .maint ∧ t.host.reqStatus = 1 ∧ t.host.reqReason = 4)) = true := by decide +kernel
theorem test_enter_maint : ok (exec (.enterMaintRequest 0) serv) (fun t => decide (t.mode = .maint ∧ t.host.reqStatus = 0)) = true := by
  decide +kernel
theorem test_reserved_target : ok (exec (.stateReqReservedTarget 0 0) serv) (fun t =>
    decide (t.mode = .service ∧ t.host.reqStatus = 0x0B)) = true := by decide +kernel

/-- Port 7 with a ready cable, in DOWN and in QUARANTINE; port 8 with a cable that nothing has started. -/
def cabled : State := setPort (setPort serv 7 { Port.blank with present := true, cable := .ready }) 8 { Port.blank with present := true }
def quarantined : State := setPort serv 7 { Port.blank with present := true, cable := .ready, state := .quarantine }
/-- Two UP ports, features accepted, and a halyard between them. -/
def hal : State := setReg (setReg (setPort (setPort serv 2 portUpLanes) 3 portUpLanes) (glbBase + 0x20) 0x20) (halyardOff 1 + 4) 0x0302
def halOn : State := setReg (setReg hal (halyardOff 1) 0x80100000) (halyardOff 1 + 8) 1
theorem witness_PortAndHalyardControl :
    (configurable cabled = true ∧ (portOf cabled 7).state = .down ∧ cabled.power.gated = false ∧ portEnabled cabled 7 = true ∧
      (portOf cabled 7).cable = .ready ∧ 4 ≤ laneCount (usableLanes (portOf cabled 7))) ∧
    (portOf quarantined 7).state = .quarantine ∧ (portOf serv 7).state ≠ .quarantine ∧
    portCfgOk serv 7 0x10000003 = false ∧
    (portCfgOk cabled 7 0x10000000 = true ∧ (0x10000000 : Word).getLsbD 0 = false ∧ (portOf cabled 7).state ≠ .up) ∧
    (portCfgOk cabled 7 0x10000001 = true ∧ (0x10000001 : Word).getLsbD 0 = true) ∧
    (portCfgOk cabled 8 0x10000001 = true ∧ (portOf cabled 8).state = .down ∧ (portOf cabled 8).cable = .absent ∧ (portOf cabled 8).present = true) ∧
    (recovery hal = false ∧ regBit hal (halyardOff 1) 31 = false ∧ mayAdmit (setReg hal (halyardOff 1) (0x00100000 &&& 0x47FFFFFF)) 1 = true) ∧
    (mayAdmit (setReg hal (halyardOff 1) (0 &&& 0x47FFFFFF)) 1 = false) ∧
    (mayAdmit (setReg hal (halyardOff 1) (0x04100000 &&& 0x47FFFFFF)) 1 = false) ∧
    (regBit halOn (halyardOff 1) 31 = true ∧ ∀ w ∈ halOn.switch.watches, w.1 ≠ 1) := by decide +kernel
theorem test_retrain : ok (exec (.retrain 7) cabled) (fun t => decide ((portOf t 7).state = .training ∧ (portOf t 7).cause = caRetrain)) = true := by
  decide +kernel
theorem test_release : ok (exec (.release 7) quarantined) (fun t => decide ((portOf t 7).state = .training)) = true := by decide +kernel
theorem test_port_disable : ok (exec (.portEnableWrite 7 0x10000000) cabled) (fun t =>
    decide ((portOf t 7).state = .down ∧ (portOf t 7).cause = caDisabled ∧ portEnabled t 7 = false)) = true := by decide +kernel
theorem test_halyard_enable : ok (exec (.halyardEnable 1 0x00100000) hal) (fun t =>
    decide (reg t (halyardOff 1) = 0x80100000 ∧ halyardActive t 1 = true)) = true := by decide +kernel
theorem test_halyard_refused : ok (exec (.halyardEnable 1 0) hal) (fun t => decide (reg t (halyardOff 1 + 8) = 3)) = true := by decide +kernel
theorem test_halyard_clear : ok (exec (.halyardClear 1) halOn) (fun t =>
    decide (reg t (halyardOff 1 + 8) = 0 ∧ regBit t (halyardOff 1) 31 = false)) = true := by decide +kernel

theorem witness_WritesThatStart :
    (25 < ariCount serv.variant ∧ liveReg serv (ariBase 23 + 0x414) ≠ none ∧ configurable serv = true) ∧
    (23 < ariCount bootLit.variant ∧ liveReg bootLit (ariBase 23 + 0x414) ≠ none ∧ configurable bootLit = false ∧ controlRuns bootLit = true) ∧
    (∃ r, liveReg maint (epBase 31 + 0xA00) = some r ∧ r.rw = 1 ∧ r.w1c = 0 ∧ r.half = .single ∧ maint.mode = .maint) ∧
    (Tab.get? ({ maint with host := { maint.host with loStage := [(mgBase + 0x14, 0x10001)] } } : State).host.loStage (mgBase + 0x14) =
      some (0x10000 ||| 1) ∧ regBit maint (mgBase + 0x14) 0 = false) := by
  refine ⟨by decide +kernel, by decide +kernel, ⟨_, rfl, by decide +kernel⟩, by decide +kernel⟩
theorem test_arm : ok (exec (.arm 3) serv) (fun t => decide (reg t (ariBase 3 + 0x414) = 1)) = true := by decide +kernel
theorem test_event_ring : ok (exec (.eventRingEnable 0x10008 0) (setReg maint (mgBase + 0x1C) 5)) (fun t =>
    decide (reg t (mgBase + 0x14) = 0x10009 ∧ reg t (mgBase + 0x1C) = 0)) = true := by decide +kernel

/-! ## The mailbox and firmware -/

/-- A mailbox of four slots with one request, which is malformed; and one with a request that nobody here understands. -/
def mbox : State := setReg (setReg (setReg serv (secBase + 4) 0x80000002) (secBase + 8) 0x10000) (secBase + 0x10) 1
def mboxOne : State := memWrite mbox (hostAddr 0x10000) ([0, 0, 0, 0, 0, 0, 0, 0, 0, 0] ++ toLe 2 16 ++ zeros 4)
/-- The same mailbox where the host refuses the slot's memory. -/
def mboxBad : State := { mbox with memFaults := [{ base := hostAddr 0x10000, len := 64, kind := .unmapped }] }
theorem witness_MailboxRing :
    (configurable mbox = true ∧ ((4 : BitVec 16).toNat + 65536 - regField mbox (secBase + 0x14) 15 0) % 65536 ≤ mboxSize mbox ∧
      mboxSize mbox < ((5 : BitVec 16).toNat + 65536 - regField mbox (secBase + 0x14) 15 0) % 65536) ∧
    (regBit mbox (secBase + 4) 31 = true ∧ mbox.sec.forwards = [] ∧ regField mbox (secBase + 0x10) 15 0 ≠ regField mbox (secBase + 0x14) 15 0 ∧
      hostRead mbox (pairBase mbox (secBase + 8) (secBase + 0xC) 12 + 0 * 4096) 2048 = .ok (zeros 2048) ∧ fieldAt (zeros 2048) 10 2 < 16) ∧
    (hostRead mboxOne (pairBase mboxOne (secBase + 8) (secBase + 0xC) 12 + 0 * 4096) 2048 = .ok (zeros 10 ++ [16] ++ zeros 2037) ∧
      byteAt (zeros 10 ++ [16] ++ zeros 2037) 2 = 0 ∧ allZero (slice (zeros 10 ++ [16] ++ zeros 2037) 3 5) = true ∧
      fieldAt (zeros 10 ++ [16] ++ zeros 2037) 10 2 = 16) ∧
    (hostRead (setHostPort mbox 0 HostPort.blank) (pairBase mbox (secBase + 8) (secBase + 0xC) 12) 2048 = .error .abort ∧
      hostLinkOk mboxBad = true ∧ hostRead mboxBad (pairBase mbox (secBase + 8) (secBase + 0xC) 12) 2048 = .error .abort) := by
  refine ⟨by decide +kernel, ⟨by decide +kernel, rfl, by decide +kernel, hostRead_ok (by decide +kernel) (by decide +kernel) (by decide +kernel), by decide +kernel⟩,
    ⟨hostRead_ok (by decide +kernel) (by decide +kernel) (by decide +kernel), by decide +kernel, by decide +kernel, by decide +kernel⟩, rfl, by decide +kernel, by rw [hostRead, if_neg (by decide +kernel)]⟩
theorem test_mailbox_tail : ok (exec (.mboxTailWrite 5 {}) mbox) (fun t =>
    decide (reg t (secBase + 0x10) = 1 ∧ reg t (secBase + 0x34) = 1)) = true := by decide +kernel
theorem test_mailbox_malformed : ok (exec .mailboxRequest mbox) (fun t =>
    decide (reg t (secBase + 0x14) = 1 ∧ memByte t (hostAddr 0x10800) = 0x0B)) = true := by decide +kernel

/-- Updates: too large, unreadable, of zeros, and checked; an image that programs. -/
def fw : State := setReg serv (secBase + 0x2C) 16
def fwBusy : State := { serv with sec := { serv.sec with fwResult := fwBusyCode, fwTarget := 1, fwImage := [1, 2, 3] } }
theorem witness_FirmwareUpdate :
    (configurable fw = true ∧ fw.sec.fwResult ≠ fwBusyCode ∧ slotBytes < regField (setReg serv (secBase + 0x2C) 0x2000001) (secBase + 0x2C) 25 0) ∧
    (regField fw (secBase + 0x2C) 25 0 ≤ slotBytes ∧ hostRead fw (pairBase fw (secBase + 0x24) (secBase + 0x28) 12) 16 = .ok (zeros 16) ∧
      imageFail fw ((zeros 16).take mainOffset) 1 (min 16 mainOffset) = some .header) ∧
    hostRead (setHostPort fw 0 HostPort.blank) (pairBase fw (secBase + 0x24) (secBase + 0x28) 12) 16 = .error .abort ∧
    (configurable fwBusy = true ∧ fwBusy.sec.fwResult = fwBusyCode) := by
  refine ⟨by decide +kernel, ⟨by decide +kernel, hostRead_ok (by decide +kernel) (by decide +kernel) (by decide +kernel), by decide +kernel⟩, rfl, by decide +kernel⟩
theorem test_update_header : ok (exec (.start {}) fw) (fun t => decide (t.sec.fwResult = 3)) = true := by decide +kernel
theorem test_update_programs : ok (exec (.firmwareProgramDone true) fwBusy) (fun t =>
    decide (t.sec.fwResult = 2 ∧ memByte t (flashAddr 0x03000002) = 3)) = true := by decide +kernel

/-- A flash without a valid boot control record. -/
def fwOk : State := { serv with sec := { serv.sec with fwResult := fwOkCode, fwTarget := 1, svn := 3 } }
theorem witness_BootRecordGoverns : configurable fwOk = true ∧ (governing fwOk).generation + 1 < 2 ^ 64 ∧ fwOk.sec.fwResult = fwOkCode ∧
    fwOk.sec.fwTarget < 2 ∧ fwOk.sec.confirmed = false ∧ fwOk.sec.bootSlot < 2 := by decide +kernel
theorem test_next : ok (exec .next fwOk) (fun t =>
    decide ((governing t).active = 1 ∧ (governing t).confirmed = 0 ∧ (governing t).tries = 3 ∧ (governing t).generation = 1)) = true := by
  decide +kernel
theorem test_confirm : ok (exec .confirm fwOk) (fun t =>
    decide ((governing t).active = 0 ∧ (governing t).confirmed = 1 ∧ t.sec.fusesBlown = 3)) = true := by decide +kernel

/-- Inputs of the planner: slack and SRAM margins. -/
def slackOf (x y : Int) : State := { serv with age := { serv.age with lowest := [(408, x), (808, y)] } }
theorem witness_PlannerRuns :
    configurable serv = true ∧ recovery serv = false ∧
    (swapRuns { serv with age := { serv.age with swap := some (.plane, 0, 16) } } = true) ∧
    (swapRuns (slackOf 19 40) = false ∧ (slackOf 19 40).age.swapQueue = [] ∧ guardMv (slackOf 19 40) ≠ 25) ∧
    (∀ e ∈ (slackOf 20 40).age.lowest, 0 ≤ marginOf (monKind (keyMon e.1).1) e.2) ∧
    lowestOf (slackOf 19 40) (fun n => decide (monKind n = 3)) = some 19 ∧ guardMv serv < 25 ∧
    lowestOf (slackOf 40 40) (fun n => decide (monKind n = 3)) = some 40 ∧ lowestOf (slackOf 40 40) (fun n => decide (monKind n = 4)) = some 40 ∧
    -25 < guardMv serv ∧ lowestOf (slackOf 20 40) (fun n => decide (monKind n = 3)) = some 20 ∧
    regBit (setReg serv (mgBase + 0x604) 2) (mgBase + 0x604) 1 = true ∧ regBit serv (mgBase + 0x604) 1 = false := by decide +kernel
/-- The worn slack of that witness is one that G can still mend: the set point does not stand at the clamp. -/
theorem witness_PlannerRuns_slack : ∀ e ∈ (slackOf 19 40).age.lowest, 0 ≤ marginOf (monKind (keyMon e.1).1) e.2 ∨
    (monKind (keyMon e.1).1 = 3 ∧ guardMv (slackOf 19 40) ≠ 25 ∧ heldAtClamp (slackOf 19 40) = false) := by
  have h : heldAtClamp (slackOf 19 40) = false := by
    have h0 : regField (slackOf 19 40) (cpBase + 0x24) 9 0 = 0 := by decide +kernel
    have h1 : (0 : Int) ≠ clampMv (wantedMv (slackOf 19 40)) := by unfold clampMv; omega
    simp [heldAtClamp, h0, h1]
  rw [h]; decide +kernel
theorem test_guard_down : ok (exec .plannerPeriod (slackOf 40 40)) (fun t => decide (guardMv t = -5)) = true := by decide +kernel

/-- A module whose standby is ready. -/
def withStandby : State := { serv with host := { serv.host with standbyReady := true } }
theorem witness_HostPorts :
    ((hostPort serv 0).perst = false ∧ serv.host.owner = 0 ∧ controlRuns serv = true) ∧
    ((hostPort (exec (.perstNDeassert 1) serv |> fun r => match r with
      | .next t => t
      | _ => serv) 1).perst = false ∧ serv.host.owner ≠ 1) ∧ (hostPort serv 0).linkUp = true ∧
    (dieState serv (ordMgmt 0) = .active ∧ dieState serv (ordMgmt 1) = .standby) ∧ serv.host.owner ≠ 1 ∧
    (withStandby.host.owner < 2 ∧ withStandby.host.standbyReady = true ∧ configurable withStandby = true ∧ controlRuns withStandby = true ∧
      recovery withStandby = false ∧ (hostPort withStandby 1).linkUp = false ∧ activeHalyards withStandby = []) ∧
    (hostLinkOk serv = true ∧ hostAddr 0x100 < 0x120 + 8 ∧ 0x120 < hostAddr 0x100 + 64 ∧ memFaultAt serv 0x120 8 = none) ∧
    serv.host.standbyReady = false := by decide +kernel
theorem test_perst : ok (exec (.perstNAssert 0) serv) (fun t => decide ((hostPort t 0).linkUp = false ∧ (hostPort t 0).perst = true)) = true := by
  decide +kernel
theorem test_link_up : ok (exec (.hostLinkUp 1) (setHostPort serv 1 { HostPort.blank with perst := false })) (fun t =>
    decide ((hostPort t 1).linkUp = true)) = true := by decide +kernel
theorem test_host_read_timeout : ok (exec (.hostReadTimeout 0x100 64) serv) (fun t => decide ((hostPort (noteHostRead t 0x120 8) 0).aerCount = 1 ∧
    memFaultAt (noteHostRead t 0x120 8) 0x120 8 = none)) = true := by decide +kernel
theorem test_takeover : ok (exec .takeover withStandby) (fun t =>
    decide (t.host.owner = 1 ∧ t.host.standbyReady = false ∧ (hostPort t 0).linkUp = false)) = true := by decide +kernel
theorem test_heartbeat : ok (exec .heartbeatLoss withStandby) (fun t => decide (t.host.owner = 1)) = true := by decide +kernel
theorem test_standby_request : ok (exec (.nonOwnerMemoryRequest 1) serv) (fun t => decide (t.out = [.unsupported 1])) = true := by decide +kernel

/-! ## Images that the fused key signs

Config.signerHash has no body, so no image can be shown to verify; these witnesses start from one that does. -/

theorem memRead_written (s : State) (bs : Bytes) : ∀ (n a k : Nat), k + n ≤ bs.length → memRead (memWrite s a bs) (a + k) n = (bs.drop k).take n
  | 0, _, _, _ => by simp [memRead]
  | n + 1, a, k, h => by
    have hk : k < bs.length := by omega
    have ih := memRead_written s bs n a (k + 1) (by omega)
    rw [show a + (k + 1) = a + k + 1 by omega] at ih
    rw [memRead, ih, memByte_memWrite, List.drop_eq_getElem_cons hk, List.take_succ_cons]
    simp [hk]

/-- Every image that passes for a first stage and a main image is read whole by START. -/
theorem witness_FirmwareUpdate_signed (image : Bytes) (hn : image.length ≤ slotBytes)
    (h1 : imageFail serv (image.take mainOffset) 1 (min image.length mainOffset) = none)
    (h2 : imageFail serv (image.drop mainOffset) 2 (image.length - mainOffset) = none) :
    ∃ s, configurable s = true ∧ s.sec.fwResult ≠ fwBusyCode ∧ regField s (secBase + 0x2C) 25 0 = image.length ∧
      hostRead s (pairBase s (secBase + 0x24) (secBase + 0x28) 12) image.length = .ok image ∧
      imageFail s (image.take mainOffset) 1 (min image.length mainOffset) = none ∧
      imageFail s (image.drop mainOffset) 2 (image.length - mainOffset) = none := by
  have hb : slotBytes < 2 ^ 26 := by decide
  have hf : ∀ o, o ≠ secBase + 0x2C → reg (memWrite (setReg serv (secBase + 0x2C) (BitVec.ofNat 32 image.length)) 0 image) o = reg serv o :=
    fun o ho => reg_setReg_other serv _ _ _ ho
  refine ⟨memWrite (setReg serv (secBase + 0x2C) (BitVec.ofNat 32 image.length)) 0 image, rfl, (show serv.sec.fwResult ≠ fwBusyCode by decide), ?_, ?_, h1, h2⟩
  · have : reg (memWrite (setReg serv (secBase + 0x2C) (BitVec.ofNat 32 image.length)) 0 image) (secBase + 0x2C) =
      BitVec.ofNat 32 image.length := reg_setReg_same serv _ _
    simp only [regField, this, bits, BitVec.toNat_ofNat]
    omega
  · have hp : pairBase (memWrite (setReg serv (secBase + 0x2C) (BitVec.ofNat 32 image.length)) 0 image) (secBase + 0x24) (secBase + 0x28) 12 = 0 := by
      simp only [pairBase, hf (secBase + 0x24) (by decide), hf (secBase + 0x28) (by decide)]; decide +kernel
    rw [hp]
    refine hostRead_ok rfl rfl ?_
    have := memRead_written (setReg serv (secBase + 0x2C) (BitVec.ofNat 32 image.length)) image image.length 0 0 (by omega)
    simpa [hostAddr] using this

/-- A module in BOOT whose main image is yet to be checked. -/
def bootUnchecked : State := { boot with sec := { boot.sec with mainOk := false } }

/-- Every main image that passes is one in the flash of a module in BOOT. -/
theorem witness_BootSteps_signed (image : Bytes) (hn : image.length = 512 + fieldAt (image.take 512) 8 4) (hm : fieldAt (image.take 512) 8 4 ≤ slotBytes)
    (h : imageFail boot image 2 (slotBytes - mainOffset) = none) :
    ∃ s, s.mode = .boot ∧ s.sec.mainOk = false ∧ s.sec.bootSlot < 3 ∧ mainImageOk s s.sec.bootSlot = true ∧ s.sec.meas.length = 8 := by
  refine ⟨memWrite bootUnchecked (flashAddr (slotAt 0 + mainOffset)) image, rfl, rfl, (show bootUnchecked.sec.bootSlot < 3 by decide), ?_, rfl⟩
  have r : ∀ n, n ≤ image.length → slotRead (memWrite bootUnchecked (flashAddr (slotAt 0 + mainOffset)) image)
      0 mainOffset n = image.take n := fun n hn => by
    have := memRead_written bootUnchecked image n (flashAddr (slotAt 0 + mainOffset)) 0 (by omega)
    simpa [slotRead] using this
  have hi : slotImage (memWrite bootUnchecked (flashAddr (slotAt 0 + mainOffset)) image) 0 mainOffset = image := by
    rw [slotImage, r 512 (by omega), Nat.min_eq_left hm, ← hn, r _ (Nat.le_refl _), List.take_length]
  show mainImageOk _ 0 = true
  rw [mainImageOk, hi]
  have : imageFail (memWrite bootUnchecked (flashAddr (slotAt 0 + mainOffset)) image) image (firstKind 0 + 1)
    (slotBytes - mainOffset) = none := h
  rw [this]; rfl

/-! ## Queues -/

/-- Context 5 at block 0 with two counters and two channels, and its host queue 512 with rings of 16 entries. -/
def ctx5 : Context := { blocks := 1, mirrorRoot := 0, rankTbl := 0, rankCount := 4, counters := 2, channels := 2, weight := 1, enc := false,
                        hostTables := true, convert := false, slot := 0, teardown := false, quota := 0 }
def at5 : CtxAtBlock := { counters := [7, 8], channels := [9, 10], resident := true, admittedAt := 0, admitNo := 0, recGen := 0 }
def entry512 : QueueEntry := { vector := 0, notify := false, ctx := 5, cls := 0, headWb := 0x5000, cplLog2 := 4, cplBase := 0x4000, initEn := true,
                               hostSpace := true, ringLog2 := 4, ringBase := 0x3000 }
def q512 : Queue := enabledQueue entry512
def qserv : State := { serv with ctxs := [(5, ctx5)], ctxBlocks := [((0, 5), at5)], queues := [((0, 512), q512)] }
/-- The same module with another record of its queue. -/
def withQ (x : Queue) : State := { qserv with queues := [((0, 512), x)] }
/-- A submission doorbell of queue 512, and a consumer doorbell. -/
def db (kind i : Nat) : DWord := BitVec.ofNat 64 (i + 512 * 2 ^ 17 + kind * 2 ^ 27)
/-- The same queue of an accelerator, number 3, and block 0's attach port UP. -/
def qattach : State := setReg (setPort { qserv with queues := [((0, 3), { q512 with takingDoorbells := true })] } 1 portUpLanes) (ptBase 1) 0x10000003
def dbAttach (kind i : Nat) : DWord := BitVec.ofNat 64 (i + 3 * 2 ^ 17 + kind * 2 ^ 27)

theorem witness_Doorbells :
    (RingsAt qserv (.page 0) 0 512 ∧ queueOf qserv 0 512 = some q512 ∧ q512.takingDoorbells = true ∧ inTeardown qserv q512.entry.ctx = false) ∧
    (dbClean (db 0 16) = true ∧ dbQueue (db 0 16) = 512 ∧ dbIndex (db 0 16) = 16 ∧ dbKind (db 0 16) = 0 ∧ 16 < 2 * ringLen q512 ∧
      modSub 16 q512.tail (2 * ringLen q512) ≤ ringLen q512 - modSub q512.tail q512.head (2 * ringLen q512)) ∧
    (dbKind (db 1 3) = 1 ∧ dbClean (db 1 3) = true ∧ queueOf (withQ { q512 with written := 3 }) 0 512 = some { q512 with written := 3 } ∧
      modSub 3 0 (2 * cplLen q512) ≤ modSub 3 0 (2 * cplLen q512)) ∧
    (16 ≠ q512.tail ∧ 3 ≠ q512.consumed ∧ dbIndex (db 0 0) = q512.tail ∧ dbIndex (db 1 0) = q512.consumed ∧ qserv.host.answering = true) ∧
    (17 ≠ q512.tail ∧ ringLen q512 - modSub q512.tail q512.head (2 * ringLen q512) < modSub 17 q512.tail (2 * ringLen q512)) ∧
    2 * ringLen q512 ≤ 32 ∧
    (RingsAt qattach (.attach 1) 0 3 ∧ queueOf qattach 0 3 = some q512 ∧ dbClean (dbAttach 0 17) = true ∧ dbQueue (dbAttach 0 17) = 3) ∧
    (isResident { qserv with ctxBlocks := [((0, 5), { at5 with resident := false })] } 0 5 = false ∧
      definedAt { qserv with ctxBlocks := [((0, 5), { at5 with resident := false })] } 5 0 = true) ∧
    (configurable qserv = true ∧ controlRuns { qserv with mode := .fatal } = true ∧ 7 / 8 < blockCount qserv.variant ∧ (4 ≠ 0 ∨ [0].length ≠ 8)) := by
  unfold RingsAt; decide +kernel
theorem test_doorbell : ok (exec (.submissionDoorbell (.page 0) (db 0 16) {}) qserv) (fun t =>
    decide (queueOf t 0 512 = some { q512 with tail := 16, hoistEnds := [16], bells := [0] })) = true := by decide +kernel
theorem test_doorbell_bad : ok (exec (.submissionDoorbell (.page 0) (db 0 17) {}) qserv) (fun t =>
    decide (queueOf t 0 512 = some q512 ∧ reg t (epBase 0 + 0xB10) = 1)) = true := by decide +kernel
theorem test_consumer : ok (exec (.consumerDoorbell (.page 0) (db 1 3)) (withQ { q512 with written := 3 })) (fun t =>
    decide ((queueOf t 0 512).map (·.consumed) = some 3)) = true := by decide +kernel
theorem test_doorbell_page : ok (exec (.hostDoorbellPageWrite 7 4 [0, 0, 0, 0]) qserv) (fun t => decide (reg t (epBase 0 + 0xB10) = 1)) = true := by
  decide +kernel

/-- A pennant that waits in a reserved entry, and one that has none. -/
def pen : Pennant := { result := 5, userTag := 6, abandoned := false, status := 0, slot := 2, fetchNo := 0, aux := [], held := true, onlyIfFree := false }
theorem witness_QueueRings :
    (qserv.mode = .service ∧ queueOf qserv 0 512 = some q512 ∧ q512.hoistEnds = []) ∧
    (queueOf (withQ { q512 with tail := 1, hoistEnds := [1] }) 0 512 = some { q512 with tail := 1, hoistEnds := [1] } ∧
      q512.entry.hostSpace = true) ∧
    readDescs (withQ { q512 with tail := 1, hoistEnds := [1] }) 0 { q512 with tail := 1, hoistEnds := [1] } 1 0 = .ok [(0, zeros 64)] ∧
    (queueOf (withQ { q512 with pennants := [pen], reserved := 1 }) 0 512 = some { q512 with pennants := [pen], reserved := 1 } ∧ pen.held = true) ∧
    (freeEntries { q512 with written := 16, pennants := [{ pen with held := false }] } = 0 ∧
      freeEntries { q512 with written := 15, reserved := 1, pennants := [{ pen with held := false }, pen] } = 0 ∧
      giveEntry [pen] = some [{ pen with held := false }] ∧ q512.entry.hostSpace = true) := by
  refine ⟨by decide +kernel, by decide +kernel, rfl, by decide +kernel, by decide +kernel⟩
theorem test_pennant_overtakes : ok (exec (.pennantWrite 0 512)
    (withQ { q512 with written := 15, reserved := 1, pennants := [{ pen with held := false, userTag := 9 }, pen] })) (fun t =>
      decide (memRead t (hostAddr 0x41E8) 1 = [9] ∧ (queueOf t 0 512).map (fun x => (x.reserved, x.pennants.length)) = some (0, 1))) = true := by
  decide +kernel
theorem test_fetch : ok (exec (.descriptorFetch 0 512) (withQ { q512 with head := 31, tail := 0, hoistEnds := [0] })) (fun t =>
    decide ((queueOf t 0 512).map (fun y => (y.head, y.fetched.map (·.index))) = some (0, [31]))) = true := by decide +kernel
theorem test_pennant : ok (exec (.pennantWrite 0 512) (withQ { q512 with pennants := [pen], reserved := 1 })) (fun t =>
    decide (memRead t (hostAddr 0x4000) 18 = [5, 0, 0, 0, 0, 0, 0, 0, 6, 0, 0, 0, 0, 2, 8, 0, 2, 0])) = true := by decide +kernel

/-- Context 5 parked, and next to be admitted. -/
def parked : State := { qserv with ctxBlocks := [((0, 5), { at5 with resident := false })], admitNext := [(0, [5])] }
/-- A descriptor with an opcode, and flags in bits 31 to 8 of its first word. -/
def desc (op flags : Nat) : Bytes := fit 64 (toLe 4 (op + 256 * flags))
/-- A command that waits for counter 1 to reach 8 (flags WAIT_EN). -/
def held : Cmd := { newCmd qserv 0 512 q512 { index := 0, hoist := 0, fetchNo := 0, bytes := fit 64 (toLe 4 0x1080E7 ++ toLe 4 1 ++ toLe 8 8) } with
  desc := fit 64 (toLe 4 0x1080E7 ++ toLe 4 1 ++ toLe 8 8) }
def withHeld (v : DWord) : State := { qserv with cmds := [held], fresh := 1, ctxBlocks := [((0, 5), { at5 with counters := [7, v] })] }
/-- A started copy with two tiles left. -/
def copying : Cmd := { held with desc := desc 0x20 0x1000, phase := .started, tilesLeft := 2 }
/-- Context 6 beside context 5, whose channels leave it no room. -/
def crowded : State := { qserv with ctxs := [(5, { ctx5 with channels := 63 }), (6, ctx5)] }
theorem witness_ContextResidency :
    (qserv.mode = .service ∧ blockRuns qserv 0 = true ∧ Tab.getD qserv.admitNext 0 [] = []) ∧
    (Tab.getD parked.admitNext 0 [] = [5] ∧ fits parked 0 5 = true ∧ atBlock parked 5 0 = some { at5 with resident := false } ∧
      recordOpens parked 0 5 { at5 with resident := false } = true) ∧
    (let s := { crowded with admitNext := [(0, [6])] }
     Tab.getD s.admitNext 0 [] = [6] ∧ fits s 0 6 = false ∧ ∀ e ∈ residents s 0, e.2.parking = false ∧ s.now ≤ e.2.admittedAt + quantum s 0 e.1) ∧
    (atBlock qserv 5 0 = some at5 ∧ at5.resident = true) ∧
    ((cmdsOf (withHeld 7) 0 512).find? (fun c => decide (c.phase = .accepted) && (descHdr c.desc).waitEn && !c.waitDone) = some held ∧
      waitMet (withHeld 7) held = false ∧ waitMet (withHeld 8) held = true ∧
      mayStart (setCmd (withHeld 8) { held with waitDone := true }) { held with waitDone := true } = true ∧
      mayStart (setCmd { withHeld 8 with quietUntil := [(0, 5)] } { held with waitDone := true }) { held with waitDone := true } = false) ∧
    (let s := { qserv with cmds := [copying] }
     (cmdsOf s 0 512).find? (fun c => betweenTiles c && mayRun s 0 c.ctx && admitsTile s c) = some copying ∧ blockRuns s 0 = true ∧ isQuiet s 0 = false) ∧
    (let s := { parked with cmds := [copying] }
     betweenTiles copying = true ∧ ∀ x ∈ cmdsOf s 0 512, betweenTiles x = true → mayRun s 0 x.ctx = false ∨ admitsTile s x = false) := by decide +kernel
theorem test_admit : ok (exec (.contextAdmit 0) parked) (fun t =>
    decide ((atBlock t 5 0).map (·.resident) = some true ∧ reg t (epBase 0 + 0xB18) = 1)) = true := by decide +kernel
theorem test_quantum : ok (exec (.contextQuantumExpiry 0 5) qserv) (fun t => decide (t.now = 2600 * (reg qserv (epBase 0 + 0xB08)).toNat + 1)) = true := by
  decide +kernel
theorem test_counter_wait : ok (exec (.counterWaitSatisfied 0 512) (withHeld 8)) (fun t =>
    decide (t.cmds = [] ∧ (queueOf t 0 512).map (fun y => y.pennants.map (·.status)) = some [0])) = true := by decide +kernel

/-! ## Queue commands -/

/-- A queue whose next descriptor is `bs`, tail and head moved past it. -/
def fetchedOf (bs : Bytes) : Fetched := { index := 0, hoist := 0, fetchNo := 0, bytes := bs }
def qWith (bs : Bytes) : Queue := { q512 with head := 1, tail := 1, hoistNo := 1, fetchCount := 1, fetched := [fetchedOf bs] }
def sWith (bs : Bytes) : State := withQ (qWith bs)
/-- A descriptor with its header's PENNANT flag and more bytes from byte 24 on. -/
def descOf (op : Nat) (body : Bytes) : Bytes := fit 64 (toLe 4 (op + 0x100000) ++ zeros 20 ++ body)
/-- The same state with context 5 in teardown. -/
def goneOf (bs : Bytes) : State := { sWith bs with ctxs := [(5, { ctx5 with teardown := true })] }

theorem witness_DescriptorAcceptance :
    (NextIs (sWith (descOf 0xE7 [])) 0 512 (qWith (descOf 0xE7 [])) (fetchedOf (descOf 0xE7 [])) [] ∧
      (fun d => isOp 0xE7 d || !knownOpcode (descHdr d).opcode) (fetchedOf (descOf 0xE7 [])).bytes = true ∧
      isExt (descOf 0xE7 []) = false ∧ isExt (descOf 0x62 []) = true ∧ (qWith (descOf 0x62 [])).extAt ≠ some 0 ∧
      inTeardown (sWith (descOf 0xE7 [])) 5 = false ∧ headerOk (sWith (descOf 0xE7 [])) 5 (descOf 0xE7 []) = true ∧
      knownOpcode (descHdr (descOf 0xE7 [])).opcode = true) ∧
    inTeardown (goneOf (descOf 0xE7 [])) 5 = true ∧ knownOpcode (descHdr (descOf 0xFF [])).opcode = false ∧
    headerOk (sWith (descOf 0xE7 [])) 5 (desc 0xE7 0x200) = false ∧
    (checkNop (accepting (sWith (descOf 0xE7 [])) 0 512 (qWith (descOf 0xE7 [])) (fetchedOf (descOf 0xE7 [])) [])
      (newCmd (sWith (descOf 0xE7 [])) 0 512 (qWith (descOf 0xE7 [])) (fetchedOf (descOf 0xE7 [])))).2 = .go 0 ∧
    (checkNop (accepting (sWith (descOf 0xE7 [1])) 0 512 (qWith (descOf 0xE7 [1])) (fetchedOf (descOf 0xE7 [1])) [])
      (newCmd (sWith (descOf 0xE7 [1])) 0 512 (qWith (descOf 0xE7 [1])) (fetchedOf (descOf 0xE7 [1])))).2 = .reject stProtocol 0 ∧
    (NextIs (sWith (descOf 0x60 [])) 0 512 (qWith (descOf 0x60 [])) (fetchedOf (descOf 0x60 [])) [] ∧ isOp 0x60 (descOf 0x60 []) = true ∧
      inTeardown (sWith (descOf 0x60 [])) 5 = false ∧ headerOk (sWith (descOf 0x60 [])) 5 (descOf 0x60 []) = true ∧
      takesExt (descOf 0x60 []) = false ∧ takesExt (descOf 0x60 [0, 0x80]) = true) ∧
    (let x := { qWith (descOf 0x62 []) with extAt := some 0 }
     NextIs (withQ x) 0 512 x (fetchedOf (descOf 0x62 [])) [] ∧ isOp 0x62 (descOf 0x62 []) = true ∧ x.extAt = some (fetchedOf (descOf 0x62 [])).index)
    := by
  unfold NextIs accepting; decide +kernel

theorem witness_SimpleCommandsComplete :
    (Plain (sWith (descOf 0xE7 [])) 0 512 (qWith (descOf 0xE7 [])) (fetchedOf (descOf 0xE7 [])) [] at5 ∧
      isOp 0xE7 (descOf 0xE7 []) = true ∧ reservedZero (descOf 0xE7 []) 24 64 = true) ∧
    (Plain (sWith (descOf 0xE5 ([1, 0] ++ zeros 6 ++ [3]))) 0 512 (qWith (descOf 0xE5 ([1, 0] ++ zeros 6 ++ [3])))
        (fetchedOf (descOf 0xE5 ([1, 0] ++ zeros 6 ++ [3]))) [] at5 ∧
      ctrOk (sWith (descOf 0xE5 ([1, 0] ++ zeros 6 ++ [3])))
        (newCmd (sWith (descOf 0xE5 ([1, 0] ++ zeros 6 ++ [3]))) 0 512 (qWith (descOf 0xE5 ([1, 0] ++ zeros 6 ++ [3])))
          (fetchedOf (descOf 0xE5 ([1, 0] ++ zeros 6 ++ [3])))) = true) ∧
    ((checkCheck (accepting (sWith (descOf 0x31 [1, 1])) 0 512 (qWith (descOf 0x31 [1, 1])) (fetchedOf (descOf 0x31 [1, 1])) [])
      (newCmd (sWith (descOf 0x31 [1, 1])) 0 512 (qWith (descOf 0x31 [1, 1])) (fetchedOf (descOf 0x31 [1, 1])))).2 = .go 0 ∧
      ckOp (descOf 0x31 [1, 1]) = 1) := by
  unfold Plain NextIs accepting; (repeat' apply And.intro) <;> decide +kernel

/-- What a queue command left: its pennants as (status, RESULT), and what context 5 has at block 0. -/
def left (t : State) : List (Byte × DWord) × Option (List DWord × List DWord) :=
  (((queueOf t 0 512).map (fun y => y.pennants.map (fun p => (p.status, p.result)))).getD [], (atBlock t 5 0).map (fun y => (y.counters, y.channels)))
theorem test_nop : ok (exec (.nop 0 512) (sWith (descOf 0xE7 []))) (fun t => decide (left t = ([(0, 0)], some ([7, 8], [9, 10])))) = true := by
  decide +kernel
theorem test_nop_unknown : ok (exec (.nop 0 512) (sWith (descOf 0xFF []))) (fun t => decide ((left t).1 = [(0x0B, 0)])) = true := by decide +kernel
theorem test_fence : ok (exec (.fence 0 512) (sWith (descOf 0x30 []))) (fun t => decide ((left t).1 = [(0, 0)] ∧ t.cmds = [])) = true := by
  decide +kernel
theorem test_ctr_write : ok (exec (.ctrWrite 0 512) (sWith (descOf 0xE4 ([1, 0] ++ zeros 6 ++ [3])))) (fun t =>
    decide (left t = ([(0, 0)], some ([7, 3], [9, 10])))) = true := by decide +kernel
theorem test_ctr_add_wraps : ok (exec (.ctrAdd 0 512) (sWith (descOf 0xE5 ([1, 0] ++ zeros 6 ++ List.replicate 8 0xFF)))) (fun t =>
    decide (left t = ([(0, 0)], some ([7, 7], [9, 10])))) = true := by decide +kernel
theorem test_ctr_read : ok (exec (.ctrRead 0 512) (sWith (descOf 0xE6 [1, 0]))) (fun t => decide ((left t).1 = [(0, 8)])) = true := by
  decide +kernel
theorem test_ctr_beyond_grant : ok (exec (.ctrRead 0 512) (sWith (descOf 0xE6 [2, 0]))) (fun t => decide ((left t).1 = [(0x0B, 0)])) = true := by
  decide +kernel
theorem test_check_read : ok (exec (.checkRead 0 512) (sWith (descOf 0x31 [1, 1]))) (fun t => decide ((left t).1 = [(0, 10)])) = true := by
  decide +kernel
theorem test_check_load : ok (exec (.checkLoad 0 512) (sWith (descOf 0x31 ([2, 0] ++ zeros 22 ++ [5])))) (fun t =>
    decide (left t = ([(0, 0)], some ([7, 8], [5, 10])))) = true := by decide +kernel
theorem test_torn_down : ok (exec (.nop 0 512) (goneOf (descOf 0xE7 []))) (fun t =>
    decide (((queueOf t 0 512).map (fun y => y.pennants.map (fun p => (p.status, p.abandoned)))) = some [(6, true)])) = true := by decide +kernel

/-- Context 5 with its rank 1 at fabric ID 0x200, block 0 at 0x100. -/
def ranked (bs : Bytes) : State := setReg (memWrite (sWith bs) (hostAddr 4) [0x00, 0x02, 0x01, 0x00]) (epBase 0 + 0x900) 0x10100
/-- WRITE of 3 bytes from the descriptor to rank 1, region 0x11, offset 0x22; FETCH_ADD of 4 bytes to the same place at 0x20. -/
def writeDesc : Bytes := descOf 0x01 ([1, 0, 0x11, 0, 0, 0, 0x22, 0, 0, 0, 0, 0, 3, 0x80, 0, 0, 0xA, 0xB, 0xC])
def atomicDesc : Bytes := descOf 0x10 ([1, 0, 0x11, 0, 0, 0, 0x20, 0, 0, 0, 0, 0, 1, 0, 0, 0, 5])
def readDesc : Bytes := descOf 0x02 ([1, 0, 0x11, 0, 0, 0, 0x22, 0, 0, 0, 0, 0, 8, 0x80])
/-- What went out: type, opcode, destination, region, offset and length of each packet, and its payload. -/
def sentOf (t : State) : List (List Nat) := t.out.filterMap (fun o => match o with
  | .packet _ p => some ([p.hdr.ptype.toNat, p.hdr.opcode.toNat, p.hdr.dst.toNat, p.hdr.region.toNat, p.hdr.offset.toNat, p.hdr.length.toNat] ++
      (p.body.take (payloadLen p.hdr)).map (·.toNat))
  | _ => none)
theorem test_write : ok (exec (.write 0 512) (ranked writeDesc)) (fun t =>
    decide (sentOf t = [[0, 0x01, 0x200, 0x11, 0x22, 3, 0xA, 0xB, 0xC]] ∧ t.reqs.length = 1)) = true := by decide +kernel
theorem test_atomic : ok (exec (.atomic 0 512) (ranked atomicDesc)) (fun t =>
    decide (sentOf t = [[0, 0x21, 0x200, 0x11, 0x20, 4, 5, 0, 0, 0]])) = true := by decide +kernel
theorem test_read_fills_a_line : ok (exec (.read 0 512) (ranked readDesc)) (fun t =>
    decide (sentOf t = [[1, 0x01, 0x200, 0x11, 0, 256]])) = true := by decide +kernel
theorem test_read_uncached : ok (exec (.read 0 512) (setReg (ranked readDesc) (epBase 0 + 0xA00) 0)) (fun t =>
    decide (sentOf t = [[1, 0x01, 0x200, 0x11, 0x22, 8]])) = true := by decide +kernel

/-- A WRITE of context 5 from block 0. -/
def sendReq5 : SendReq := {
  unit := 0x20, src := 0x100, dst := 0x200, ctx := 5, cls := 0, ptype := tyOrdered, opcode := 1, last := true,
  combinable := false, region := 0x11, offset := 0, len := 1, payload := [9], kind := .write, cmd := none, aperture := none }
/-- A limit of block 0 for 0x200 that has no room until time 10. -/
def slowed : State := { qserv with limits := [{ block := 0, fid := 0x200, rate := 20, since := 0, freeAt := 10 }] }
def key5 : StreamKey := { src := 0x100, ctx := 5, dst := 0x200, read := false }
theorem witness_RequestsAreNumbered :
    (sendEpoch qserv 5 = some 0 ∧ (srcStream qserv key5).under = none ∧ (srcStream qserv key5).inEpoch + 1 < 2 ^ 32) ∧
    sendEpoch { qserv with ctxs := [(5, { ctx5 with enc := true })] } 5 = none ∧
    (reqWaits qserv sendReq5 = false ∧ (unitLimit slowed 0x20 0x200).isSome = true ∧ reqWaits slowed sendReq5 = true) ∧
    (2 ^ 32 ≤ (srcStream { qserv with srcStreams := [(key5, { next := 7, inEpoch := 2 ^ 32 - 1, stopped := false, under := none })] } key5).inEpoch + 1)
    := by decide +kernel

/-- Teardowns: a context that is being torn down here, and one whose peer 0x200 was asked at time 10. -/
def tearing : State := { qserv with
  ctxs := [(5, { ctx5 with teardown := true })],
  teardowns := [{ no := 0, ctx := 5, cmd := none, requesters := [0x300], stopAt := 0, quiet := false, peers := [], acked := [], unconfirmed := [] }] }
def tdPeers : State := { tearing with
  teardowns := [{ no := 0, ctx := 5, cmd := none, requesters := [0x300], stopAt := 0, quiet := true, peers := [0x200], acked := [(0x200, 10)], unconfirmed := [] }] }
/-- An MGMT packet from 0x200 to the module 0x100. -/
def mgPkt (op : Byte) (bs : Bytes) : Packet := sealPacket [] { blankHdr with
  ptype := tyMgmt, cls := 7, dst := 0x100, src := 0x200, opcode := op, length := BitVec.ofNat 13 bs.length, tag := 0x5001 } bs
/-- A module 0x100 in SERVICE with context 5. -/
def home0 : State := setReg qserv (glbBase + 8) 0x10100
/-- A packet that passes steps 1 to 5 of R82 in a state. -/
theorem mgPkt_opens {s : State} {op : Byte} {bs : Bytes} (h : decide (tyMgmt = (mgPkt op bs).hdr.ptype ∧ (mgPkt op bs).hdr.opcode = op ∧
    blockOfFid s (mgPkt op bs).hdr.dst = none ∧ (mgPkt op bs).hdr.dst = me s ∧ tooOld s (mgPkt op bs).hdr = false ∧
    malformed s (mgPkt op bs) = false ∧ (mgPkt op bs).hdr.dgen = genOf s (mgPkt op bs).hdr.dst ∧
    (mgPkt op bs).hdr.sgen = genOf s (mgPkt op bs).hdr.src ∧ burgeeDead s (mgPkt op bs).hdr = false ∧
    openPacket s (mgPkt op bs) = .ok bs) = true) : MgmtOpens s op (mgPkt op bs) bs :=
  have h := of_decide_eq_true h
  ⟨h.1.symm, h.2⟩
theorem witness_TeardownSteps :
    (MgmtOpens home0 mgTdReq (mgPkt mgTdReq [5, 0, 0, 0]) [5, 0, 0, 0] ∧ tdOk [5, 0, 0, 0] = true ∧ tdCtx [5, 0, 0, 0] = 5 ∧
      MgmtOpens home0 mgTdDone (mgPkt mgTdDone [5, 0, 0, 0]) [5, 0, 0, 0] ∧
      MgmtOpens home0 mgTdReq (mgPkt mgTdReq [5, 0, 0x10, 0]) [5, 0, 0x10, 0] ∧ tdOk [5, 0, 0x10, 0] = false) ∧
    (blockOfFid (setReg home0 (epBase 0 + 0x900) 0x10101) 0x101 = some 0 ∧ stillHolds tearing 5 = false) ∧
    (qserv.mode = .service ∧ ctxOf qserv 6 = none) ∧ (ctxOf tearing 5 = some { ctx5 with teardown := true }) ∧ ctxOf qserv 5 = some ctx5 ∧
    ctx5.teardown = false ∧ (tearing.teardowns.find? (fun t => decide (t.ctx = 5) && !t.quiet)).isSome = true ∧
    ((tearing.teardowns.find? (fun r => decide (r.ctx = 5) && !r.quiet && decide (0x200 ∉ r.requesters))).isSome = true ∧
      (∀ r ∈ tearing.teardowns, r.ctx = 5 → r.quiet = false → 0x300 ∈ r.requesters)) ∧
    ((∀ t ∈ tearing.teardowns, awaits 5 0x200 t = false) ∧ (tdPeers.teardowns.find? (awaits 5 0x200)).isSome = true) ∧
    ((tdPeers.teardowns.find? (awaits 5 0x200)).bind (fun t => t.acked.find? (fun p => decide (p.1 = 0x200)))) = some (0x200, 10) := by
  refine ⟨⟨mgPkt_opens (by decide +kernel), by decide +kernel, by decide +kernel, mgPkt_opens (by decide +kernel), mgPkt_opens (by decide +kernel),
    by decide +kernel⟩, by decide +kernel⟩
theorem test_teardown_done : ok (exec (.teardownQuietExpiry 5) tearing) (fun t => decide (ctxOf t 5 = none ∧ t.now = 1040000)) = true := by
  decide +kernel
theorem test_teardown_timeout : ok (exec (.tdDoneTimeout 0x200 5) tdPeers) (fun t => decide (t.now = 260000010)) = true := by decide +kernel
theorem test_td_req : ok (exec (.tdReq (mgPkt mgTdReq [5, 0, 0, 0])) home0) (fun t =>
    decide (inTeardown t 5 = true ∧ t.teardowns.map (·.requesters) = [[0x200]])) = true := by decide +kernel


/-! ## Translation -/

/-- Whether a lookup answers a value, or fails in a way. -/
def okIs {ε : Type} (r : Except ε Nat) (v : Nat) : Bool := match r with
  | .ok x => decide (x = v)
  | .error _ => false
def errIs {ε α : Type} [DecidableEq ε] (r : Except ε α) (e : ε) : Bool := match r with
  | .ok _ => false
  | .error x => decide (x = e)

/-- The mirror of the worked example of R109, its tables in host memory, and block 0 of the spine role, whose translations reach
host memory. -/
def mctx : Context := { ctx5 with mirrorRoot := 0x400000 }
def mirrored : State := { qserv with
  role := 1, ctxs := [(5, mctx)]
  mem := memPut (memPut (memPut (memPut [] 0x4007F0 (toLe 8 0x413001)) 0x413240 (toLe 8 0x427001)) 0x427D10 (toLe 8 0x430501)) 0x4305B0
    (toLe 8 0x28A30000F) }
theorem test_walk_example : okIs (walk mirrored 0 5 mctx none 0x7F1234567890 accWrite) 0x28A307890 = true := by decide +kernel
/-- Had the level-1 entry been a leaf of 2 MiB, the walk would have ended there. -/
theorem test_walk_two_mib : okIs (walk { mirrored with mem := memPut mirrored.mem 0x427D10 (toLe 8 0x28A20000F) } 0 5 mctx none 0x7F1234567890 accWrite) 0x28A367890 = true := by decide +kernel
theorem test_walk_beyond : errIs (walk mirrored 0 5 mctx none (2 ^ 48) accRead) .notPresent = true := by decide +kernel
theorem test_walk_read_only : errIs (walk { mirrored with mem := memPut mirrored.mem 0x4305B0 (toLe 8 0x28A300007) } 0 5 mctx none 0x7F1234567890 accWrite) .access = true := by decide +kernel

/-- The region of the worked example of R110, its table in host memory. -/
def listed : State := setReg (setReg { qserv with
  role := 1, ctxs := [(0xABC, ctx5)]
  mem := memPut (memPut [] 0x1002468A0 (toLe 8 (1 + 4 + 8 + 3 * 32 + 0xABC * 2 ^ 16) ++ toLe 8 0x4000000 ++ toLe 8 0x104000000)) 0x104000048 (toLe 8 0x34A000003) }
    (epBase 0 + 0x904) (BitVec.ofNat 32 (64 + 2 * 17 + 1))) (epBase 0 + 0x908) 1
theorem test_region_example : okIs (regionCheck listed 0 0xABC 0x00312345 0x1234560 4096 accWrite false) 0x34A034560 = true := by decide +kernel
theorem test_region_owner : errIs (regionCheck listed 0 0xABD 0x00312345 0x1234560 4096 accWrite false) .owner = true := by decide +kernel
theorem test_region_stale : errIs (regionCheck listed 0 0xABC 0x00412345 0x1234560 4096 accWrite false) .noRegion = true := by decide +kernel

/-- After the walk the leaf and its three non-leaf entries are cached, and one miss is counted (R111, R130). -/
def warmed : State := Machine.warm mirrored 0 (mirrorLook mirrored 0 5 mctx none 0x7F1234567890 accWrite)
theorem test_warm : warmed.tables.map (fun e => (e.tag.kind, e.tag.key)) =
    [(.node, 0x7F0000000000), (.node, 0x7F1200000000), (.node, 0x7F1234400000), (.leaf, 0x7F1234560000)] ∧
    reg warmed (epBase 0 + 0x918) = 1 := by decide +kernel
theorem test_hit : okIs (mirrorLook warmed 0 5 mctx none 0x7F1234561000 accWrite).out 0x28A301000 = true ∧
    (mirrorLook warmed 0 5 mctx none 0x7F1234561000 accWrite).missed = [] := by decide +kernel
theorem test_no_failed_translation : (Machine.warm listed 0 (mirrorLook listed 0 5 mctx none 0x7F1234567890 accWrite)).tables = [] := by decide +kernel
theorem test_park_drops : (park warmed 0 5).tables = [] := by decide +kernel
/-- MIRROR_RANGE over the next page leaves the leaf and drops the non-leaf entries; REGION drops what its handle led to. -/
def inval (scope base count : Nat) : Cmd := { newCmd warmed 0 512 q512 (fetchedOf []) with
  desc := descOf 0x41 ([BitVec.ofNat 8 scope] ++ zeros 7 ++ toLe 8 base ++ toLe 8 count) }
theorem test_inval_range : (startInval warmed (inval 0 0x7F1234570000 0x10000)).tables.map (·.tag.kind) = [.leaf] ∧
    (startInval warmed (inval 0 0x7F1234560000 0x10000)).tables = [] := by decide +kernel
theorem test_inval_ranks : (startInval warmed (inval 3 0 4)).tables = warmed.tables ∧ (startInval warmed (inval 4 0 0)).tables = [] := by
  decide +kernel

/-- A READ of 8 bytes into a page that the driver withdraws while it is under way: the bytes go where the page was (R123). -/
def pulling : State :=
  let c : Cmd := { newCmd mirrored 0 512 q512 (fetchedOf []) with
    id := 3, phase := .started, dst := 0x200
    desc := descOf 0x02 ([1, 0, 0x11, 0, 0, 0, 0, 0, 0, 0, 0, 0, 8, 0, 0, 0] ++ toLe 6 0x7F1234567890) }
  startRead { setReg (setReg mirrored (epBase 0 + 0x900) 0x10100) (epBase 0 + 0xA00) 0 with cmds := [c], fresh := 4 } c
theorem test_held_translation :
    memRead (deliver { pulling with mem := memPut pulling.mem 0x4305B0 (toLe 8 0) } 3 (some 0) 0 8 0 [1, 2, 3, 4, 5, 6, 7, 8]) 0x28A307890 8 =
      [1, 2, 3, 4, 5, 6, 7, 8] := by decide +kernel
/-- An invalidate of the page waits for it; an invalidate of another page does not. -/
def waitsFor (base : Nat) : Option (List Nat) :=
  let c : Cmd := { inval 0 base 0x10000 with id := 9 }
  (cmdOf (startInval { pulling with cmds := pulling.cmds ++ [c] } c) 9).map (fun x => [x.tilesLeft])
theorem test_inval_waits : waitsFor 0x7F1234560000 = some [1] ∧ waitsFor 0x7F1234570000 = some [0] := by decide +kernel

theorem witness_Translations :
    atBlock warmed 5 0 = some at5 ∧ warmed.tables.length = 4 ∧
    (∀ b' k, (warmed.tables.filter (fun e => decide (e.block = b') && sharesCache e.tag.kind k)).length ≤ cacheSize k) ∧
    errIs (mirrorLook listed 0 5 mctx none 0 accRead).out .notPresent = true ∧
    errIs (regionLook listed 0 5 0 0 1 accRead true).out .noRegion = true ∧
    errIs (rankLook listed 0 5 ctx5 4).out .protocol = true ∧
    ((∀ e ∈ mirrored.tables, e.block ≠ 0) ∧ NonLeaf 0x413001 ∧ NonLeaf 0x427001 ∧ NonLeaf 0x430501 ∧ LeafOf 0x28A30000F (2 ^ 16) ∧
      LeafOf 0x28A20000F (2 ^ 21) ∧ LeafOf 0x28000000F (2 ^ 30) ∧
      (tableRead mirrored 0 true (0x400000 + levelIndex 3 0x7F1234567890 * 8) 8).toOption = some (toLe 8 0x413001)) := by
  refine ⟨by decide +kernel, by decide +kernel, fun b' k => Nat.le_trans (List.length_filter_le _ _) ?_, by decide +kernel, by decide +kernel,
    by decide +kernel, by unfold NonLeaf LeafOf; decide +kernel⟩
  have h : warmed.tables.length = 4 := by decide +kernel
  rw [h]
  cases k <;> decide
/-! ## Homes, answers, combining -/

/-- The module 0x100 with the scratch window of die 3 owned by context 5. -/
def home : State := setReg (setReg qserv (glbBase + 8) 0x10100) (ariBase 3 + 0x500) 0x200005
/-- A packet of context 5 from 0x200 to the scratch window, with a payload. -/
def hdr5 (ptype : BitVec 4) (opcode : Byte) (seq len off : Nat) : Header := { blankHdr with
  ptype := ptype, flags := flagsOf true false false false false false, dst := 0x100, src := 0x200, burgee := burgeeOf 5 0, opcode := opcode,
  length := BitVec.ofNat 13 len, seq := BitVec.ofNat 32 seq, tag := 0x4001, region := 0xFFF03, offset := BitVec.ofNat 48 off }
def pkt5 (ptype : BitVec 4) (opcode : Byte) (seq off : Nat) (payload : Bytes) : Packet := sealPacket [] (hdr5 ptype opcode seq payload.length off) payload
/-- The steps of R82 fail one by one. -/
def good5 : Packet := pkt5 tyOrdered 0x01 0 8 [1, 2]
def with5 (f : Header → Header) : Packet := { good5 with hdr := f good5.hdr }

theorem witness_HomeStepsInOrder :
    (configurable home = true ∧ homeOf home good5.hdr = some (.ari 3) ∧ good5.hdr.ptype = tyOrdered ∧
      (pkt5 tyRead 0x01 0 8 []).hdr.ptype = tyRead ∧ ∀ b, HomeUnit.ari 3 = .block b → isQuiet home b = false) ∧
    tooOld home (with5 (fun h => { h with age := 0xC36 })).hdr = true ∧ tooOld home (with5 (fun h => { h with age := 0xC35 })).hdr = false ∧
    malformed home (with5 (fun h => { h with rsvd := 1 })) = true ∧ malformed home good5 = false ∧
    knownAt home (.ari 3) 6 = false ∧ knownAt home (.ari 3) 5 = true ∧
    (with5 (fun h => { h with dgen := 1 })).hdr.dgen ≠ genOf home 0x100 ∧ (with5 (fun h => { h with sgen := 1 })).hdr.sgen ≠ genOf home 0x200 ∧
    burgeeDead home (with5 (fun h => { h with burgee := burgeeOf 5 1 })).hdr = true ∧ burgeeDead home good5.hdr = false ∧
    openPacket home { good5 with body := [1, 2, 0, 0, 0, 0, 0, 0, 0, 0] } = .crcFail [1, 2] := by
  refine ⟨⟨by decide +kernel, by decide +kernel, by decide +kernel, by decide +kernel, fun b h => (by cases h)⟩, ?_⟩
  decide +kernel
/-- An encrypted context, its key, and a packet of it with a body. -/
def encHome : State := { home with
  ctxs := [(5, { ctx5 with enc := true })]
  sec := { home.sec with keys := [(5, { live := [(0, zeros 32)], send := some 0, harbour := none, claim := none, retired := [] })] } }
def enc5 (body : Bytes) : Packet := { good5 with hdr := { good5.hdr with flags := flagsOf true true false false false false }, body := body }
/-- Under an encrypted context's key, some body of a length carries a tag that does not verify. -/
theorem tag_fails (s : State) (h : Header) (key : Bytes) (n : Nat) (hk : packetKey s (burgeeCtx h) (burgeeEpoch h) = some key) (he : flagEnc h = true) :
    ∃ body : Bytes, body.length = n + 16 ∧ ∃ bs, openPacket s { hdr := h, body := body } = .tagFail bs := by
  have ho (body : Bytes) (hb : gcmOpen key (packetIvAs (isCollType h) h) (headerBytes (invariantHdr h)) body = none) :
      ∃ bs, openPacket s { hdr := h, body := body } = .tagFail bs := by
    refine ⟨(gcmCtr (aesKeys key) (packetIvAs (isCollType h) h) body).take (payloadLen h), ?_⟩
    simp only [openPacket, openAs, he, if_true, hk, hb]
  rcases gcmOpen_one_tag key (packetIvAs (isCollType h) h) (headerBytes (invariantHdr h)) (zeros n) (zeros 16) (1 :: zeros 15)
    (by decide) (by decide) (by decide) with h | h
  · exact ⟨_, by simp [zeros], ho _ h⟩
  · exact ⟨_, by simp [zeros], ho _ h⟩
/-- A packet as it was sealed opens where it is plain, or where its epoch's key is live. -/
theorem open_sealed (s : State) (key : Bytes) (h : Header) (payload : Bytes) (hl : payload.length = payloadLen h)
    (hk : flagEnc h = true → packetKey s (burgeeCtx h) (burgeeEpoch h) = some key) : openPacket s (sealPacket key h payload) = .ok payload := by
  cases he : flagEnc h with
  | false => simp [openPacket, openAs, sealPacket, sealAs, he, ← hl]
  | true => simp [openPacket, openAs, sealPacket, sealAs, he, hk he, gcmOpen_gcmSeal, ← hl]
/-- A packet whose tag does not verify. -/
theorem witness_HomeStepsInOrder_tag : ∃ body : Bytes, configurable encHome = true ∧ homeOf encHome (enc5 body).hdr = some (.ari 3) ∧
    tooOld encHome (enc5 body).hdr = false ∧ malformed encHome (enc5 body) = false ∧ knownAt encHome (.ari 3) (burgeeCtx (enc5 body).hdr) = true ∧
    (enc5 body).hdr.dgen = genOf encHome 0x100 ∧ (enc5 body).hdr.sgen = genOf encHome 0x200 ∧ burgeeDead encHome (enc5 body).hdr = false ∧
    ∃ bs, openPacket encHome (enc5 body) = .tagFail bs := by
  obtain ⟨body, hl, hb⟩ := tag_fails encHome (enc5 []).hdr (zeros 32) 10 (by decide +kernel) (by decide +kernel)
  refine ⟨body, ?_⟩
  rw [malformed, show (enc5 body).body.length = 26 from hl, show (enc5 body).hdr = (enc5 []).hdr from rfl]
  exact ⟨by decide +kernel, by decide +kernel, by decide +kernel, by decide +kernel, by decide +kernel, by decide +kernel, by decide +kernel,
    by decide +kernel, hb⟩

theorem witness_HomeAppliesInOrder :
    (Opens home (.ari 3) good5 [1, 2] ∧ spineRole home = false) ∧
    (good5.hdr.ptype = tyOrdered ∧ home.combIn = [] ∧ homeStream home (streamOf good5.hdr) = { expect := good5.hdr.seq, held := [], applying := false } ∧
      opOf good5.hdr = none) ∧
    answerWaits home (homeUnitNo home (.ari 3)) 0x200 = false ∧
    checkHome (setHomeStream home (streamOf good5.hdr) { homeStream home (streamOf good5.hdr) with held := [{ good5 with body := [1, 2] }] })
      (.ari 3) good5.hdr accWrite false =
      (setHomeStream home (streamOf good5.hdr) { homeStream home (streamOf good5.hdr) with held := [{ good5 with body := [1, 2] }] }, .bytes (scratchAddr 3 8)) := by
  refine ⟨⟨?_, by decide +kernel⟩, by decide +kernel, by decide +kernel, rfl⟩
  unfold Opens
  exact ⟨by decide +kernel, by decide +kernel, fun b h => (by cases h), by decide +kernel, by decide +kernel, by decide +kernel, by decide +kernel,
    by decide +kernel, by decide +kernel, by decide +kernel⟩
/-- A fetching addition, and a read, to the same place. -/
def fetch5 : Packet := pkt5 tyOrdered 0x21 0 8 [5, 0, 0, 0]
def read5 : Packet := sealPacket [] (hdr5 tyRead 0x01 0 4 8) []
theorem witness_HomeAppliesInOrder_more :
    (Opens home (.ari 3) fetch5 [5, 0, 0, 0] ∧ opOf fetch5.hdr = some (1, 4) ∧ ledgerFull home (.ari 3) = false) ∧
    (Opens home (.ari 3) read5 [] ∧ checkHome home (.ari 3) read5.hdr accRead true = (home, .bytes (scratchAddr 3 8))) := by
  refine ⟨⟨?_, by decide +kernel⟩, ?_, rfl⟩ <;> unfold Opens
  all_goals exact ⟨by decide +kernel, by decide +kernel, fun b h => (by cases h), by decide +kernel, by decide +kernel, by decide +kernel,
    by decide +kernel, by decide +kernel, by decide +kernel, by decide +kernel⟩
/-- A module in the spine role whose block 0 is 0x101: region 0x11 of context 5 is the page of host memory at 0x50000. Its limit for 0x200
has no room until time 10. -/
def spineHome : State := memWrite (memWrite (setReg (setReg (setReg { qserv with
    role := 1, limits := [{ block := 0, fid := 0x200, rate := 20, since := 0, freeAt := 10 }] }
    (epBase 0 + 0x900) 0x10101) (epBase 0 + 0x904) (BitVec.ofNat 32 (64 + 2 * 17 + 1))) (epBase 0 + 0x908) 1)
    (hostAddr (2 ^ 32 + 0x11 * 32)) (toLe 32 (0x60000 * 2 ^ 128 + 4096 * 2 ^ 64 + 5 * 65536 + 4 + 1))) (hostAddr 0x60000) (toLe 8 0x50003)
def spine5 : Packet := sealPacket [] { hdr5 tyOrdered 0x01 0 2 8 with dst := 0x101, region := 0x11 } [1, 2]
def spineHeld (s : State) : State := setHomeStream s (streamOf spine5.hdr) { homeStream s (streamOf spine5.hdr) with held := [{ spine5 with body := [1, 2] }] }
theorem witness_HomeAppliesInOrder_spine : spineRole spineHome = true ∧ Opens spineHome (.block 0) spine5 [1, 2] ∧ spineHome.combIn = [] ∧
    homeStream spineHome (streamOf spine5.hdr) = { expect := spine5.hdr.seq, held := [], applying := false } ∧ opOf spine5.hdr = none ∧
    (let v := (checkHome (spineHeld spineHome) (.block 0) spine5.hdr accWrite false).1
     checkHome (spineHeld spineHome) (.block 0) spine5.hdr accWrite false = (v, .bytes (hostAddr 0x50008)) ∧ hostAddr 0x50008 < spaceSize ∧
      hostLinkOk v = true ∧ memFaultAt v (hostAddr 0x50008) 2 = none ∧ answerWaits v (homeUnitNo spineHome (.block 0)) 0x200 = true) ∧
    (let v := (checkHome (spineHeld { spineHome with limits := [] }) (.block 0) spine5.hdr accWrite false).1
     answerWaits v (homeUnitNo spineHome (.block 0)) 0x200 = false) := by
  refine ⟨by decide +kernel, ?_, by decide +kernel, by decide +kernel, by decide +kernel, ?_⟩
  · unfold Opens
    exact ⟨by decide +kernel, by decide +kernel, fun b _ => (show isQuiet spineHome b = false from rfl), by decide +kernel,
      by decide +kernel, by decide +kernel, by decide +kernel, by decide +kernel, by decide +kernel, by decide +kernel⟩
  · refine ⟨⟨Prod.ext rfl (by decide +kernel), by decide +kernel, by decide +kernel, by decide +kernel, by decide +kernel⟩, by decide +kernel⟩
theorem test_spine_write_waits : ok (exec (.orderedReqReceive spine5) spineHome) (fun t =>
    decide (memRead t (hostAddr 0x50008) 2 = [1, 2] ∧ t.out = [] ∧ t.answerWait.map (fun w => [w.unit, w.ptype.toNat]) = [[0x20, 3]])) = true := by
  decide +kernel
theorem test_write_applies : ok (exec (.orderedReqReceive good5) home) (fun t =>
    decide (memRead t (scratchAddr 3 8) 2 = [1, 2] ∧ sentOf t = [[3, 0, 0x200, 0, 0, 0]] ∧ (homeStream t (streamOf good5.hdr)).expect = 1)) = true := by
  decide +kernel
theorem test_fetch_add : ok (exec (.orderedReqReceive fetch5) (memWrite home (scratchAddr 3 8) [0xFF, 0xFF])) (fun t =>
    decide (memRead t (scratchAddr 3 8) 4 = [4, 0, 1, 0] ∧ sentOf t = [[2, 2, 0x200, 0, 0, 4, 0xFF, 0xFF, 0, 0]] ∧ t.ledger.length = 1)) = true := by
  decide +kernel
theorem test_read_serves : ok (exec (.readReqReceive read5) (memWrite home (scratchAddr 3 9) [7])) (fun t =>
    decide (sentOf t = [[2, 1, 0x200, 0, 0, 4, 0, 7, 0, 0]])) = true := by decide +kernel
theorem test_write_out_of_order : ok (exec (.orderedReqReceive (pkt5 tyOrdered 0x01 1 8 [1])) home) (fun t =>
    decide (memByte t (scratchAddr 3 8) = 0 ∧ sentOf t = [])) = true := by decide +kernel

/-- A ledger entry, and a transfer of the window of die 3 to context 9. -/
def led5 : LedgerEntry := { block := 0x103, key := streamOf fetch5.hdr, seq := 0, answer := .response [1, 0, 0, 0], freeAt := 500 }
def xfer5 : OwnMsg := { hdr := { hdr5 tyOrdered 0 0 0 0 with tag := 0x4001 }, forced := false, newOwner := 9 }
theorem witness_LedgerAndOwnership :
    ({ home with ledger := [led5] } : State).ledger.find?
      (fun e => decide (e.block = 0x103) && decide (e.key = streamOf fetch5.hdr) && decide (e.seq = 0)) = some led5 ∧
    (home.mode = .service ∧ homeOf home xfer5.hdr = some (.ari 3)) ∧
    (tooOld home xfer5.hdr = false ∧ ownMalformed home xfer5.hdr = false ∧ ownCtx xfer5 = 5 ∧ (ctxOf { home with ctxs := [] } 5).isNone = true ∧
      homeOf { home with ctxs := [] } xfer5.hdr = some (.ari 3)) ∧
    (headSteps home (unitAri 3) (decide (ownCtx xfer5 = 0) || (ctxOf home (ownCtx xfer5)).isSome) (ownMalformed home xfer5.hdr) xfer5.hdr = none ∧
      regionGen xfer5.hdr.region = 0 ∧ regBit home (ariBase 3 + 0x500) 21 = true ∧
      regField home (ariBase 3 + 0x500) 19 0 = (ownCtx xfer5).toNat) ∧
    regField (setReg home (ariBase 3 + 0x500) 0x200006) (ariBase 3 + 0x500) 19 0 ≠ (ownCtx xfer5).toNat ∧
    (flagEnc xfer5.hdr = false ∧ xfer5.tagOk = true ∧ xfer5.crcOk = true ∧ xfer5.forced = false) := by decide +kernel
/-- The same transfer under an encrypted context, with a tag that does not verify. -/
def encXfer5 : OwnMsg := { xfer5 with hdr := { xfer5.hdr with flags := flagsOf true true false false false false }, tagOk := false }
theorem witness_LedgerAndOwnership_checks : homeOf encHome encXfer5.hdr = some (.ari 3) ∧ encHome.mode = .service ∧
    (let known := decide (ownCtx encXfer5 = 0) || (ctxOf encHome (ownCtx encXfer5)).isSome
     headSteps encHome (unitAri 3) known (ownMalformed encHome encXfer5.hdr) encXfer5.hdr = none) ∧
    flagEnc encXfer5.hdr = true ∧ encXfer5.tagOk = false ∧ ({ encXfer5 with tagOk := true, crcOk := false } : OwnMsg).crcOk = false := by
  decide +kernel
theorem test_transfer_bad_crc : ok (exec (.ownershipTransferApply { xfer5 with crcOk := false }) home) (fun t =>
    decide (reg t (ariBase 3 + 0x500) = 0x200005 ∧ sentOf t = [[4, 1, 0x200, 0, 0, 0]])) = true := by decide +kernel
theorem test_transfer : ok (exec (.ownershipTransferApply xfer5) home) (fun t => decide (reg t (ariBase 3 + 0x500) = 0x200009)) = true := by
  decide +kernel
theorem test_ledger_expiry : ok (exec (.ledgerEntryExpiry 0x103 (streamOf fetch5.hdr) 0) { home with ledger := [led5] }) (fun t =>
    decide (t.ledger = [] ∧ t.now = 500)) = true := by decide +kernel

/-- A WRITE that block 0 (fabric ID 0x101) sent to 0x200, outstanding, and its ACK and NAK. -/
def out5 : OutReq := { id := 4, unit := 0x20, pkt := sealPacket [] { hdr5 tyOrdered 0x01 0 1 0 with
  src := 0x101, dst := 0x200 } [9], kind := .write, cmd := none, aperture := none, tries := 1, timerUs := 50, deadline := 130000, cfg := 0x08190032, stale := [] }
def asking : State := setReg { qserv with reqs := [out5] } (epBase 0 + 0x900) 0x10101
def ans5 (ptype : BitVec 4) (code : Byte) : Packet := sealPacket [] { hdr5 ptype code 0 0 0 with src := 0x200, dst := 0x101 } []
theorem witness_AnswersAndTimers :
    (asking.mode = .service ∧ tooOld asking (ans5 tyAck 0).hdr = false ∧ malformed asking (ans5 tyAck 0) = false ∧
      asking.reqs.find? (answers 0x20 (ans5 tyAck 0).hdr) = some out5 ∧ (ans5 tyAck 0).hdr.ptype ≠ tyResponse ∧ burgeeDead asking (ans5 tyAck 0).hdr = false ∧
      openAs asking (byNonce out5) (ans5 tyAck 0) = .ok [] ∧ (ans5 tyAck 0).hdr.dgen = genOf asking 0x101 ∧ (ans5 tyAck 0).hdr.sgen = genOf asking 0x200 ∧ (ans5 tyAck 0).hdr.ptype ≠ tyNak ∧ (ans5 tyNak 1).hdr.ptype = tyNak ∧
      asking.reqs.find? (answers 0x20 (ans5 tyNak 1).hdr) = some out5 ∧ asking.reqs.find? (answers 0x21 (ans5 tyAck 0).hdr) = none) ∧
    tooOld asking { (ans5 tyAck 0).hdr with age := 0xFFFF } = true ∧ malformed asking { ans5 tyAck 0 with body := [] } = true ∧
    burgeeDead { asking with ctxs := [(5, { ctx5 with teardown := true })] } (ans5 tyAck 0).hdr = true ∧
    (configurable asking = true ∧ asking.reqs.find? (fun r => decide (r.id = 4)) = some out5 ∧ out5.tries < cfgTries out5.cfg ∧
      cfgTries out5.cfg ≤ ({ out5 with tries := 8 } : OutReq).tries) := by
  (repeat' apply And.intro) <;> decide +kernel
/-- Answers that steps 2, 3 and 5 drop: an old generation of either end, a RESPONSE of the wrong length, a CRC that does not match. -/
theorem witness_AnswersAndTimers_drops :
    (let r5 : OutReq := { out5 with kind := .atomic 4 true none, pkt := sealPacket [] { out5.pkt.hdr with opcode := 0x21, length := 4 } [9, 0, 0, 0] }
     let resp : Header := { (ans5 tyResponse 2).hdr with length := 8 }
     ({ asking with reqs := [r5] } : State).reqs.find? (answers 0x20 resp) = some r5 ∧ resp.ptype = tyResponse ∧ resp.length.toNat ≠ expectedLen r5 ∧
       malformed { asking with reqs := [r5] } (sealPacket [] resp (zeros 8)) = false) ∧
    (let h : Header := { (ans5 tyAck 0).hdr with dgen := 1 }
     h.dgen ≠ genOf asking h.dst ∧ asking.reqs.find? (answers 0x20 h) = some out5 ∧ burgeeDead asking h = false) ∧
    (let h : Header := { (ans5 tyAck 0).hdr with sgen := 1 }
     h.sgen ≠ genOf asking h.src ∧ h.dgen = genOf asking h.dst ∧ h.ptype ≠ tyNak ∧ asking.reqs.find? (answers 0x20 h) = some out5) ∧
    (let h : Header := { (ans5 tyNak nakStaleGen).hdr with sgen := 1 }
     h.sgen ≠ genOf asking h.src ∧ h.ptype = tyNak ∧ h.opcode = nakStaleGen ∧ asking.reqs.find? (answers 0x20 h) = some out5) ∧
    openAs asking (byNonce out5) { ans5 tyAck 0 with body := zeros 8 } = .crcFail [] := by
  (repeat' apply And.intro) <;> decide +kernel
/-- An answer of an encrypted context whose tag does not verify. -/
theorem witness_AnswersAndTimers_tag : ∃ body : Bytes, ∃ bs,
    openAs encHome (byNonce out5) { hdr := { (ans5 tyAck 0).hdr with flags := flagsOf true true false false false false }, body := body } = .tagFail bs := by
  obtain ⟨body, _, bs, hb⟩ := tag_fails encHome { (ans5 tyAck 0).hdr with flags := flagsOf true true false false false false } (zeros 32) 8 (by decide +kernel) (by decide +kernel)
  exact ⟨body, bs, hb⟩
theorem test_ack : ok (exec (.answerReceive 0x20 (ans5 tyAck 0)) asking) (fun t => decide (t.reqs = [])) = true := by decide +kernel
theorem test_resend : ok (exec (.resendTimeout 4) asking) (fun t =>
    decide (t.reqs.map (fun r => [r.tries, r.timerUs, r.deadline]) = [[2, 100, 390000]] ∧ sentOf t = [[0, 1, 0x200, 0xFFF03, 0, 1, 9]])) = true := by
  decide +kernel
theorem test_resend_ends : ok (exec (.resendTimeout 4) { asking with reqs := [{ out5 with tries := 8 }] }) (fun t => decide (t.reqs = [])) = true := by
  decide +kernel

/-- Combining accepted; a combinable FETCH-less addition, steered to a die; a window of two. -/
def comb : State := setReg (setReg qserv (glbBase + 8) 0x10100) (glbBase + 0x20) 0x40
def add5 (src : Fid) : Packet := sealPacket [] { hdr5 tyOrdered 0x20 0 4 8 with
  src := src, flags := flagsOf true false false false true false, region := 0x11, dst := 0x300 } [5, 0, 0, 0]
def win5 : Window := { die := 3, pkts := [add5 0x200, add5 0x201], total := 2, closeAt := 666 }
/-- A COMBINED_ADD for the scratch window of die 3 that merges two additions. -/
def merged5 : Packet := sealPacket [] { hdr5 tyColl 0x10 0 48 8 with
  flags := flagsOf false false false false true false } (combinedPayload false [[1, 0, 0, 0, 0, 0, 0, 0, 0, 2, 1, 0, 0, 0, 0, 0], [2, 0, 0, 0, 0, 0, 0, 0, 1, 2, 1, 0, 0, 0, 0, 0]])
/-- The die of a combinable packet is one of the 24 in service, whichever the hash names. -/
theorem witness_CombiningWindows_die : comb.mode = .service ∧ (∃ d, combineDie comb (add5 0x200).hdr = some d) ∧
    ∃ d, combineDie { comb with regs := qserv.regs } (add5 0x200).hdr = some d := by
  have h : (ariInService comb).length = 24 := by decide +kernel
  have h' : (ariInService { comb with regs := qserv.regs }).length = 24 := by decide +kernel
  exact ⟨rfl, ⟨_, List.getElem?_eq_getElem (by rw [h]; exact Nat.mod_lt _ (by decide))⟩,
    ⟨_, List.getElem?_eq_getElem (by rw [h']; exact Nat.mod_lt _ (by decide))⟩⟩
theorem witness_CombiningWindows :
    ((combinable comb (add5 0x200)).isSome = true ∧ combinable { comb with regs := qserv.regs } (add5 0x200) = none ∧
      (∀ w ∈ comb.windows, ∀ d, takesInto comb d (add5 0x200) 1 w = false)) ∧
    (merged5.hdr.ptype = tyColl ∧ combinable { comb with regs := qserv.regs } merged5 = none ∧ (add5 0x200).hdr.ptype ≠ tyColl) ∧
    (nextWindow { comb with windows := [win5] } 3 = some win5 ∧ (∀ x ∈ win5.pkts, (combinable { comb with windows := [win5] } x).isSome = true) ∧
      nextNonce comb (unitAri win5.die) (burgeeCtx (add5 0x200).hdr) (burgeeEpoch (add5 0x200).hdr) < 2 ^ 52) ∧
    nextWindow { comb with windows := [{ win5 with pkts := [add5 0x200] }] } 3 = some { win5 with pkts := [add5 0x200] } ∧
    (merged5.hdr.ptype = tyColl ∧ merged5.hdr.opcode = 0x10 ∧ combinedOk merged5.hdr (merged5.body.take 48) = true) := by
  refine ⟨⟨by decide +kernel, by decide +kernel, fun w h => absurd (show w ∈ ([] : List Window) from h) (by simp)⟩, ?_⟩
  (repeat' apply And.intro) <;> decide +kernel
theorem witness_CombiningWindows_home : Opens home (.ari 3) merged5 (merged5.body.take 48) := by
  unfold Opens
  exact ⟨by decide +kernel, by decide +kernel, fun b h => (by cases h), by decide +kernel, by decide +kernel, by decide +kernel, by decide +kernel,
    by decide +kernel, by decide +kernel, open_sealed home [] _ _ (by decide +kernel) (fun h => absurd h (by decide +kernel))⟩
theorem test_window_closes : ok (exec (.combineWindowClose 3) { comb with windows := [win5] }) (fun t =>
    decide (t.windows = [] ∧ (sentOf t).map (·.take 6) = [[5, 0x10, 0x300, 0x11, 8, 48]])) = true := by decide +kernel

/-! ## Notices, the switch core, rate limits -/

/-- Fabric port 20 UP; a generation notice and a withdrawal that were heard; a block that is quiet. -/
def fabUp : State := { setPort fid 20 portUpLanes with
  repeatAt := [(0x200, 5)], quietUntil := [(0, 9)], switch := { fid.switch with withdrawn := [(0x300, 7)] } }
/-- The payload of a notice for 0x300. -/
def route3 : Bytes := [1, 0, 0, 0, 0, 3]
theorem witness_FabricNotices :
    (configurable fabUp = true ∧ portUp fabUp 20 = true ∧ attachMode fabUp 20 = false) ∧
    (MgmtOpens fabUp mgBlockRestart (mgPkt mgBlockRestart [1, 0, 0, 2, 3]) [1, 0, 0, 2, 3] ∧ restartOk [1, 0, 0, 2, 3] = true ∧
      restartEntries [1, 0, 0, 2, 3] = [(0x200, 3)] ∧ restartOk [1, 0, 0, 2, 0x13] = false) ∧
    (MgmtOpens fabUp mgRouteWithdraw (mgPkt mgRouteWithdraw route3) route3 ∧ MgmtOpens fabUp mgRouteRestore (mgPkt mgRouteRestore route3) route3 ∧
      routeOk route3 = true ∧ routeFids route3 = [0x300] ∧ routeAll route3 = false) ∧
    (genOf fabUp 0x200 = 0 ∧ genOf fabUp 0x200 ≠ 1 ∧ ∀ r ∈ fabUp.reqs, r.pkt.hdr.dst ≠ 0x200) ∧
    (Tab.get? fabUp.repeatAt 0x200 = some 5 ∧ Tab.get? fabUp.quietUntil 0 = some 9) ∧
    (exclUsed fabUp + [(0x300 : Fid), 0x301].length < exclSize ∧ Tab.get? fabUp.switch.withdrawn 0x300 = some 7 ∧ fabUp.mode = .service ∧
      unreachable fabUp 0x300 = false) := by
  refine ⟨by decide +kernel, ⟨mgPkt_opens (by decide +kernel), by decide +kernel⟩, ⟨mgPkt_opens (by decide +kernel), mgPkt_opens (by decide +kernel),
    by decide +kernel⟩, by decide +kernel⟩
theorem test_block_restart : ok (exec (.blockRestart 20 (mgPkt mgBlockRestart [1, 0, 0, 2, 3])) fabUp) (fun t => decide (genOf t 0x200 = 3)) = true := by decide +kernel
theorem test_route_withdraw : ok (exec (.routeWithdraw 20 (mgPkt mgRouteWithdraw route3)) fabUp) (fun t =>
    decide (excluded t 0x300 20 = true ∧ excluded t 0x301 20 = false)) = true := by decide +kernel
theorem test_route_restore : ok (exec (.routeRestore 20 (mgPkt mgRouteRestore [0, 0, 1, 0])) { fabUp with switch := { fabUp.switch with excludeAll := [20] } }) (fun t =>
    decide (excluded t 0x300 20 = false)) = true := by decide +kernel

/-- A packet from port 20 to block 0, whose fabric ID is 0x101, with congestion notification off; the packet inside the module. -/
def toBlock : State := setReg (setReg fabUp (epBase 0 + 0x900) 0x10101) (mgBase + 0x408) 0
def pkt0 (hops : BitVec 6) (dst : Fid) : Packet := sealPacket [] { hdr5 tyOrdered 0x01 0 1 0 with dst := dst, hops := hops, colour := 0 } [9]
def tr0 : Transit := {
  ingress := 20, packetId := 3, egress := 21, pkt := pkt0 0 0x300, cells := 1, missing := [0], got := [], arrival := 0, firstAt := none, planes := [2],
  halyard := none, arrivedColour := 0, complete := false, doneAt := 0, doneNo := 0 }
def inside (x : Transit) (age : Word) : State := setReg { setPort fabUp 21 { portUpLanes with
    vcs := List.replicate 4 { sent := 0, limit := 1000, rcvd := 0, advertised := 0, freed := 0, retrying := false } } with
  switch := { fabUp.switch with transits := [x] } } (mgBase + 0x200) age
def done0 : Transit := { tr0 with missing := [], complete := true, firstAt := some 4 }
theorem witness_CellsAndEgress :
    (configurable (inside tr0 9) = true ∧ (inside tr0 9).age.swap = none) ∧
    ((inside tr0 9).switch.transits.find? (fun t => decide (t.ingress = 20) && decide (t.packetId = 3) && decide (t.egress = 21)) = some tr0 ∧
      portServes (inside tr0 9) 21 = true ∧ 0 ∈ tr0.missing ∧ tr0.complete = false ∧ tr0.planes.getD 0 noPlane = 2 ∧ 2 ≠ noPlane ∧
      planeCells (inside tr0 9) 2 ≤ cellsPerPlane ∧ tr0.cells = cellsOf (packetLen tr0.pkt)) ∧
    ({ tr0 with firstAt := some 4 }.firstAt = some 4 ∧ (inside { tr0 with firstAt := some 4 } 9).switch.transits.find? (fun t =>
      decide (t.ingress = 20) && decide (t.packetId = 3) && decide (t.egress = 21) && !t.complete) = some { tr0 with firstAt := some 4 }) ∧
    ((nextPacket (inside done0 9) 21).map (·.1) = some done0 ∧
      (nextPacket (inside done0 9) 21).map (fun r => (linkFree r.2 21 done0, tooOld r.2 (leaving r.2 21 done0))) = some (true, false) ∧
      noSampling (inside done0 9)) ∧
    ((nextPacket (inside done0 0) 21).map (fun r => (linkFree r.2 21 done0, tooOld r.2 (leaving r.2 21 done0))) = some (true, true)) := by
  unfold noSampling; (repeat' apply And.intro) <;> decide +kernel
/-- The cell of that packet: 57 valid bytes and zeros. -/
theorem correct_cell (x : Transit) (i : Nat) : correctCell (cellOf x i) = some (cellOf x i) := if_pos rfl
theorem test_cell : (cellOf tr0 0).valid = 57 ∧ (cellOf tr0 0).payload = fit 240 (headerBytes tr0.pkt.hdr ++ tr0.pkt.body) ∧ (cellOf tr0 0).pos = 0 := by
  decide +kernel
theorem test_cell_completes : ok (exec (.cellArrive 21 (cellOf tr0 0)) (inside tr0 9)) (fun t => decide (t.switch.transits.map (·.complete) = [true])) = true := by
  have h : correctCell (cellOf tr0 0) = some (cellOf tr0 0) := correct_cell tr0 0
  have h2 : arriveCell (inside tr0 9) 21 (cellOf tr0 0) = gatherCell (inside tr0 9) tr0 (cellOf tr0 0) := by
    unfold arriveCell
    rw [h]
    decide +kernel
  show ok (.next (if configurable (inside tr0 9) then finishSwap (arriveCell (inside tr0 9) 21 (cellOf tr0 0)) else inside tr0 9)) _ = true
  rw [h2]
  decide +kernel
theorem test_reassembly_over : ok (exec (.reassemblyTimeout 21 20 3) (inside { tr0 with firstAt := some 4 } 9))
    (fun t => decide (t.switch.transits = [] ∧ reg t (ptBase 21 + 0x608) = 1)) = true := by decide +kernel
theorem test_egress : ok (exec (.egressTransmit 21) (inside done0 9)) (fun t => decide (t.switch.transits = [] ∧
    t.out.filterMap (fun o => match o with | .wire n p => some (n, p.hdr.age.toNat, p.hdr.hops.toNat) | _ => none) = [(21, 1, 1)])) = true := by
  decide +kernel

/-- A full egress queue, and a rate limit of block 0. -/
def fullQueue (e : Nat) : State := { toBlock with switch := { toBlock.switch with transits := [{ tr0 with egress := e, cells := 10000000 }] } }
def limited (n : Nat) : State := { toBlock with limits := [{ block := 0, fid := 0x200, rate := n, since := 0, freeAt := 0 }] }
/-- CONG_NOTIFY for block 0 that names 0x200, and one that sets a reserved bit. -/
def cong0 : Packet := sealPacket [] { blankHdr with ptype := tyMgmt, cls := 7, dst := 0x101, src := 0x300, opcode := 0x40, length := 8 } [0, 2, 0, 0, 0, 0, 0, 0]
theorem witness_PacketsAndLimits_notify (s : State) (hs : s = { limited 20 with quietUntil := [] }) :
    s.mode = .service ∧ cong0.hdr.ptype = tyMgmt ∧ cong0.hdr.opcode = 0x40 ∧ blockOfFid s cong0.hdr.dst = some 0 ∧ isQuiet s 0 = false ∧
    tooOld s cong0.hdr = false ∧ malformed s cong0 = false ∧ bits (leNat cong0.body) 31 19 = 0 ∧ cong0.hdr.dgen = genOf s cong0.hdr.dst ∧
    cong0.hdr.sgen = genOf s cong0.hdr.src ∧ burgeeDead s cong0.hdr = false ∧ openPacket s cong0 = .ok [0, 2, 0, 0, 0, 0, 0, 0] ∧
    (0x200 : Fid) = BitVec.ofNat 16 (bits (leNat cong0.body) 15 0) := by subst hs; decide +kernel
theorem witness_PacketsAndLimits :
    (20 < 144 ∧ takesPackets toBlock 20 = true ∧ 32 ≤ (pkt0 32 0x101).hdr.hops.toNat ∧ (pkt0 0 0x101).hdr.hops.toNat < 32 ∧
      takesPackets { toBlock with mode := .maint } 20 = true ∧ (pkt0 0 0x101).hdr.ptype ≠ tyMgmt) ∧
    (toBlock.mode = .service ∧ packetLen (pkt0 0 0x101) = promisedLen (pkt0 0 0x101).hdr ∧ flagHalyard (pkt0 0 0x101).hdr = false ∧
      regBit toBlock (ptBase 20 + 0x720) 31 = false ∧ (pkt0 0 0x101).hdr.colour ≠ 3) ∧
    routeOf toBlock 20 (pkt0 0 0x300).hdr = .noRoute ∧
    (∃ e, routeOf toBlock 20 (pkt0 0 0x101).hdr = .to e ∧ admission toBlock e 0 1 = .reserved ∧ admission (fullQueue e) e 0 1 = .refuse ∧
      routeOf (fullQueue e) 20 (pkt0 0 0x101).hdr = .to e) ∧
    ((∀ d ∈ planesInService toBlock, d < 18) ∧ noSampling toBlock ∧ regBit toBlock (mgBase + 0x408) 31 = false) ∧
    (toBlock.mode = .service ∧ blockOfFid toBlock 0x101 = some 0 ∧ limitOf toBlock 0 0x200 = none ∧ (∀ l, limitOf (limited 20) 0 0x200 = some l → l.rate < 64) ∧
      (toBlock.limits.filter (fun l => decide (l.block = 0))).length < 256 ∧ (limitOf (limited 20) 0 0x200).map (·.rate) = some 20 ∧
      (limitOf (limited 63) 0 0x200).map (·.rate) = some 63) := by
  unfold noSampling
  refine ⟨by decide +kernel, by decide +kernel, by decide +kernel, ⟨170, ?_⟩, by decide +kernel, by decide +kernel⟩
  decide +kernel
/-- The 15 planes hold no packet; the one plane that is left is full of a packet of another queue; no plane is left. -/
def oneFull : State := { toBlock with
  age := { toBlock.age with planeList := [2] }
  switch := { toBlock.switch with transits := [{ tr0 with cells := 98304, planes := List.replicate 98304 2 }] } }
theorem witness_PacketAdmission_room :
    (planesInService toBlock ≠ [] ∧ ((planesInService toBlock).all (fun d => (List.range (cellsOf (promisedLen (pkt0 0 0x101).hdr))).all
      (fun m => planeRoom toBlock 170 (clsOf (pkt0 0 0x101).hdr) none d m))) = true ∧ routeOf toBlock 20 (pkt0 0 0x101).hdr = .to 170) ∧
    (takesPackets oneFull 20 = true ∧ oneFull.mode = .service ∧ routeOf oneFull 20 (pkt0 0 0x101).hdr = .to 170 ∧ admission oneFull 170 0 1 = .reserved ∧
      planesInService oneFull = [2]) ∧ planeRoom oneFull 170 (clsOf (pkt0 0 0x101).hdr) none 2 0 = false := by
  refine ⟨by decide +kernel, by decide +kernel, ?_⟩
  have h : planeCells oneFull 2 = 98304 := by
    have : (List.replicate 98304 2).filter (fun p => decide (p = 2)) = List.replicate 98304 2 := List.filter_eq_self.mpr (fun x hx => decide_eq_true (List.eq_of_mem_replicate hx))
    show [((List.replicate 98304 2).filter (fun p => decide (p = 2))).length].foldl (· + ·) 0 = 98304
    rw [this, List.length_replicate]
    rfl
  unfold planeRoom
  rw [h]
  rfl
theorem test_ingress_hops : ok (exec (.packetIngress 20 (pkt0 32 0x101)) toBlock) (fun t => decide (reg t (ptBase 20 + 0x604) = 1)) = true := by
  decide +kernel
theorem test_ingress_no_route : ok (exec (.packetIngress 20 (pkt0 0 0x300)) toBlock) (fun t =>
    decide (reg t (mgBase + 0x414) = 1 ∧ t.switch.transits = [])) = true := by decide +kernel
theorem test_congestion_halves : ok (exec (.congNotify cong0) { limited 20 with quietUntil := [] }) (fun t =>
    decide ((limitOf t 0 0x200).map (·.rate) = some 10)) = true := by decide +kernel
theorem test_recovery_ends : ok (exec (.rateLimitRecover 0 0x200) (limited 63)) (fun t => decide (limitOf t 0 0x200 = none)) = true := by
  decide +kernel

/-! ## Ports -/

/-- Port 20 enabled and DOWN, its cable at a step of R402. -/
def atStep (c : CableStep) : State := setReg (setPort serv 20 { Port.blank with present := decide (c ≠ .absent), cable := c, retryAt := 77 }) (ptBase 20) 1
theorem witness_CableSteps :
    (∀ c ∈ [CableStep.absent, .waitLowPwr, .waitReady, .waitDp, .failed], portsRun (atStep c) = true ∧ (portOf (atStep c) 20).state = .down ∧
      portEnabled (atStep c) 20 = true ∧ (portOf (atStep c) 20).cable = c ∧ (portOf (atStep c) 20).swap = none) ∧
    (portsRun (setReg (atStep .absent) (ptBase 20) 0) = true ∧ portEnabled (setReg (atStep .absent) (ptBase 20) 0) 20 = false) ∧
    ((0x51 : Byte).toNat / 16 = 5 ∧ (0x41 : Byte).toNat / 16 ≠ 5) ∧ 4 ≤ laneCount (usableLanes (portOf (atStep .waitDp) 20)) ∧
    ((portOf (atStep .waitReady) 20).present = true ∧ lane8InTest (portOf (atStep .waitReady) 20) = false) ∧
    (let s := setPort (atStep .absent) 20 { portOf (atStep .absent) 20 with present := true }
     portsRun s = true ∧ (portOf s 20).state = .down ∧ (portOf s 20).present = true ∧ (portOf s 20).cable = .absent) := by decide +kernel
theorem test_cable_alarm_no_reset : ok (exec (.cablePoll 20 { warning := false, monitor := false, alarm := true, lossLock := false, txFault := false }) (atStep .ready))
    (fun t => decide ((portOf t 20).cable = .waitLowPwr ∧ (portOf t 20).cause = caCableFault ∧ t.out.contains (.sideband 20 sbAssertReset) = false)) = true := by
  decide +kernel
theorem test_cable_insert : ok (exec (.cableInsert 20) (atStep .absent)) (fun t =>
    decide ((portOf t 20).cable = .waitLowPwr ∧ (portOf t 20).present = true)) = true := by decide +kernel
theorem test_cable_revision : ok (exec (.cableModuleLowPwr 20 0x41 true) (atStep .waitLowPwr)) (fun t =>
    decide ((portOf t 20).cable = .failed ∧ (portOf t 20).cause = 3)) = true := by decide +kernel
theorem test_cable_dp : ok (exec (.cableDpActivated 20) (atStep .waitDp)) (fun t => decide ((portOf t 20).state = .training)) = true := by
  decide +kernel
theorem test_cable_retry : ok (exec (.cableRetryExpiry 20) (atStep .failed)) (fun t =>
    decide ((portOf t 20).cable = .waitLowPwr ∧ t.now = 77)) = true := by decide +kernel

/-- Control frames, the body of a LINK_INIT that fits and one that sets a reserved byte; a frame whose CRC is wrong. -/
def initBody : Bytes := [0, 1, 7, 1, 0xFF, 0, 0, 3, 9, 0, 0, 0] ++ zeros 4 ++ [132] ++ zeros 15
def initBad : Bytes := [0, 1, 7, 1, 0xFF, 0, 0, 3, 9, 0, 0, 0, 1] ++ zeros 3 ++ [132] ++ zeros 15
def wrongFrame : Bytes := zeros 16
theorem witness_LinkTraining_frames :
    Ctl (linkFrame fkLinkInit 0 0 initBody) fkLinkInit initBody ∧ initOk initBody = true ∧ Ctl (linkFrame fkLinkInit 0 0 initBad) fkLinkInit initBad ∧
    initOk initBad = false ∧ Ctl (linkFrame fkInitAck 0 0 [0xFF, 0, 0, 0, 0, 0, 0, 0]) fkInitAck [0xFF, 0, 0, 0, 0, 0, 0, 0] ∧
    ackOk [0xFF, 0, 0, 0, 0, 0, 0, 0] = true ∧ ackLanes [0xFF, 0, 0, 0, 0, 0, 0, 0] = 0xFF := by unfold Ctl; decide +kernel
/-- Port 20 in TRAINING; a LINK_INIT that fits. -/
def init0 : LinkInitMsg := initOf initBody
def train (r : Port → Port) : State := setReg (setPort fid 20 (r { Port.blank with state := .training, present := true, cable := .ready })) (ptBase 20) 1
def t1 : State := train id
def t2 : State := train (fun r => { r with aligned := 0xFF, initSent := true, lastInc := some 9 })
def t3 : State := train (fun r => { r with aligned := 0xFF, initSent := true, mySet := some 0xFF, peerInit := some init0, lastInc := some 9 })
theorem witness_LinkTraining :
    (portsRun t1 = true ∧ (portOf t1 20).state = .training ∧ (portOf t1 20).peerInit = none ∧ (portOf t1 20).initSent = false ∧
      (portOf t1 20).lastInc ≠ some init0.incarnation ∧ (portOf t1 20).cause ≠ caInitMismatch ∧ (portOf t1 20).cause ≠ caLanesShort) ∧
    (portOf (train (fun r => { r with lastInc := some 9 })) 20).lastInc = some init0.incarnation ∧
    ((portOf t2 20).initSent = true ∧ (portOf t2 20).mySet = none ∧ initFits t2 20 init0 = true ∧
      laneSet (usableLanes (portOf t2 20)) init0.lanes = some 0xFF) ∧
    (usableLanes (portOf t1 20) &&& ~~~((portOf t1 20).aligned ||| 0xF) ≠ 0 ∧ usableLanes (portOf t1 20) &&& ~~~((portOf t1 20).aligned ||| 0xFF) = 0) ∧
    (portEnabled (setReg t1 (ptBase 20) 0) 20 = false ∧ portEnabled t1 20 = true ∧ (portOf t1 20).cable = .ready ∧
      4 ≤ laneCount (usableLanes (portOf t1 20)) ∧ (portOf (train (fun r => { r with cable := .waitDp })) 20).cable ≠ .ready) ∧
    (BitVec.getLsbD (0xFF : BitVec 9) 8 = false) ∧
    ((portOf t3 20).state = .training ∧ (portOf t3 20).mySet = some 0xFF ∧ (portOf t3 20).peerInit = some init0 ∧ (0xF : BitVec 9) ≠ 0xFF) ∧
    (portsRun fabUp = true ∧ (portOf fabUp 20).state = .up ∧ 0x100 &&& (portOf fabUp 20).active = 0) ∧
    ((portOf { t1 with ports := t1.ports } 20).fecWindow = [] ∧ (portOf (setPort fid 3 Port.blank) 3).state = .down) := by decide +kernel
theorem test_fec_count : ok (exec (.fecFail 20 5 32) t1) (fun t =>
    decide (reg t (ptBase 20 + 0x1C) = 5 ∧ reg t (ptBase 20 + 0x20) = 32 ∧ (portOf t 20).state = .training)) = true := by decide +kernel
theorem test_fec_fail : ok (exec (.fecFail 20 0 33) { t1 with now := 9 }) (fun t => decide ((portOf t 20).state = .training ∧ (portOf t 20).trainingAt = 9)) = true := by
  decide +kernel
theorem test_lanes_aligned : ok (exec (.lanesAligned 20 0x1FF) t1) (fun t => decide ((portOf t 20).aligned = 0xFF ∧ t.out.length = 1)) = true := by
  decide +kernel
theorem test_link_init : ok (exec (.linkInit 20 (linkFrame fkLinkInit 0 0 initBody)) t2) (fun t => decide ((portOf t 20).mySet = some 0xFF)) = true := by decide +kernel
theorem test_init_ack : ok (exec (.initAck 20 (linkFrame fkInitAck 0 0 [0xFF, 0, 0, 0, 0, 0, 0, 0])) t3) (fun t => decide ((portOf t 20).state = .up ∧ regField t (ptBase 20 + 0x10) 15 0 = 0x300)) = true := by
  decide +kernel
theorem test_los : ok (exec (.los 20 1) (setReg t1 (ptBase 20) 0)) (fun t => decide ((portOf t 20).state = .down ∧ (portOf t 20).cause = caLos)) = true := by decide +kernel
theorem test_los_trains_again : ok (exec (.los 20 1) t2) (fun t => decide ((portOf t 20).state = .training ∧ (portOf t 20).aligned = 0)) = true := by decide +kernel
theorem test_init_ack_stray : ok (exec (.initAck 20 (linkFrame fkInitAck 0 0 [0xFF, 0, 0, 0, 0, 0, 0, 0])) t2) (fun t => decide ((portOf t 20).state ≠ .up ∧ t.out.length = 1)) = true := by
  decide +kernel

/-- Port 20 UP with a lane swap. -/
def swapping (w : LaneSwap) : State := setPort fid 20 { portUpLanes with swap := some w }
def sw0 : LaneSwap := newSwap 2 false 3
def swI : LaneSwap := { newSwap 2 true 3 with asked := true }
theorem witness_LaneSwapSteps_frames : ∀ kind ∈ [fkSwapReq, fkSwapReady], ∀ named, swapOk (swapBytes 2 named 9) = true ∧
    Ctl (linkFrame kind 0 0 (swapBytes 2 named 9)) kind (swapBytes 2 named 9) ∧ byteAt (swapBytes 2 named 9) 0 = 2 ∧
    byteAt (swapBytes 2 named 9) 1 = (if named then 1 else 0) := by unfold Ctl; decide +kernel
theorem witness_LaneSwapSteps :
    (portsRun fabUp = true ∧ (portOf fabUp 20).state = .up ∧ (portOf fabUp 20).swap = none ∧ canSwap fabUp 20 2 = true ∧ canSwap fabUp 20 8 = false) ∧
    (portsRun (swapping sw0) = true ∧ (portOf (swapping sw0) 20).state = .up ∧ (portOf (swapping sw0) 20).swap = some sw0 ∧ sw0.lane = (2 : Byte).toNat ∧
      sw0.lane8Locked = false ∧ sw0.initiator = false) ∧
    (let w := { sw0 with lane8Locked := true }
     (portOf (swapping w) 20).swap = some w ∧ w.initiator = false ∧ w.lane8Locked = true ∧ w.peerNamed = false) ∧
    (swI.initiator = true ∧ swI.asked = true ∧ swI.readySeen = false ∧ swI.lane8Locked = false ∧ swI.named = false ∧
      { swI with lane8Locked := true }.lane8Locked = true ∧ { swI with named := true }.named = true ∧ { swI with named := true }.peerNamed = false) ∧
    ({ swI with named := true }.txDone = false ∧ { swI with named := true }.rxDone = false) ∧
    ({ swI with named := true, peerNamed := true, txDone := true }.peerNamed = true ∧ { swI with txDone := true }.rxDone = false) := by decide +kernel
theorem witness_LaneSwapSteps_markers :
    (portOf fabUp 20).lane8On = false ∧
    (let w := { sw0 with named := true, peerNamed := true, txDone := true }
     (portOf (swapping w) 20).swap = some w ∧ w.txDone = true ∧ w.rxDone = false) ∧
    (let w := { swI with named := true }
     (portOf (swapping w) 20).swap = some w ∧ w.txDone = false ∧ w.rxDone = false) := by decide +kernel
theorem test_swap_req : ok (exec (.swapReq 20 (linkFrame fkSwapReq 0 0 (swapBytes 2 false 0))) fabUp) (fun t => decide ((portOf t 20).lane8On = true)) = true := by decide +kernel
theorem test_swap_ends : ok (exec (.swapMarker 20 false) (swapping { sw0 with named := true, peerNamed := true, txDone := true })) (fun t =>
    decide ((portOf t 20).active = 0x1FB ∧ (portOf t 20).swap = none)) = true := by decide +kernel
theorem test_swap_timeout : ok (exec (.swapTimeout 20) (swapping swI)) (fun t => decide ((portOf t 20).swap = none ∧ t.now = 26000003)) = true := by
  decide +kernel

/-- Attach port 1 of block 0 UP with requests outstanding and channels that advertise 100 units, and fabric port 20 the same. -/
def vcs100 : List Vc := List.replicate 4 { sent := 0, limit := 0, rcvd := 4, advertised := 100, freed := 0, retrying := false }
def attReq (op : Byte) : AttachReq := { port := 1, tag := 5, op := op, addr := 0, data := [], len := 2, deadline := 130000, no := 0, use := .headWb 0 512 }
def att (op : Byte) : State := setReg (setPort (setPort { qserv with attReqs := [attReq op] } 1 { portUpLanes with vcs := vcs100, dead := [6] }) 20
  { portUpLanes with vcs := vcs100 }) (ptBase 1) 3
def credits50 : Bytes := [50, 0, 0, 0, 0, 0, 0, 0, 4, 0, 0, 0]
theorem witness_LinkFrames_frames :
    (wrongFrame ≠ idleWord ∧ readFrame wrongFrame = none) ∧ (fkData < 16 ∧ [(9 : Byte), 8].length ≤ 4168 ∧ linkFrame fkData 0 4 [9, 8] ≠ idleWord ∧
      readFrame (linkFrame fkData 0 4 [9, 8]) = some { kind := fkData, vc := 0, sent := 4, clean := true, body := [9, 8] }) ∧
    (Ctl (linkFrame fkCredit 0 0 credits50) fkCredit credits50 ∧ credits50.length = 12 ∧ BitVec.ofNat 32 (fieldAt credits50 8 4) = 4) ∧
    (Ctl (linkFrame fkLinkRetry 0 0 [1, 0, 0, 0, 7, 0, 0, 0]) fkLinkRetry [1, 0, 0, 0, 7, 0, 0, 0] ∧ retryOk [1, 0, 0, 0, 7, 0, 0, 0] = true) ∧
    (Ctl (linkFrame fkCredit 0 0 [1]) fkCredit [1] ∧ [(1 : Byte)].length ≠ 12) := by unfold Ctl; decide +kernel
theorem witness_LinkFrames :
    (portsRun (att opMwr) = true ∧ (portOf (att opMwr) 1).state = .up ∧ attachMode (att opMwr) 1 = true ∧ (portOf (att opMwr) 1).vcs.length = 4) ∧
    (portsRun (att opMwr) = true ∧ (portOf (att opMwr) 20).state = .up ∧ attachMode (att opMwr) 20 = false ∧ (portOf (att opMwr) 20).vcs.length = 4) ∧
    (atOrBefore (110 + creditUnits (zeros 128).length) (vcOf (portOf (att opMwr) 20) 0).advertised = false ∧
      atOrBefore (3 + creditUnits (zeros 16).length) (vcOf (portOf (att opMwr) 20) 0).advertised = true ∧
      3 ≠ (vcOf (portOf (att opMwr) 20) 0).rcvd ∧ atOrBefore 3 (vcOf (portOf (att opMwr) 20) 0).rcvd = true ∧ 4 = (vcOf (portOf (att opMwr) 20) 0).rcvd ∧
      transactionOk 0 ([opApWr, 0, 0, 0, 1] ++ zeros 20) = true) ∧
    (apBusy (att opMwr) 1 9 = false ∧ apLegal 0xFFF 2 = false ∧ apLegal 0xFFE 2 = true ∧ definedAt (att opMwr) 6 (1 / 2) = false ∧
      definedAt (att opMwr) 5 (1 / 2) = true ∧ inTeardown (att opMwr) 5 = false) ∧
    ((att opMwr).attReqs.find? (fun q => decide (q.port = 1) && decide (q.tag = 6)) = none ∧ 6 ∈ (portOf (att opMwr) 1).dead ∧
      (att opMwr).attReqs.find? (fun q => decide (q.port = 1) && decide (q.tag = 5)) = some (attReq opMwr) ∧
      (att opMrd).attReqs.find? (fun q => decide (q.port = 1) && decide (q.tag = 5)) = some (attReq opMrd) ∧
      (attReq opMrd).data.length + [(1 : Byte), 2].length = (attReq opMrd).len ∧
      (0 : DWord).toNat = ((attReq opMrd).addr + (attReq opMrd).data.length) % spaceSize) ∧
    ((att opMwr).attReqs.find? (fun q => decide (q.port = 1) && decide (q.tag = 7)) = none ∧ 7 ∉ (portOf (att opMwr) 1).dead ∧
      (portOf (att opMwr) 20).waitTx = []) := by
  (repeat' apply And.intro) <;> decide +kernel
theorem test_frame_crc : ok (exec (.dataFrameReceive 20 wrongFrame) (att opMwr)) (fun t => decide (reg t (ptBase 20 + 0x40) = 1)) = true := by
  decide +kernel
theorem test_frame_taken : ok (exec (.dataFrameReceive 20 (linkFrame fkData 0 4 [9, 8])) (att opMwr)) (fun t =>
    decide ((vcOf (portOf t 20) 0).rcvd = 4 + creditUnits 2)) = true := by decide +kernel
theorem test_credit : ok (exec (.credit 20 (linkFrame fkCredit 0 0 credits50)) (att opMwr)) (fun t =>
    decide ((vcOf (portOf t 20) 0).limit = 50)) = true := by decide +kernel
/-- A frame of channel 1 that a LINK_RETRY from unit 7 on asks for again. -/
def keeping : State := setPort (att opMwr) 1 { portOf (att opMwr) 1 with kept := [{ vc := 1, sent := 8, body := [9] }] }
theorem test_link_retry : ok (exec (.linkRetry 1 (linkFrame fkLinkRetry 0 0 [1, 0, 0, 0, 7, 0, 0, 0])) keeping) (fun t =>
    decide (t.out = [.link 1 (linkFrame fkData 1 8 [9])] ∧ regBit t (mgBase + 0x500) detResend = true)) = true := by decide +kernel
theorem test_attach_timeout : ok (exec (.attachTimeout 1 5) (att opMwr)) (fun t =>
    decide ((portOf t 1).state ≠ .up ∧ (portOf t 1).dead = [5] ∧ t.now = 130000)) = true := by decide +kernel

/-! ## Collectives -/

/-- Context 5 has group 7, epoch 2: member 0 on block 0 of the module 0x100, member 1 below the module 0x200. The module is the root, or
one below the root 0x300. -/
def mods (top : Bool) : List PlanModule :=
  let e : PlanModule := { fid := 0x200, parent := 0x100, halyardEn := false, packetFallback := false, halyardUp := 0, halyardDn := 0 }
  if top then [{ e with fid := 0x100, parent := fidRoot }, e] else [{ e with fid := 0x300, parent := fidRoot }, { e with fid := 0x100, parent := 0x300 }, e]
def planOf7 (top : Bool) : Plan := {
  ctx := 5, group := 7, epoch := 2, pipeline := 1, cls := 0, members := [(0x101, 0x100), (0x201, 0x200)],
  modules := mods top, roots := [if top then 0x100 else 0x300] }
def group7 (top : Bool) (st : GroupState) : Group := {
  plan := planOf7 top, newPlan := none, state := st, issuer := 0x101, joined := [], joinSent := false, since := 3, missing := [], aborted := [] }
/-- ALL_REDUCE (SUM) of 4,096 32-bit integers, one chunk; BROADCAST of the same. -/
def sum7 : LaunchFields := {
  kind := 1, op := 3, ext := false, chunkSignal := false, sumsqFp64 := false, sumsq := false, prov := false, chunk := 0, arith := 0x2222,
  collId := 9, count := 4096, root := 0, program := 0, hset := 0, step := zeros 16, params := zeros 128 }
def cast7 : LaunchFields := { sum7 with kind := 0, op := 1 }
def key7 : CollKey := { ctx := 5, group := 7, epoch := 2, collId := 9 }
def piece7 : Piece := {
  first := 0, count := 2, accs := [Acc.blank, Acc.blank], cover := [], checked := [], sent := false, corrupt := false, overflow := false,
  running := false, since := 4 }
def chunk7 : ChunkSt := { blankChunk 0 0 with pieces := [piece7], anchors := List.replicate 16 0 }
def coll7 (f : LaunchFields) (x : ChunkSt) : Coll := {
  key := key7, since := 4, resumed := false, fields := f, ready := [], readySent := true, started := true, chunks := [x],
  committed := [], tries := [], prefixLen := 0, wide := Wide.zero, doneSent := false, dones := [], provLists := [], overflow := false, seen := [] }
def cserv (top : Bool) (st : GroupState) (colls : List Coll) : State := setReg { setReg qserv (glbBase + 8) 0x10100 with
  groups := [(7, group7 top st)], colls := colls } (epBase 0 + 0x900) 0x10101
/-- The module with the collective. -/
def cs (top : Bool) (f : LaunchFields) (x : ChunkSt) : State := cserv top .active [coll7 f x]

/-- A message of collective 9, or of its group, from `src` to `dst`: its header by R271, and the packet that carries it. -/
def ofGroup : CollBody → Bool
  | .planFragment .. => true
  | .planRefuse .. => true
  | .join .. => true
  | .activate => true
  | .close => true
  | .stall .. => true
  | _ => false
def msgOf (src dst : Fid) (tryNo : Nat) (b : CollBody) : CollMsg := { body := b, hdr := { blankHdr with
  ptype := collType b, opcode := collOpcode b, dst := dst, src := src, burgee := burgeeOf 5 0, seq := if ofGroup b then 0 else 9,
  length := BitVec.ofNat 13 (collPayload b).length, tag := 0x1234, region := BitVec.ofNat 32 (7 + 2 * 2 ^ 12 + tryNo * 2 ^ 28) } }
def pktOf (m : CollMsg) : Packet := sealPacket [] m.hdr (collPayload m.body)
def cm (b : CollBody) : CollMsg := msgOf 0x200 0x100 0 b
def cp (b : CollBody) : Packet := pktOf (cm b)

/-- Where a packet leads, as a test. -/
def isModule (s : State) (h : Header) : Bool := match collAt s h with
  | some .module => true
  | _ => false
def isMember (s : State) (h : Header) (b : Nat) : Bool := match collAt s h with
  | some (.member x) => decide (x = b)
  | _ => false
/-- Whether a message is plain, passes steps 1 to 3 of R82 where it arrives, and is what its payload spells. -/
def passes (s : State) (at_ : CollAt) (m : CollMsg) : Bool :=
  inService s && (match at_ with
    | .module => isModule s m.hdr
    | .member b => isMember s m.hdr b && !isQuiet s b) &&
  (headSteps s (collUnitAt s at_ m.hdr) (collKnown s at_ m.hdr) (malformed s (pktOf m)) m.hdr).isNone && !flagEnc m.hdr &&
  decide ((collPayload m.body).length = payloadLen m.hdr) && decide (collMsgOf m.hdr (collPayload m.body) = some m)
theorem brings_of {s : State} {at_ : CollAt} {m : CollMsg} (h : passes s at_ m = true) : Brings s (pktOf m) m.hdr.ptype m.hdr.opcode at_ m := by
  simp only [passes, Bool.and_eq_true, Bool.not_eq_true', decide_eq_true_eq] at h
  obtain ⟨⟨⟨⟨⟨h1, h2⟩, h3⟩, h4⟩, h5⟩, h6⟩ := h
  refine ⟨⟨h1, rfl, rfl, ?_, ?_⟩, collPayload m.body, ?_, h6⟩
  · show collAt s m.hdr = some at_
    cases at_ with
    | module => simp only [isModule] at h2; split at h2 <;> simp_all
    | member b => simp only [isMember, Bool.and_eq_true] at h2; split at h2 <;> simp_all
  · rintro b rfl
    simp_all
  · have ho := open_sealed s [] m.hdr (collPayload m.body) h5 (fun h => by rw [h4] at h; cases h)
    show openSteps s (collUnitAt s at_ m.hdr) (collKnown s at_ m.hdr) (pktOf m) = _
    rw [openSteps, show (pktOf m).hdr = m.hdr from rfl, Option.isNone_iff_eq_none.mp h3]
    show (match openPacket s (pktOf m) with
      | .tagFail bs => Opening.bad _ _ bs
      | .crcFail bs => .bad _ _ bs
      | .ok bs => .ok bs) = _
    rw [pktOf, ho]
/-- A message that the module takes, for a collective that it holds. -/
theorem collIn_of {s : State} {m : CollMsg} {p : Plan} {c : Coll} (h : passes s .module m = true) (hh : decide (planAt s m.group m.epoch = some p ∧
    p.ctx = m.ctx ∧ collOf s (keyOf m) = some c ∧ c.tryOf m.chunk ≤ m.tryNo ∧ seenEntry m ∉ c.seen) = true) :
    CollIn s (pktOf m) m.hdr.ptype m.hdr.opcode m p c := by
  have hh := of_decide_eq_true hh
  exact ⟨brings_of h, hh.1, hh.2.1, hh.2.2.1, fun _ => hh.2.2.2.1, hh.2.2.2.2⟩

theorem witness_CollectiveReception : CollRow .delivered tyCollCtrl ccDelivered ∧
    (let s := cs true sum7 chunk7
     let q := cp .delivered
     let h := q.hdr
     (inService s = true ∧ h.ptype = tyCollCtrl ∧ h.opcode = ccDelivered ∧ isModule s h = true ∧ isMember s { h with dst := 0x101 } 0 = true ∧
       isQuiet s 0 = false) ∧
     tooOld s { h with age := 0xFFFF } = true ∧ tooOld s h = false ∧ malformed s { q with body := [] } = true ∧ malformed s q = false ∧
     collKnown s .module { h with burgee := burgeeOf 6 0 } = false ∧ collKnown s .module h = true ∧ h.dgen = genOf s h.dst ∧ h.sgen = genOf s h.src ∧
     ({ h with dgen := 1 }).dgen ≠ genOf s h.dst ∧ ({ h with sgen := 1 }).sgen ≠ genOf s h.src ∧
     burgeeDead s { h with burgee := burgeeOf 5 1 } = true ∧ burgeeDead s h = false ∧ openPacket s { q with body := zeros 8 } = .crcFail [] ∧
     openPacket s (pktOf { hdr := { h with opcode := ccJoin, length := 0 }, body := .delivered }) = .ok [] ∧
     collMsgOf { h with opcode := ccJoin, length := 0 } [] = none) ∧
    (let s := cs true sum7 chunk7
     passes s .module (cm .delivered) = true ∧ planAt { s with groups := [] } 7 2 = none ∧ planAt s 7 2 = some (planOf7 true) ∧ (planOf7 true).ctx = 5 ∧
     (planOf7 true).ctx ≠ 6 ∧ collOf { s with colls := [] } key7 = none ∧ collOf s key7 = some (coll7 sum7 chunk7) ∧
     ofChunk (cm .delivered) = true ∧ (cm .delivered).tryNo < ({ coll7 sum7 chunk7 with tries := [(0, 1)] } : Coll).tryOf 0 ∧
     seenEntry (cm .delivered) ∈ ({ coll7 sum7 chunk7 with seen := [seenEntry (cm .delivered)] } : Coll).seen) :=
  ⟨.delivered, by decide +kernel, by decide +kernel⟩
/-- FINISH concerns no chunk: it has its effect although chunk 0 is at a later try. -/
theorem witness_CollectiveReception_late :
    (let c : Coll := { coll7 sum7 chunk7 with tries := [(0, 1)] }
     Held (cserv true .active [c]) (cm (.finish 0 (zeros 48))) (planOf7 true) c) ∧ ofChunk (cm (.finish 0 (zeros 48))) = false ∧
    (cm (.finish 0 (zeros 48))).tryNo < ({ coll7 sum7 chunk7 with tries := [(0, 1)] } : Coll).tryOf (cm (.finish 0 (zeros 48))).chunk := by
  refine ⟨⟨by decide +kernel, by decide +kernel, by decide +kernel, fun h => absurd h (by decide +kernel), by decide +kernel⟩, by decide +kernel⟩
/-- A packet of an encrypted context whose tag does not verify. -/
theorem witness_CollectiveReception_tag : ∃ body : Bytes, body.length = 24 ∧
    ∃ bs, openPacket encHome { hdr := { (cp .delivered).hdr with flags := flagsOf false true false false false false }, body := body } = .tagFail bs :=
  tag_fails encHome _ (zeros 32) 8 (by decide +kernel) (by decide +kernel)

/-- Every kind of message that the module takes for the collective. -/
def bodies7 : List CollBody := [.go .data 4096, .go .scan 4096, .scan [4], .anchors [3, 3], .contrib [1, 0, 0, 0, 2, 0, 0, 0], .partialSum (zeros 37),
  .result [1, 0, 0, 0], .checked 2 true false, .checked 2 false false, .delivered, .commit false, .retract 1, .provCrc [(1, 7)], .provList [7],
  .done (zeros 83), .done (zeros 80 ++ [1, 0, 0]), .finish 0 (zeros 48)]
theorem witness_CollectiveAtModule_messages : ∀ b ∈ bodies7, ∀ top ∈ [true, false], ∀ f ∈ [sum7, cast7],
    CollIn (cs top f chunk7) (cp b) (collType b) (collOpcode b) (cm b) (planOf7 top) (coll7 f chunk7) := by
  intro b hb top ht f hf
  refine collIn_of (m := cm b) ?_ ?_
  · have h : (bodies7.all (fun b => [true, false].all (fun top => [sum7, cast7].all (fun f => passes (cs top f chunk7) .module (cm b))))) = true := by
      decide +kernel
    simp only [List.all_eq_true] at h
    exact h b hb top ht f hf
  · have h : (bodies7.all (fun b => [true, false].all (fun top => [sum7, cast7].all (fun f => decide (
        planAt (cs top f chunk7) (cm b).group (cm b).epoch = some (planOf7 top) ∧ (planOf7 top).ctx = (cm b).ctx ∧
        collOf (cs top f chunk7) (keyOf (cm b)) = some (coll7 f chunk7) ∧ (coll7 f chunk7).tryOf (cm b).chunk ≤ (cm b).tryNo ∧
        seenEntry (cm b) ∉ (coll7 f chunk7).seen))))) = true := by decide +kernel
    simp only [List.all_eq_true] at h
    exact h b hb top ht f hf

/-- A scan of every child of the module under the root 0x300. -/
def scanned : ChunkSt := { chunk7 with scans := [(0x101, 0, List.replicate 16 3), (0x200, 0, List.replicate 15 3)] }
theorem witness_CollectiveAtModule :
    ((coll7 sum7 chunk7).chunkAt 0 = some chunk7 ∧ chunk7.tryNo = (cm .delivered).tryNo) ∧
    (mayGo (cs true sum7 chunk7) 7 = true ∧ mayGo (cserv true .stalled [coll7 sum7 chunk7]) 7 = false ∧
      passes (cserv true .stalled [coll7 sum7 chunk7]) .module (cm (.go .scan 4096)) = true ∧
      passes (cserv true .stalled [coll7 sum7 chunk7]) .module (cm (.commit false)) = true) ∧
    (let n := groupsOf sum7 2 0
     let kids := (kidsOf (planOf7 false) 0x100).filter (fun f => kidGives (planOf7 false) sum7 f 0 0 (chunkSize sum7 2 0))
     me (cs false sum7 scanned) = 0x100 ∧ n = 16 ∧ kids = [0x101, 0x200] ∧ chunk7.anchors.length = n ∧ scanned.scanSent = false ∧
     kids.all (fun f => (scanOf { scanned with scans := scanned.scans ++ [(0x200, 15, [4])] } f n).isSome) = true ∧
     kids.all (fun f => (scanOf { chunk7 with scans := [(0x200, 0, [4])] } f n).isSome) = false ∧ rootOfChunk (planOf7 false) 0 ≠ 0x100 ∧
     rootOfChunk (planOf7 true) 0 = me (cs true sum7 chunk7)) ∧
    (chunk7.pieceAt 0 = some piece7 ∧ reduces sum7 = true ∧ reduces cast7 = false ∧ isArmed (cs true sum7 chunk7) (coll7 sum7 chunk7) = false ∧
      (∀ y ∈ contribAccs sum7 chunk7 0 (payloadElems (arithIn sum7.arith) 8) [1, 0, 0, 0, 2, 0, 0, 0], y.sat = false)) ∧
    (partialCount (zeros 37) = 2 ∧ badResidues sum7 ((List.range 2).map (fun i => partialAcc (zeros 37) 2 false i)) = 0) ∧
    (finishComes sum7 = false ∧ isRoot (cs false sum7 chunk7) (planOf7 false) = false ∧ (coll7 sum7 chunk7).committed.length + 1 = chunkCount sum7 2 ∧
      0 ∉ (coll7 sum7 chunk7).committed) ∧
    (isRoot (cs true sum7 chunk7) (planOf7 true) = true ∧ chunk7.tryNo < 1) := by
  (repeat' apply And.intro) <;> decide +kernel
/-- A CONTRIB that fails its check after the steps before it. -/
theorem witness_CollectiveAtModule_corrupt :
    (let s := cs true sum7 chunk7
     let q : Packet := { cp (.contrib [1, 0, 0, 0]) with body := [1, 0, 0, 0] ++ zeros 8 }
     inService s = true ∧ q.hdr.ptype = tyColl ∧ q.hdr.opcode = coContrib ∧ isModule s q.hdr = true ∧ collFieldsOk q.hdr = true ∧
     (match openSteps s (collUnit s key7 0) (collKnown s .module q.hdr) q with
      | .bad _ _ d => decide (d = [1, 0, 0, 0])
      | _ => false) = true) := by decide +kernel
theorem test_contrib : ok (exec (.contrib (cp (.contrib [1, 0, 0, 0, 2, 0, 0, 0]))) (cs true sum7 chunk7)) (fun t =>
    decide ((pieceIn t (cm .delivered)).map (·.cover) = some [(0x200, 2)])) = true := by decide +kernel
theorem test_go_data : ok (exec (.go (cp (.go .data 4096))) (cs false sum7 chunk7)) (fun t =>
    decide ((chunkIn t (cm .delivered)).map (fun x => (x.dataGone, x.ranges)) = some (true, [(0, 4096)]))) = true := by decide +kernel
theorem test_delivered : ok (exec (.delivered (cp .delivered)) (cs true sum7 chunk7)) (fun t =>
    decide ((chunkIn t (cm .delivered)).map (·.delivered) = some [0x200])) = true := by decide +kernel
theorem test_retract : ok (exec (.retract (cp (.retract 1))) (cs false sum7 chunk7)) (fun t =>
    decide ((chunkIn t (cm .delivered)).map (fun x => (x.tryNo, x.pieces)) = some (1, []))) = true := by decide +kernel
theorem test_commit : ok (exec (.commit (cp (.commit false))) (cs false sum7 chunk7)) (fun t => decide (collOf t key7 = none)) = true := by
  decide +kernel

theorem sealed_length (key : Bytes) (h : Header) (payload : Bytes) :
    (sealPacket key h payload).body.length = payload.length + 8 + 16 * b01 (flagEnc h) := by
  cases he : flagEnc h <;> simp [sealPacket, sealAs, he, gcmSeal_length, b01]

/-- Launch messages that a root or another sends, an ABORT and READYs. -/
def abort7 : CollBody := .abort 1 0 0
def ready7 (f : LaunchFields) : CollBody := .ready f 0
def readied : Coll := { coll7 sum7 chunk7 with ready := [(0x101, 0)] }
theorem witness_CollectiveEnds :
    (passes (cs true sum7 chunk7) .module (msgOf 0x100 0x100 0 (.done (zeros 83))) = true ∧
      (msgOf 0x100 0x100 0 (.done (zeros 83))).src ∈ (planOf7 true).roots ∧ (cm .delivered).src ∉ (planOf7 true).roots ∧
      (coll7 sum7 chunk7).dones.any (fun d => decide (d.1 = 0x100)) = false ∧ (wideFrom (zeros 83)).checks = true ∧
      (wideFrom (zeros 80 ++ [1, 0, 0])).checks = false ∧ passes (cs true sum7 chunk7) .module (msgOf 0x100 0x100 0 (.done (zeros 80 ++ [1, 0, 0]))) = true) ∧
    (passes (cs true sum7 chunk7) .module (cm abort7) = true ∧ passes { cs true sum7 chunk7 with groups := [] } .module (cm abort7) = true ∧
      planAt { cs true sum7 chunk7 with groups := [] } 7 2 = none ∧ passes (cs false sum7 chunk7) .module (cm abort7) = true ∧
      me (cs true sum7 chunk7) = primaryOf (planOf7 true) ∧ me (cs false sum7 chunk7) ≠ primaryOf (planOf7 false) ∧
      (cm abort7).collId ∈ ({ group7 true .active with aborted := [9] } : Group).aborted) ∧
    (passes (cserv true .active []) .module (cm (ready7 sum7)) = true ∧ (cm (ready7 sum7)).src ∈ kidsOf (planOf7 true) (me (cs true sum7 chunk7)) ∧
      hasKey (cs true sum7 chunk7) 5 = true ∧ collOf (cserv true .active []) key7 = none) ∧
    (passes (cserv true .active [readied]) .module (cm (ready7 sum7)) = true ∧ passes (cserv true .active [readied]) .module (cm (ready7 cast7)) = true ∧
      collOf (cserv true .active [readied]) key7 = some readied ∧ readied.ready ≠ [] ∧ readied.ready.any (fun r => decide (r.1 = 0x200)) = false ∧
      ({ readied with ready := [(0x200, 0)] } : Coll).ready.any (fun r => decide (r.1 = 0x200)) = true ∧ readied.fields ≠ cast7 ∧ readied.fields = sum7) := by
  (repeat' apply And.intro) <;> decide +kernel
/-- A READY under a key that is live at a module without a send epoch. -/
def noSend : State := { cserv true .active [readied] with
  ctxs := [(5, { ctx5 with enc := true })]
  sec := { qserv.sec with keys := [(5, { live := [(0, zeros 32)], send := none, harbour := none, claim := none, retired := [] })] } }
def encReady : CollMsg := { cm (ready7 sum7) with hdr := { (cm (ready7 sum7)).hdr with flags := flagsOf false true false false false false } }
theorem witness_CollectiveEnds_noKey : hasKey noSend 5 = false ∧
    ∃ q, Brings noSend q tyCollCtrl ccReady .module encReady := by
  refine ⟨by decide +kernel, sealPacket (zeros 32) encReady.hdr (collPayload encReady.body), ⟨by decide +kernel, rfl, rfl, ?_, ?_⟩,
    collPayload encReady.body, ?_, by decide +kernel⟩
  · have h : isModule noSend encReady.hdr = true := by decide +kernel
    show collAt noSend encReady.hdr = _
    simp only [isModule] at h; split at h <;> simp_all
  · rintro b h; cases h
  · have ho := open_sealed noSend (zeros 32) encReady.hdr (collPayload encReady.body) (by decide +kernel) (fun _ => by decide +kernel)
    have hm : malformed noSend (sealPacket (zeros 32) encReady.hdr (collPayload encReady.body)) = false := by
      rw [malformed, sealed_length, show (sealPacket (zeros 32) encReady.hdr (collPayload encReady.body)).hdr = encReady.hdr from rfl]
      decide +kernel
    have hh : (headSteps noSend (collUnitAt noSend .module encReady.hdr) (collKnown noSend .module encReady.hdr) false encReady.hdr).isNone = true := by
      decide +kernel
    show openSteps noSend (collUnitAt noSend .module encReady.hdr) (collKnown noSend .module encReady.hdr) _ = _
    rw [openSteps, hm, show (sealPacket (zeros 32) encReady.hdr (collPayload encReady.body)).hdr = encReady.hdr from rfl,
      Option.isNone_iff_eq_none.mp hh, ho]
theorem test_abort : ok (exec (.abort (cp abort7)) (cs false sum7 chunk7)) (fun t => decide (collOf t key7 = none)) = true := by decide +kernel
theorem test_ready : (collOf (onReady (cserv true .active []) (planOf7 true) (cm (ready7 sum7)) sum7 0) key7).map (fun d => (d.ready, d.started)) =
    some ([(0x200, 0)], false) := by decide +kernel
theorem test_ready_differs : collOf (onReady (cserv true .active [readied]) (planOf7 true) (cm (ready7 cast7)) cast7 0) key7 = none := by decide +kernel

/-- A claim of two slots, and the pool of class 0; a chunk that awaits the scans of its children since time 6. -/
def claim7 : Claim := { key := key7, cls := 0, slots := 0, asked := 2, granted := false, fallback := false, die := 4, placedAt := 10 }
def claiming (pool : Word) (c : Claim) : State := setReg { cs true sum7 chunk7 with claims := [c] } (mgBase + 0x308) pool
def scanning : ChunkSt := { blankChunk 0 0 with scanGone := true, scanAt := 6, anchors := List.replicate 16 0 }
theorem witness_ClaimsAndStalls :
    (inService (claiming 1 claim7) = true ∧ (claiming 1 claim7).claims.find? (fun c => decide (c.cls = 0) && !c.granted && !c.fallback) = some claim7 ∧
      (claiming 1 claim7).claims.find? (fun c => decide (c.cls = 1) && !c.granted && !c.fallback) = none) ∧
    (poolOf (claiming 1 claim7) 0 < poolUsed (claiming 1 claim7) 0 + claim7.asked ∧ poolUsed (claiming 2 claim7) 0 + claim7.asked ≤ poolOf (claiming 2 claim7) 0) ∧
    (claimOf (claiming 1 claim7) key7 = some claim7 ∧ collOf (claiming 1 claim7) key7 = some (coll7 sum7 chunk7) ∧
      planAt (claiming 1 claim7) 7 2 = some (planOf7 true) ∧ claim7.granted = false ∧ claim7.fallback = false ∧
      { claim7 with granted := true }.granted = true) ∧
    (groupOf (cs true sum7 scanning) 7 = some (group7 true .active) ∧ (group7 true .active).plan.group = 7 ∧ (group7 true .active).state = .active ∧
      (group7 true .stalled).state ≠ .active ∧ collOf (cs true sum7 scanning) key7 = some (coll7 sum7 scanning) ∧
      awaited (cs true sum7 scanning) (planOf7 true) (coll7 sum7 scanning) 0 = [(6, 0x101), (6, 0x200)] ∧
      awaited (cs true sum7 { scanning with scanGone := false }) (planOf7 true) (coll7 sum7 { scanning with scanGone := false }) 0 = []) := by decide +kernel
theorem test_claim_grant : ok (exec (.claimGrant 0) (claiming 2 claim7)) (fun t =>
    decide ((claimOf t key7).map (fun c => (c.granted, c.slots)) = some (true, 2))) = true := by decide +kernel
theorem test_claim_waits : ok (exec (.claimGrant 0) (claiming 1 claim7)) (fun t => decide (claimOf t key7 = some claim7)) = true := by decide +kernel
theorem test_stall : ok (exec (.stallTimeout 7 9 0) (cs true sum7 scanning)) (fun t =>
    decide ((groupOf t 7).map (fun g => (g.state, g.missing)) = some (.stalled, [0x101, 0x200]) ∧ t.now = 6 + us (stallUs t))) = true := by decide +kernel
theorem test_no_stall : ok (exec (.stallTimeout 7 9 0) (cs true sum7 { scanning with scanGone := false })) (fun t =>
    decide ((groupOf t 7).map (·.state) = some .active)) = true := by decide +kernel

/-- The record of a plan: member 0x201 below 0x200, below the root 0x100; the CRC is that of R75 over the record, worked out in two parts. -/
def record7 (crc : Bytes) : Bytes := [5, 0, 0x70, 0, 2, 0, 0x10, 0, 1, 0, 0, 0, 2, 0, 1, 0] ++ crc ++ zeros 40 ++ [1, 2, 0, 2] ++
  [0, 1, 0xFF, 0xFF, 0, 0, 0, 0] ++ [0, 2, 0, 1, 0, 0, 0, 0] ++ [0, 1, 0, 0]
def crc7 : Bytes := [0x1E, 0x47, 0xFD, 0xE9, 0x71, 0x40, 0x98, 0x3D]
theorem record7_crc : crc64 (record7 (zeros 8)) = 0x3D984071E9FD471E := by
  have h1 : ((record7 (zeros 8)).take 48).foldl crcByte (~~~(0 : DWord)) = 0x851fb408b0b305ab := by decide +kernel
  have h2 : ((record7 (zeros 8)).drop 48).foldl crcByte 0x851fb408b0b305ab = ~~~(0x3D984071E9FD471E : DWord) := by decide +kernel
  simp only [crc64, crcMore]
  rw [← List.take_append_drop 48 (record7 (zeros 8)), List.foldl_append, h1, h2]
  decide +kernel
theorem record7_ok : planOk (cserv true .active []) (record7 crc7) 5 7 = true := by
  have hc : BitVec.ofNat 64 (fieldAt (record7 crc7) 16 8) = crc64 ((record7 crc7).take 16 ++ zeros 8 ++ (record7 crc7).drop 24) := by
    rw [show (record7 crc7).take 16 ++ zeros 8 ++ (record7 crc7).drop 24 = record7 (zeros 8) by decide +kernel, record7_crc]
    decide +kernel
  simp only [planOk, hc, decide_true, Bool.and_true]
  decide +kernel
/-- A module 0x100 without groups; one with a FORMING group; a group command that waits for 0x200. -/
def gcmd : GroupCmd := { cmd := 0, ctx := 5, group := 7, epoch := 2, cls := 0, fresh := [], waiting := [0x200], closing := false, status := 0 }
def fresh7 : State := { cserv true .active [] with groups := [] }
def group8 : Group := { plan := planFrom (record7 crc7), newPlan := none, state := .forming, issuer := 0x200, joined := [], joinSent := false, since := 0,
                        missing := [], aborted := [] }
theorem witness_GroupMessages :
    ((∀ b ∈ [CollBody.planFragment 0 [1] false false, .planFragment 0 (record7 crc7) true false, .planFragment 0 [0] true false, .planRefuse 0x0B false, .join false,
        .activate, .close, .stall [0x200]], passes fresh7 .module (cm b) = true) ∧
      (∀ b ∈ [CollBody.join false, .activate, .close, .stall []], epochHeld fresh7 (cm b) = false ∧ passes fresh7 (.member 0) (msgOf 0x200 0x101 0 b) = true)) ∧
    (fresh7.planBufs = [] ∧ groupOf fresh7 7 = none ∧ record7 crc7 ≠ [] ∧ planOk fresh7 [0] 5 7 = false) ∧
    (leafOk fresh7 (planFrom (record7 crc7)) = true ∧ (planEntry (planFrom (record7 crc7)) (me fresh7)).isSome = true ∧
      (planFrom (record7 crc7)).epoch = 2 ∧ joinedAll fresh7 group8 (planFrom (record7 crc7)) = false ∧
      (let s := setReg fresh7 (glbBase + 8) 0x10400
       leafOk s (planFrom (record7 crc7)) = true ∧ (planEntry (planFrom (record7 crc7)) (me s)).isSome = false)) ∧
    (fresh7.groupCmds.find? (fun c => decide (c.group = 7) && decide (c.epoch = 2) && !c.closing && decide ((0x200 : Fid) ∈ c.waiting)) = none ∧
      ({ fresh7 with groupCmds := [gcmd] } : State).groupCmds.find?
        (fun c => decide (c.group = 7) && decide (c.epoch = 2) && !c.closing && decide ((0x200 : Fid) ∈ c.waiting)) = some gcmd) := by
  (repeat' apply And.intro) <;> decide +kernel
theorem witness_GroupMessages_more :
    (let s := cserv true .forming []
     let g := group7 true .forming
     (∀ b ∈ [CollBody.join false, .join true, .close, .stall []], passes s .module (cm b) = true) ∧
     passes s .module (msgOf 0x100 0x100 0 .activate) = true ∧ 0x100 = primaryOf g.plan ∧
     groupOf s 7 = some g ∧ g.plan.group = 7 ∧ g.plan.ctx = 5 ∧ g.newPlan = none ∧ g.plan.epoch = 2 ∧ g.state = .forming ∧
     planEntry g.plan 0x200 ≠ none ∧ 0x200 ∉ g.joined ∧ 0x200 ∈ { g with joined := [0x200] }.joined ∧ me s = primaryOf g.plan ∧
     joinedAll { s with ctxs := [] } { g with joined := [0x200] } g.plan = false ∧ s.groupCmds = [] ∧ s.colls = [] ∧ launchesOf s 7 = []) ∧
    (let s := cserv false .forming []
     let g := group7 false .forming
     groupOf s 7 = some g ∧ joinedAll s g g.plan = false ∧ me s ≠ primaryOf g.plan) ∧
    ((group7 true .active).state = .active ∧ (group7 true .forming).state ≠ .active) ∧
    (∀ b ∈ [CollBody.join false, .activate, .close, .stall []], epochHeld (cserv true .active []) (msgOf 0x200 0x101 0 b) = true ∧
      passes (cserv true .active []) (.member 0) (msgOf 0x200 0x101 0 b) = true) := by
  (repeat' apply And.intro) <;> decide +kernel
theorem test_activate : ok (exec (.activate (pktOf (msgOf 0x300 0x100 0 .activate))) (cserv false .forming [])) (fun t =>
    decide ((groupOf t 7).map (·.state) = some .active)) = true := by decide +kernel
theorem test_close : ok (exec (.close (cp .close)) (cs false sum7 chunk7)) (fun t => decide (groupOf t 7 = none ∧ t.colls = [])) = true := by
  decide +kernel
theorem test_join : ok (exec (.join (cp (.join false))) (cserv false .forming [])) (fun t =>
    decide ((groupOf t 7).map (·.joined) = some [0x200])) = true := by decide +kernel

/-- The launch of member 0 on block 0, its command, and a message of its module. -/
def launch7 : Launch := { key := key7, cmd := 4, block := 0, member := 0, fields := { sum7 with count := 8192 }, committed := 0, heldCommits := [],
                          overflow := false, tries := [], seen := [], finish := none }
def lcmd : Cmd := { newCmd qserv 0 512 q512 (fetchedOf (descOf 0x60 (zeros 24 ++ [1]))) with id := 4, phase := .started }
def atMem (l : Launch) : State := { cserv true .active [] with launches := [l], cmds := [lcmd], fresh := 9 }
def mm (b : CollBody) : CollMsg := msgOf 0x100 0x101 0 b
def again7 : Launch := { launch7 with tries := [(0, 1)] }
theorem witness_CollectiveAtMember :
    (let s := atMem launch7
     let m := mm .delivered
     planAt s m.group m.epoch = some (planOf7 true) ∧ (planOf7 true).ctx = m.ctx ∧ memberIndex (planOf7 true) m.dst ≠ none ∧
     launchOf s 0 m = some launch7 ∧ cmdOf s launch7.cmd = some lcmd ∧ launchTry launch7 m.chunk ≤ m.tryNo ∧
     (∀ b ∈ [CollBody.result [1, 0, 0, 0], .go .scan 4, .go .data 4, .commit false, .retract 1, .abort stProtocol 0 0, .finish 7 (zeros 48)],
       passes s (.member 0) (mm b) = true)) ∧
    ((opCode (mm (.commit false)), 0, 0, 0) ∈ ({ launch7 with seen := [(opCode (mm (.commit false)), 0, 0, 0)] } : Launch).seen ∧
      (opCode (mm (.commit false)), 0, 0, 0) ∉ launch7.seen) ∧
    ((mm .delivered).chunk = launch7.committed ∧ launch7.heldCommits = [] ∧ launch7.fields.chunkSignal = false ∧
      launch7.committed + 1 < chunkCount launch7.fields 2 ∧ redelivered (atMem launch7) (planOf7 true) launch7 lcmd 0 = true ∧
      redelivered (atMem again7) (planOf7 true) again7 lcmd 0 = false ∧ passes (atMem again7) (.member 0) (msgOf 0x100 0x101 1 (.commit false)) = true ∧
      launchTry again7 0 ≤ (msgOf 0x100 0x101 1 (.commit false)).tryNo ∧
      chunkCount launch7.fields 2 ≤ ({ launch7 with committed := 2 } : Launch).committed ∧ launch7.fields.prov = false) := by
  (repeat' apply And.intro) <;> decide +kernel
theorem test_member_commit : ok (exec (.commit (pktOf (mm (.commit false)))) (atMem launch7)) (fun t =>
    decide ((launchOf t 0 (mm .delivered)).map (·.committed) = some 1)) = true := by decide +kernel
theorem test_member_commit_waits : ok (exec (.commit (pktOf (msgOf 0x100 0x101 1 (.commit false)))) (atMem again7)) (fun t =>
    decide ((launchOf t 0 (mm .delivered)).map (fun l => (l.committed, l.heldCommits)) = some (0, [(0, false)]))) = true := by decide +kernel
theorem test_member_finish : ok (.next (settle (atMember (atMem { launch7 with committed := 2 }) 0 (mm (.finish 7 (zeros 48))) false (fun s p l _ =>
    memberFinish s p l 7 (zeros 48))))) (fun t =>
    decide (t.launches = [] ∧ left t = ([(0, 0)], some ([7, 8], [9, 10])))) = true := by decide +kernel

/-- A BARRIER of the group, launched on a queue of block 0, which serves its first member. -/
def launchDesc : Bytes := descOf 0x60 [7, 0, 0, 0, 0, 0, 0, 0, 9]
def launching : State := { sWith launchDesc with
  groups := [(7, group7 true .active)], regs := (cserv true .active []).regs }
theorem witness_DescriptorAcceptance_launch :
    NextIs launching 0 512 (qWith launchDesc) (fetchedOf launchDesc) [] ∧ isOp 0x60 launchDesc = true ∧ inTeardown launching 5 = false ∧
    headerOk launching 5 launchDesc = true ∧ takesExt launchDesc = false ∧
    (checkLaunch (accepting launching 0 512 (qWith launchDesc) (fetchedOf launchDesc) []) (newCmd launching 0 512 (qWith launchDesc) (fetchedOf launchDesc))).2 =
      .go 0x100 := by unfold NextIs accepting; (repeat' apply And.intro) <;> decide +kernel

/-- An armed die: the first piece of the chunk waits for one of two children. -/
def armed7 : State := setReg { cs true sum7 { chunk7 with pieces := [{ piece7 with cover := [(0x200, 2)] }] } with
  claims := [{ claim7 with granted := true, slots := 2 }] } (ariBase 4 + 0x414) 1
theorem witness_WritesThatStart_armed : armed7.mode = .service ∧ armedTarget armed7 4 = some (key7, 0, 0, 0) ∧ armedTarget serv 4 = none := by decide +kernel
theorem test_residue_fires : ok (exec (.residueInjectFire 4) armed7) (fun t =>
    decide ((pieceIn t (cm .delivered)).map (fun q => q.accs.map (·.residue)) = some [1, 0] ∧ reg t (ariBase 4 + 0x414) = 0)) = true := by decide +kernel

/-! ## Votes, ensign sessions, lock-step -/

/-- A shard of set 3 of context 5, one of two roots, and a vote on its next step. -/
def skey : SetKey := { ctx := 5, hset := 3 }
def shard3 (st : ShardState) : Shard := {
  key := skey, digest := false, priority := 0, keep := 2, transient := 0, stripeLog2 := 12, fmts := [2, 0, 0, 0],
  rootCount := 2, rootIndex := 0, elements := 4096, version := 4, state := st, hash := zeros 48, stepWritten := [], everWritten := [], lost := [],
  units := [], createdNo := 0 }
def vote3 (coord : Bool) : Vote := {
  key := skey, step := 5, coordinator := coord, cmd := none, peers := [0x100, 0x300], yes := [], preparing := false,
  failed := [], answers := [], deciding := false, waiting := [0, 1], unreached := [], coordinatorLost := false, votedAt := 10, cls := none }
def voting (st : ShardState) (votes : List Vote) : State := setReg (setReg { qserv with hb := { qserv.hb with shards := [shard3 st], votes := votes } }
  (glbBase + 8) 0x10100) (glbBase + 0x20) 1
/-- A record of KIND, REASON, sender's ROOT_INDEX and STEP, from a memory die of 0x300. -/
def vmsg (kind reason : Byte) (root step : Nat) : VoteMsg := {
  src := 0x300, unit := 0x50, ctx := 5, record := voteBytes kind reason root 3 step [], peers := [0x100, 0x300] }
theorem witness_CommitVote : [(1, 0), (2, 0), (3, 2), (4, 0), (5, 0), (6, 0), (7, 2)].all (fun kr => decide (
      voteLegal (voting .opened []) (vmsg kr.1 kr.2 1 5) = true ∧ voteRecordOk (vmsg kr.1 kr.2 1 5).record = true ∧ voteKind (vmsg kr.1 kr.2 1 5) = kr.1 ∧
      voteStep (vmsg kr.1 kr.2 1 5) = 5 ∧ voteRoot (vmsg kr.1 kr.2 1 5) = 1 ∧
      shardOf (voting .opened []) (voteKey (vmsg kr.1 kr.2 1 5)) = some (shard3 .opened) ∧
      shardOf qserv (voteKey (vmsg kr.1 kr.2 1 5)) = none ∧ voteLegal (voting .opened []) { vmsg kr.1 kr.2 1 5 with unit := 3 } = false ∧
      voteRecordOk ((vmsg kr.1 kr.2 1 5).record.set 3 1) = false)) = true := by decide +kernel
theorem witness_CommitVote_2 : (voteOf (voting .opened []) skey = none ∧ 5 = (shard3 .opened).version + 1 ∧ hasWriter (voting .opened []) skey = false ∧
      (boundPorts (voting .opened []) skey).any (fun p => !p.2.unload) = false ∧ (shard3 .opened).digest = false ∧
      forwardList (shard3 .opened) = [] ∧ voteStep (vmsg 1 0 1 6) ≠ (shard3 .opened).version + 1) := by decide +kernel
theorem witness_CommitVote_3 : (let s := voting .opened []
     (boundPorts { s with hb := { s.hb with ports := [(0, { binds := 1, bound := some skey, unload := false, array := 0, version := 5 })] } } skey).any
       (fun p => !p.2.unload) = true) := by decide +kernel
theorem witness_CommitVote_4 : (let v := vote3 true
     voteOf (voting .prepared [v]) skey = some v ∧ v.coordinator = true ∧ v.deciding = false ∧ fromShard v (vmsg 2 0 1 5) = true ∧
     v.yes.any (fun p => decide (p.1 = 1)) = false ∧ peersBut v 0 ≠ [] ∧
     (∀ y ∈ [([], false), ([(0, 9)], true)], let w : Vote := { v with yes := y.1 ++ [(1, 0)] }
       voteOf (voting .prepared [{ v with yes := y.1 }]) skey = some { v with yes := y.1 } ∧
       (List.range 2).all (fun i => w.yes.any (fun p => decide (p.1 = i))) = y.2) ∧
     (∀ n ∈ [([], false), ([(0, stDestLost)], true)], let w : Vote := { v with failed := n.1 ++ [(1, stStateRejected)] }
       voteOf (voting .prepared [{ v with failed := n.1 }]) skey = some { v with failed := n.1 } ∧
       (List.range 2).all (fun i => w.yes.any (fun p => decide (p.1 = i)) || w.failed.any (fun p => decide (p.1 = i))) = n.2) ∧
     (List.range 2).all (fun i => [((1 : Nat), (0 : DWord))].any (fun p => decide (p.1 = i)) || [((0 : Nat), stDestLost)].any (fun p => decide (p.1 = i))) = true) := by decide +kernel
theorem witness_CommitVote_5 : ((shard3 .prepared).state = .prepared ∧ (shard3 .prepared).version + 1 = voteStep (vmsg 4 0 1 5) ∧ (shard3 .idle).state ≠ .prepared ∧
  (shard3 .opened).state = .opened ∧ (shard3 .prepared).version + 1 ≠ voteStep (vmsg 5 0 1 6)) := by decide +kernel
theorem witness_CommitVote_7 :
    (let gone : Vote := { vote3 false with coordinatorLost := true }
     voteOf (voting .prepared [gone]) skey = some gone ∧ coordinatorGone gone = true ∧ gone.preparing = false ∧ gone.coordinator = false ∧
     shardOf (voting .prepared [gone]) skey = some (shard3 .prepared)) ∧ coordinatorGone (vote3 false) = false := by decide +kernel
theorem test_abort_of_an_open_step : ok (exec (.decideAbort (vmsg 5 0 1 9)) (voting .opened [])) (fun t =>
    decide ((shardOf t skey).map (fun h => (h.version, h.state)) = some (4, .idle))) = true := by decide +kernel
theorem test_lone_peer_aborts : ok (exec (.preparedQueryTimer skey) (voting .prepared [{ vote3 false with coordinatorLost := true }])) (fun t =>
    decide ((shardOf t skey).map (·.state) = some .idle ∧ voteOf t skey = none)) = true := by decide +kernel
theorem witness_CommitVote_6 : (let v := vote3 false
     voteOf (voting .prepared [v]) skey = some v ∧ v.coordinator = false ∧ v.preparing = false ∧ v.answers = [] ∧
     v.peers[voteRoot (vmsg 7 0 1 5)]? = some (vmsg 7 0 1 5).src ∧ v.step ≤ voteStep (vmsg 7 0 1 5) ∧
     voteStep (vmsg 7 1 1 4) + 1 = v.step ∧ voteReason (vmsg 7 1 1 4) ≠ 2 ∧ voteStep (vmsg 7 2 1 4) < v.step ∧ voteReason (vmsg 7 2 1 4) = 2 ∧
     v.waiting.erase (voteRoot (vmsg 7 2 1 4)) ≠ [] ∧ inService (voting .prepared [v]) = true ∧ { v with preparing := true }.preparing = true) := by decide +kernel
theorem test_prepare : ok (exec (.prepare (vmsg 1 0 1 5)) (voting .opened [])) (fun t => decide ((shardOf t skey).map (·.state) = some .prepared)) = true := by
  decide +kernel
theorem test_reserved_vote : ok (exec (.prepare { vmsg 1 0 1 5 with record := (vmsg 1 0 1 5).record.set 14 1 }) (voting .opened [])) (fun t =>
    decide ((shardOf t skey).map (·.state) = some .opened)) = true := by decide +kernel
theorem test_decide_commit : ok (exec (.decideCommit { vmsg 4 0 1 5 with record := voteBytes 4 0 1 3 5 [7] }) (voting .prepared [vote3 false])) (fun t =>
    decide ((shardOf t skey).map (fun h => (h.version, h.state, h.hash.take 2)) = some (5, .idle, [7, 0]) ∧ voteOf t skey = none)) = true := by
  decide +kernel
theorem test_decide_abort : ok (exec (.decideAbort (vmsg 5 0 1 5)) (voting .prepared [vote3 false])) (fun t =>
    decide ((shardOf t skey).map (fun h => (h.version, h.state)) = some (4, .idle))) = true := by decide +kernel
/-- Context 5 encrypted with a live key, and its session 9. -/
def sess9 (seq : Nat) (reply : Bytes) : Session := { ctx := 5, toModule := zeros 32, toTenant := zeros 32, lastSeq := seq, reply := reply, lastAt := 4 }
def secure (x : Session) : State := { fid with
  ctxs := [(5, { ctx5 with enc := true })]
  sec := { fid.sec with
    sessions := [(9, x)]
    keys := [(5, { live := [(1, zeros 32)], send := some 1, harbour := none, claim := none, retired := [] })] } }
def hdr9 (type len seq : Byte) : Bytes := [type, 1, len, 0, 9, 0, 0, 0, seq, 0, 0, 0, 0, 0, 0, 0]
def sealed9 (type seq : Byte) (b : Bytes) : Bytes :=
  hdr9 type (BitVec.ofNat 8 (b.length + 32)) seq ++ gcmSeal (zeros 32) (sealedIv 0 seq.toNat) (hdr9 type (BitVec.ofNat 8 (b.length + 32)) seq) b
def activate9 : Bytes := List.replicate 32 7 ++ [1] ++ zeros 7
def hello9 : Bytes := [1, 1, 156, 0] ++ zeros 12 ++ [5, 0, 0, 0] ++ zeros 36 ++ pointBytes bpG ++ zeros 3
theorem sealed9_opens (type seq : Byte) (b : Bytes) (ht : (type, seq, b) = (4, 1, activate9) ∨ (type, seq, b) = (6, 1, zeros 8)) :
    gcmOpen (zeros 32) (sealedIv 0 (msgSeq (sealed9 type seq b))) ((sealed9 type seq b).take 16) ((sealed9 type seq b).drop 16) = some b ∧
    msgOk (sealed9 type seq b) = true ∧ msgType (sealed9 type seq b) = type.toNat ∧ msgSession (sealed9 type seq b) = 9 := by
  have h (hd iv : Bytes) (hh : (sealed9 type seq b).take 16 = hd) (hi : sealedIv 0 (msgSeq (sealed9 type seq b)) = iv)
      (hs : (sealed9 type seq b).drop 16 = gcmSeal (zeros 32) iv hd b) :
      gcmOpen (zeros 32) (sealedIv 0 (msgSeq (sealed9 type seq b))) ((sealed9 type seq b).take 16) ((sealed9 type seq b).drop 16) = some b := by
    rw [hh, hi, hs]; exact gcmOpen_gcmSeal _ _ _ _
  rcases ht with ht | ht <;> (injection ht with h1 h2; injection h2 with h2 h3; subst h1 h2 h3) <;>
    exact ⟨h _ _ rfl rfl rfl, by decide +kernel, by decide +kernel, by decide +kernel⟩
theorem witness_EnsignSessions :
    (configurable (secure (sess9 0 [])) = true ∧ (∀ e ∈ ensignOf hello9, e.1 = 1 → msgType hello9 = e.1) ∧
      helloOk hello9 = true ∧ (pointOf (slice hello9 56 97)).isSome = true ∧ (secure (sess9 0 [])).sec.sessions.length < 64 ∧
      recovery (secure (sess9 0 [])) = false) ∧
    (Tab.get? fid.sec.sessions 9 = none ∧ Tab.get? (secure (sess9 0 [])).sec.sessions 9 = some (sess9 0 []) ∧ (sess9 1 [3]).reply ≠ [] ∧
      1 = (sess9 0 []).lastSeq + 1 ∧ 1 = (sess9 1 [3]).lastSeq ∧ 1 ≠ (sess9 5 []).lastSeq ∧ 1 ≠ (sess9 5 []).lastSeq + 1) ∧
    ((applySealed (secure (sess9 0 [])) 4 5 activate9).2 = rsOk ∧ (applySealed (secure (sess9 0 [])) 6 5 (zeros 8)).2 = rsOk) ∧
    (ownFid (secure (sess9 0 [])) ≠ none ∧ Tab.get? fid.sec.answered ((0x300 : Fid), (1 : BitVec 16)) = none) := by
  (repeat' apply And.intro) <;> decide +kernel
theorem test_session_idle : ok (exec (.sessionIdleTimeout 9) (secure (sess9 0 []))) (fun t =>
    decide (t.sec.sessions = [] ∧ t.now = 4 + us 60000000)) = true := by decide +kernel
theorem test_stray_key_message : ok (exec (.keyActivate (hdr9 4 72 1 ++ zeros 56)) fid) (fun t =>
    decide (t.sec.ensignOut.map (·.take 17) = [[0x7F, 1, 24, 0, 9, 0, 0, 0, 1, 0, 0, 0, 0, 0, 0, 0, rsAuth]])) = true := by decide +kernel
/-- What a forwarded message and its answer meet: an answer kept, a request outstanding to 0x200. -/
def kept : State := { home0 with sec := { home0.sec with answered := [((0x200, 0x5001), ([4], [5]))] } }
def fwdReq : OutReq := { out5 with pkt := sealPacket [] { hdr5 tyMgmt mgEnsignFwd 0 0 0 with dst := 0x200, src := 0x100, tag := 0x5001 } [] }
theorem witness_EnsignSessions_forward :
    (ownFid kept ≠ none ∧ Tab.get? kept.sec.answered ((mgPkt mgEnsignFwd [4]).hdr.src, (mgPkt mgEnsignFwd [4]).hdr.tag) = some ([4], [5]) ∧
      MgmtOpens kept mgEnsignFwd (mgPkt mgEnsignFwd [4]) [4] ∧ MgmtOpens home0 mgEnsignFwd (mgPkt mgEnsignFwd [4]) [4] ∧
      Tab.get? home0.sec.answered ((mgPkt mgEnsignFwd [4]).hdr.src, (mgPkt mgEnsignFwd [4]).hdr.tag) = none) ∧
    (MgmtOpens home0 mgEnsignRsp (mgPkt mgEnsignRsp [4]) [4] ∧ home0.reqs.any (isForward (mgPkt mgEnsignRsp [4]).hdr) = false ∧
      MgmtOpens { home0 with reqs := [fwdReq] } mgEnsignRsp (mgPkt mgEnsignRsp [4]) [4] ∧ [fwdReq].any (isForward (mgPkt mgEnsignRsp [4]).hdr) = true) :=
  ⟨⟨by decide +kernel, by decide +kernel, mgPkt_opens (by decide +kernel), mgPkt_opens (by decide +kernel), by decide +kernel⟩,
    mgPkt_opens (by decide +kernel), by decide +kernel, mgPkt_opens (by decide +kernel), by decide +kernel⟩
theorem test_forward_repeat : ok (exec (.ensignFwd (mgPkt mgEnsignFwd [4])) kept) (fun t =>
    decide ((sentOf t).map (fun l => (l.take 3, l.drop 6)) = [([7, mgEnsignRsp.toNat, 0x200], [5])])) = true := by decide +kernel


/-- A packet too long to be opened by evaluation. -/
theorem mgPkt_long {s : State} {op : Byte} {bs : Bytes} (h : decide (
    blockOfFid s (mgPkt op bs).hdr.dst = none ∧ (mgPkt op bs).hdr.dst = me s ∧ tooOld s (mgPkt op bs).hdr = false ∧
    malformed s (mgPkt op bs) = false ∧ (mgPkt op bs).hdr.dgen = genOf s (mgPkt op bs).hdr.dst ∧
    (mgPkt op bs).hdr.sgen = genOf s (mgPkt op bs).hdr.src ∧ burgeeDead s (mgPkt op bs).hdr = false ∧ flagEnc (mgPkt op bs).hdr = false ∧
    bs.length = payloadLen (mgPkt op bs).hdr) = true) : MgmtOpens s op (mgPkt op bs) bs := by
  obtain ⟨h1, h2, h3, h4, h5, h6, h7, h8, h9⟩ := of_decide_eq_true h
  exact ⟨rfl, rfl, h1, h2, h3, h4, h5, h6, h7, open_sealed s [] _ bs h9 (fun h => absurd (h8.symm.trans h) (by decide))⟩

/-- Lock-step over port 20 in a state of R489, with one record of this module. -/
def lrec : LsLocal := { what := { kind := 1, key := 2, value := 3 }, since := 6, ctx := 5, owner := none, slots := 1, data := [] }
def lockOn (st : LsState) : State := setReg (setReg (setReg { fabUp with ls := { fabUp.ls with state := st, localRecs := [lrec] } } (glbBase + 8) 0x10100)
  (glbBase + 0x20) 8) (mgBase + 0x520) 0x80000A14
def recBytes (kind key : Byte) : Bytes := [kind] ++ zeros 7 ++ [key] ++ zeros 7 ++ [9] ++ zeros 7
/-- LS_PAIR of 0x200 with its features; LS_RECORD; LS_DIVERGE; LS_RESUME. -/
def pairBytes (feature : Byte) : Bytes := [0, 2, 0, 0, feature] ++ zeros 15 ++ toLe 4 (reg (lockOn .pairing) glbBase).toNat ++ [0] ++ zeros 7
def lsPays : List (Byte × Bytes) := [(mgLsPair, pairBytes 8), (mgLsPair, pairBytes 9), (mgLsPair, [1]), (mgLsRecord, recBytes 1 2), (mgLsRecord, recBytes 1 2 ++ recBytes 1 3),
  (mgLsRecord, List.replicate 24 1), (mgLsDiverge, recBytes 1 3 ++ zeros 8), (mgLsDiverge, recBytes 1 2 ++ zeros 8), (mgLsDiverge, [1]), (mgLsResume, []), (mgLsResume, [1])]
theorem witness_LockStep_packets : ∀ st ∈ [LsState.pairing, .comparing, .frozen, .mismatch], ∀ e ∈ lsPays, MgmtOpens (lockOn st) e.1 (mgPkt e.1 e.2) e.2 := by
  have h : ([LsState.pairing, .comparing, .frozen, .mismatch].all (fun st => lsPays.all (fun e => decide (
    blockOfFid (lockOn st) (mgPkt e.1 e.2).hdr.dst = none ∧ (mgPkt e.1 e.2).hdr.dst = me (lockOn st) ∧ tooOld (lockOn st) (mgPkt e.1 e.2).hdr = false ∧
    malformed (lockOn st) (mgPkt e.1 e.2) = false ∧ (mgPkt e.1 e.2).hdr.dgen = genOf (lockOn st) (mgPkt e.1 e.2).hdr.dst ∧
    (mgPkt e.1 e.2).hdr.sgen = genOf (lockOn st) (mgPkt e.1 e.2).hdr.src ∧ burgeeDead (lockOn st) (mgPkt e.1 e.2).hdr = false ∧ flagEnc (mgPkt e.1 e.2).hdr = false ∧
    e.2.length = payloadLen (mgPkt e.1 e.2).hdr)))) = true := by decide +kernel
  simp only [List.all_eq_true] at h
  exact fun st hs e he => mgPkt_long (h st hs e he)
theorem witness_LockStep :
    (takesLs fid 20 = false ∧ takesLs (lockOn .pairing) 20 = true ∧ takesLs (lockOn .comparing) 20 = true ∧ takesLs (lockOn .frozen) 20 = true ∧
      (lockOn .pairing).ls.state = .pairing) ∧
    (lsLaidOut mgLsPair (pairBytes 8) ∧ ¬ lsLaidOut mgLsPair [1] ∧ lsLaidOut mgLsDiverge (recBytes 1 3 ++ zeros 8) ∧ ¬ lsLaidOut mgLsDiverge [1] ∧
      lsLaidOut mgLsResume [] ∧ ¬ lsLaidOut mgLsResume [1]) ∧
    (lsLaidOut mgLsRecord (recBytes 1 2) ∧ ¬ lsLaidOut mgLsRecord (List.replicate 24 1)) ∧
    ((pairOf (pairBytes 8)).features = acceptedWords (lockOn .pairing) ∧ (pairOf (pairBytes 9)).features ≠ acceptedWords (lockOn .pairing) ∧
      (pairOf (pairBytes 8)).glbId = reg (lockOn .pairing) glbBase ∧ (pairOf (pairBytes 8)).role = (lockOn .pairing).role) ∧
    (localRec (lockOn .comparing) 1 2 = some lrec ∧ localRec (lockOn .comparing) (lsRecAt (recBytes 1 3) 0).kind (lsRecAt (recBytes 1 3) 0).key = none ∧
      reg (lockOn .frozen) (mgBase + 0x538) ≠ 0xFFFFFFFF) ∧
    (localRec (lockOn .frozen) 1 2 = some lrec ∧ inService (lockOn .frozen) = true ∧ recovery (lockOn .frozen) = false ∧
      recovery { lockOn .frozen with sec := { (lockOn .frozen).sec with bootSlot := 2 } } = true) ∧
    (inService (lockOn .comparing) = true ∧ configurable (lockOn .frozen) = true ∧ (lockOn .frozen).colls = []) := by
  unfold lsLaidOut; (repeat' apply And.intro) <;> decide +kernel
theorem test_ls_diverge : ok (exec (.lsMatchTimeout 1 2) (lockOn .comparing)) (fun t => decide (t.ls.state = .frozen ∧ t.ls.cause = 3 ∧ t.now = 6 + us 10)) = true := by
  decide +kernel
theorem test_ls_resume : ok (exec .resume (lockOn .frozen)) (fun t => decide (t.ls.state = .pairing ∧ t.ls.localRecs = [])) = true := by decide +kernel
theorem test_ls_resume_packet : ok (exec (.lsResume 20 (mgPkt mgLsResume [])) (lockOn .frozen)) (fun t =>
    decide (t.ls.state = .pairing ∧ t.ls.localRecs = [])) = true := by decide +kernel
theorem test_ls_record_malformed : ok (exec (.lsResume 20 (mgPkt mgLsResume [1])) (lockOn .frozen)) (fun t => decide (t.ls.state = .frozen)) = true := by
  decide +kernel

/-! ## Ageing and failures -/

/-- Monitor 480 (plane die 18) at a value, with the data plane running. -/
def aged (n : Nat) (v : Word) : State := setReg serv (monOff n) (0x80000000 + v)
theorem witness_MonitorsAndTests :
    (controlRuns State.reset = false ∧ configurable serv = true ∧ validReading serv { number := 408, sub := 0, value := some 40 } = true ∧
      serv.age.swapQueue = [] ∧ serv.age.runDue = false ∧ serv.power.floor = false ∧ monKind 408 = 3 ∧
      heldOut serv { number := 408, sub := 0, value := some 40 } = false ∧ monKind 208 = 2) ∧
    (monValue serv 408 = none ∧ monValue (aged 552 4) 552 = some 4 ∧ failsAt (monKind 552) 4 = true ∧ failsAt (monKind 552) 5 = false ∧ monKind 552 ≠ 2 ∧
      monUnit 552 (regField (aged 552 4) (monOff 552) 19 16) = some (.plane, 0) ∧ swappable (aged 552 4) .plane 0 = true ∧
      swapRuns { aged 552 4 with age := { (aged 552 4).age with swap := some (.plane, 1, 16) } } = true) ∧
    (monValue (aged 208 1688) 208 = some 1688 ∧ failsAt (monKind 208) 1688 = true) ∧
    (portsRun serv = true ∧ limiting serv = false ∧ 16 ∈ unitsOf serv .plane ∧
      (unitState serv .plane 16 = .spareTested ∨ unitState serv .plane 16 = .spareUntested) ∧ portsRun State.reset = false ∧
      unitState (putUnit serv .plane 16 { state := .testing, before := .spareUntested, testedAt := none }) .plane 16 = .testing) ∧
    (let s := setPort serv 20 { portUpLanes with lane8On := true }
     (portOf fabUp 20).cable = .ready ∧ (portOf fabUp 20).lane8On = false ∧ (portOf fabUp 20).swap = none ∧ (portOf fabUp 20).active.getLsbD 8 = false ∧
      (portOf fabUp 20).lanesFailed.getLsbD 8 = false ∧ (portOf s 20).lane8On = true ∧ (portOf s 20).swap = none ∧ (portOf s 20).active.getLsbD 8 = false) := by
  (repeat' apply And.intro) <;> decide +kernel
/-- The management die 1 stands by; its wear monitor 1020 beyond its limit. -/
def standing : State := putUnit serv .mgmt 1 { state := .standby, before := .testing, testedAt := none }
theorem witness_MonitorsAndTests_more :
    (monDie 208 ∉ (aged 208 1688).age.hotDies ∧ monDie 208 ∈ ({ serv with age := { serv.age with hotDies := [0] } } : State).age.hotDies) ∧
    (portsRun standing = true ∧ standsBy standing .mgmt 1 = true ∧ standbyWears standing [] = false ∧
      standbyWears standing [{ number := 1020, sub := 0, value := some 0x8000 }] = true) := by (repeat' apply And.intro) <;> decide +kernel
theorem test_monitor_sweep : ok (exec (.monitorSample [{ number := 408, sub := 0, value := some 40 }]) (aged 552 4)) (fun t =>
    decide (reg t (monOff 408) = 0x80300028 ∧ reg t (monOff 552) = 0x80000004)) = true := by decide +kernel
/-- Port 20 UP with its lane eyes: lane 3 was the last one read. -/
def eyed : State := { setPort serv 20 portUpLanes with age := { serv.age with eyeLast := [(20, 3)] } }
/-- The spare lane 8 of port 20 in its test, after `n` samples of an eye. -/
def laneTest (n : Nat) (eye : Int) : State := setPort serv 20 { portUpLanes with lane8On := true, lane8Eyes := List.replicate n eye }
theorem witness_MonitorsAct_runs :
    (monRuns serv 408 = true ∧ monRuns State.reset 408 = false ∧ monRuns serv 20 = false) ∧
    (eyeTurn eyed 20 = some 4 ∧ validReading eyed { number := 20, sub := 4, value := some 30 } = true ∧
      validReading eyed { number := 20, sub := 2, value := some 30 } = false ∧ monRuns eyed 20 = true) := by
  (repeat' apply And.intro) <;> decide +kernel
theorem witness_SparesAreTested :
    (let s := { serv with power := { serv.power with floor := true } }
     portsRun s = true ∧ testsWait s = true ∧ testsWait serv = false ∧ ((.plane, 16) : UnitKind × Nat) ∉ s.age.testsDue) ∧
    (reserved { serv with age := { serv.age with swap := some (.plane, 3, 16) } } .plane 16 = true ∧ reserved serv .plane 16 = false) ∧
    (let s := putUnit serv .plane 16 { state := .testing, before := .spareUntested, testedAt := none }
     unitState s .plane 16 = .testing ∧ 16 ∈ unitsOf s .plane ∧ s.age.testWorn.contains (.plane, 16) = false ∧
     ({ s with age := { s.age with testWorn := [(.plane, 16)] } } : State).age.testWorn.contains (.plane, 16) = true) ∧
    (portsRun standing = true ∧ standsBy standing .mgmt 1 = true) ∧
    ((2 : Nat) ∉ serv.age.fwSlotsBad ∧ (2 : Nat) ≠ serv.sec.bootSlot ∧ slotValid serv 2 = false) ∧
    ([0, 8].all (fun n => lane8InTest (portOf (laneTest n 40) 20) && decide ((portOf (laneTest n 40) 20).lane8Eyes.length < 9)) = true ∧
      lane8InTest (portOf (laneTest 9 40) 20) = true ∧ 9 ≤ (portOf (laneTest 9 40) 20).lane8Eyes.length ∧ eyesPass (portOf (laneTest 9 40) 20) = true ∧
      (portOf (laneTest 9 40) 20).present = true ∧ lane8InTest (portOf (laneTest 9 3) 20) = true ∧ 9 ≤ (portOf (laneTest 9 3) 20).lane8Eyes.length ∧
      eyesPass (portOf (laneTest 9 3) 20) = false) := by
  (repeat' apply And.intro) <;> decide +kernel
/-- Every pair of images that passes is one in the flash of a running module. -/
theorem witness_SparesAreTested_slot (f g : Bytes) (hf : f.length = 512 + fieldAt (f.take 512) 8 4) (hfm : f.length ≤ mainOffset)
    (hg : g.length = 512 + fieldAt (g.take 512) 8 4) (hgm : fieldAt (g.take 512) 8 4 ≤ slotBytes)
    (h1 : imageFail serv f 1 mainOffset = none) (h2 : imageFail serv g 2 (slotBytes - mainOffset) = none) :
    ∃ s, portsRun s = true ∧ 1 ∉ s.age.fwSlotsBad ∧ 1 ≠ s.sec.bootSlot ∧ slotValid s 1 = true := by
  let blob : Bytes := f ++ zeros (mainOffset - f.length) ++ g
  have hb : blob.length = mainOffset + g.length := by simp only [blob, List.length_append, zeros, List.length_replicate]; omega
  let s := memWrite serv (flashAddr (slotAt 1)) blob
  have r : ∀ off n, off + n ≤ blob.length → off ≤ mainOffset → slotRead s 1 off n = (blob.drop off).take n := fun off n hn ho => by
    have h := memRead_written serv blob n (flashAddr (slotAt 1)) off hn
    have ha : flashAddr (slotAt 1 + off) = flashAddr (slotAt 1) + off := by
      simp only [flashAddr, slotAt, slotBytes, mainOffset, spaceSize] at ho ⊢; omega
    rw [slotRead, ha]; exact h
  have d0 : ∀ n, n ≤ f.length → (blob.drop 0).take n = f.take n := fun n hn => by
    simp only [blob, List.drop_zero, List.append_assoc, List.take_append_of_le_length hn]
  have d1 : ∀ n, (blob.drop mainOffset).take n = g.take n := fun n => by
    have : (f ++ zeros (mainOffset - f.length)).length = mainOffset := by simp only [List.length_append, zeros, List.length_replicate]; omega
    exact congrArg (List.take n) (List.drop_left' this)
  have i0 : slotImage s 1 0 = f := by
    have hm : fieldAt (f.take 512) 8 4 ≤ slotBytes := by have : mainOffset ≤ slotBytes := by decide
                                                         omega
    rw [slotImage, r 0 512 (by omega) (by omega), d0 512 (by omega), Nat.min_eq_left hm, ← hf, r 0 _ (by omega) (by omega), d0 _ (Nat.le_refl _),
      List.take_length]
  have i1 : slotImage s 1 mainOffset = g := by
    rw [slotImage, r mainOffset 512 (by omega) (by omega), d1, Nat.min_eq_left hgm, ← hg, r mainOffset _ (by omega) (by omega), d1, List.take_length]
  refine ⟨s, rfl, List.not_mem_nil, (show 1 ≠ serv.sec.bootSlot by decide), ?_⟩
  have e1 : imageFail s f (firstKind 1) mainOffset = none := h1
  have e2 : imageFail s g (firstKind 1 + 1) (slotBytes - mainOffset) = none := h2
  rw [slotValid, firstStageOk, mainImageOk, i0, i1, e1, e2]; rfl
theorem test_lane_needs_nine : ok (exec (.spareTestDone .lane 20 true) (laneTest 8 40)) (fun t => decide ((portOf t 20).lane8On = true)) = true := by
  decide +kernel
theorem test_lane_fails : ok (exec (.spareTestDone .lane 20 true) (laneTest 9 3)) (fun t =>
    decide ((portOf t 20).lanesFailed.getLsbD 8 = true ∧ (portOf t 20).lane8On = false)) = true := by decide +kernel
theorem test_fail_limit : ok (exec (.failLimitResponse 552) (aged 552 4)) (fun t =>
    decide (t.age.swapQueue.map (·.2) = [(.plane, 0)])) = true := by decide +kernel
theorem test_spare_passes : ok (exec (.spareTestDone .plane 16 true)
    (putUnit serv .plane 16 { state := .testing, before := .spareUntested, testedAt := none })) (fun t =>
    decide (unitState t .plane 16 = .spareTested)) = true := by decide +kernel

/-- A swap of a unit is next, and its spare tested. -/
def due (k : UnitKind) (n spare : Nat) : State := putUnit { serv with age := { serv.age with swapQueue := [(0, k, n)] } } k spare
  { state := .spareTested, before := .testing, testedAt := some 0 }
theorem witness_PlannedSwaps :
    (isNext (due .plane 3 16) .plane 3 = true ∧ mayServe (due .plane 3 16) .plane 3 16 = true ∧ isNext serv .plane 3 = false ∧
      mayServe (due .plane 3 16) .plane 3 17 = false) ∧
    (isNext (due .reduction 3 24) .reduction 3 = true ∧ mayServe (due .reduction 3 24) .reduction 3 24 = true) ∧
    (servedBy (due .epb 1 32) 1 = some 1 ∧ spareFor (due .epb 1 32) .epb 1 = some 32 ∧ isNext (due .epb 1 32) .epb 1 = true) ∧
    servedBy { serv with age := { serv.age with serving := [none] } } 0 = none := by decide +kernel
theorem test_plane_swap : ok (exec (.planeSwap 3 16) (due .plane 3 16)) (fun t =>
    decide (unitState t .plane 16 = .active ∧ unitState t .plane 3 = .failed ∧ t.age.planeList.getD 3 0 = 16)) = true := by decide +kernel
theorem test_reduction_swap : ok (exec (.reductionDieSwap 3 24) (due .reduction 3 24)) (fun t => decide (unitState t .reduction 24 = .active)) = true := by
  decide +kernel

/-- The same with one memory device trained. -/
def withDev : State := { serv with age := { serv.age with devices := [1] } }
theorem witness_UnitFailures :
    (portsRun serv = true ∧ serves (dieState serv (ordPlane 3)) = true ∧ serv.age.swap = none ∧ swapRuns serv = false ∧ (spareFor serv .plane 3).isSome = true ∧
      serves (dieState serv (ordPlane 17)) = false ∧
      (let s := putUnit (putUnit serv .plane 16 { state := .failed, before := .active, testedAt := none }) .plane 17
         { state := .failed, before := .active, testedAt := none }
       spareFor s .plane 3 = none)) ∧
    (ariServes serv 3 = true ∧ serv.colls = [] ∧ serv.groups = [] ∧ serv.windows = [] ∧ (spareFor serv .reduction 3).isSome = true) ∧
    (blockState serv 1 ≠ .absent ∧ blockState serv 1 ≠ .failed ∧ numberOf serv 1 = some 1 ∧ (spareFor serv .epb 1).isSome = true ∧
      (let s := putUnit serv .epb 32 { state := .failed, before := .active, testedAt := none }
       spareFor s .epb 1 = none ∧ numberOf s 1 = some 1)) ∧
    (configurable withDev = true ∧ withDev.age.devices.getD 0 0 ≠ 0 ∧ withDev.hb.shards = [] ∧ portsRun withDev = true ∧ devicesIn withDev ≠ 0) ∧
    (Tab.get? withDev.hb.corrected 9 = none ∧ Tab.get? ({ withDev with hb := { serv.hb with corrected := [(9, 4)] } } : State).hb.corrected 9 = some 4 ∧
      withDev.now ≤ 4 + day) ∧
    (controlRuns serv = true ∧ serv.host.owner < 2 ∧
      dieState (putUnit serv .mgmt 1 { state := .standby, before := .testing, testedAt := none }) (ordMgmt (1 - serv.host.owner)) = .standby ∧
      dieState (putUnit serv .mgmt 1 { state := .failed, before := .standby, testedAt := none }) (ordMgmt (1 - serv.host.owner)) ≠ .standby) := by
  (repeat' apply And.intro) <;> decide +kernel
theorem test_plane_fails : ok (exec (.planeFail 3) serv) (fun t => decide (unitState t .plane 3 = .failed ∧ 3 ∉ t.age.planeList ∧ t.age.planeList.length = 16)) = true := by
  decide +kernel
theorem test_block_fails : ok (exec (.endPointBlockFail 1) serv) (fun t => decide (servedBy t 1 = some 32 ∧ Tab.get? t.quietUntil 1 = some (us 400))) = true := by
  decide +kernel
theorem test_line_retires_at_second : ok (exec (.harbourLineRetire 9 0 .corrected) { withDev with hb := { serv.hb with corrected := [(9, 0)] } }) (fun t =>
    decide (Tab.has t.hb.retired 9 = true ∧ t.hb.poisoned = [])) = true := by decide +kernel

/-! ## Packets, arithmetic, memory, well-formedness -/

theorem witness_HeaderRoundTrip : (zeros 48).length = 48 := by decide +kernel
theorem test_header_bytes : (headerBytes { blankHdr with ptype := 5, cls := 2, dst := 0x1234 }).length = 48 ∧
    headerOf (headerBytes { blankHdr with ptype := 5, cls := 2, dst := 0x1234 }) = { blankHdr with ptype := 5, cls := 2, dst := 0x1234 } := by decide +kernel
/-- A header with ENC whose epoch has its key, and one without ENC. -/
theorem witness_SealedPacketOpens :
    ([1, 2] : Bytes).length = payloadLen (enc5 []).hdr ∧ flagEnc (enc5 []).hdr = true ∧
    packetKey encHome (burgeeCtx (enc5 []).hdr) (burgeeEpoch (enc5 []).hdr) = some (zeros 32) ∧
    ([1, 2] : Bytes).length = payloadLen good5.hdr ∧ flagEnc good5.hdr = false := by decide +kernel

/-- Contributions 1.5 (below the anchor 3) and -1. -/
def accs7 : List Acc := [contribution 3 false (.fin false 3 (-1)), contribution 3 false (.fin true 1 0)]
theorem witness_ExactSum :
    (accs7.Perm accs7.reverse ∧ accs7.length ≤ 65536 ∧ ∀ x ∈ accs7, x.a.toInt.natAbs < 2 ^ 111 ∧ x.checks = true) ∧
    (3 < 2 ^ 53 ∧ (3 ≠ 0 → expOf 3 (-1) ≤ 3)) := ⟨⟨(List.reverse_perm _).symm, by decide +kernel⟩, by decide +kernel⟩
theorem test_sum_value : (accs7.foldl Acc.add Acc.blank).value 3 = .fin false (2 ^ 106) (3 - 110) := by decide +kernel
theorem witness_ResidueMatchesFolding : -(2 ^ 127) ≤ (1 : BitVec 128).toInt + (-2 : BitVec 128).toInt ∧
    (1 : BitVec 128).toInt + (-2 : BitVec 128).toInt < 2 ^ 127 := by decide +kernel
theorem test_residue : residueOf 0x12345 = 0x2346 ∧ residueOf (-1) = 65534 := by decide +kernel
theorem witness_MemoryReadsBack : State.reset.mem = [] ∧ Memory.wf State.reset.mem = true ∧ (4 + 4 ≤ 8 ∨ 8 + [(1 : Byte)].length ≤ 4) ∧
    (mgBase : Nat) ≠ mgBase + 4 := by decide +kernel
theorem witness_StepKeepsSound : Sound { serv with pending := [.planeFail 3] } ∧
    ∃ t, step { serv with pending := [.planeFail 3] } = .next t := by
  refine ⟨by unfold Sound; decide +kernel, ?_⟩
  have h : ok (step { serv with pending := [.planeFail 3] }) (fun _ => true) = true := by decide +kernel
  unfold ok at h
  split at h
  · exact ⟨_, by assumption⟩
  · cases h

/-- Binary32, its values and a sum too small for it. -/
def tiny : List Machine.Num := [.fin false 1 (-200)]
theorem witness_SpecialsAndZeros : isFloat 2 = true ∧ (floatFmt 2).map (·.width) = some 32 ∧
    (({ Acc.blank with special := .nan } : Acc).special = .nan ∧ ({ Acc.blank with special := .posInf } : Acc).special = .posInf ∧
      ({ Acc.blank with special := .negInf } : Acc).special = .negInf) ∧
    (tiny ≠ [] ∧ (∀ v ∈ tiny, v.special = .finite) ∧ ((tiny.map (contribution (-200) false)).foldl Acc.add Acc.blank).a ≠ 0 ∧
      (roundPlain 2 rndNear 0 (((tiny.map (contribution (-200) false)).foldl Acc.add Acc.blank).value (-200))).1 % 2 ^ 31 = 0) ∧
    (∀ v ∈ [Machine.Num.fin true 0 3], v.special = .finite) ∧ Machine.Num.inf true ≠ .nan ∧ (Machine.Num.inf true).special ≠ .finite ∧
    (([Machine.Num.fin true 0 3, .fin false 0 0].map (contribution 0 false)).foldl Acc.add Acc.blank).a = 0 := by decide +kernel
theorem witness_SpecialsAndZeros_zero : (∀ v ∈ [Machine.Num.fin true 0 3], ∃ e, v = .fin true 0 e) ∧ (∃ v ∈ [Machine.Num.fin true 0 3, .fin false 0 0], ∀ e, v ≠ .fin true 0 e) :=
  ⟨fun v h => ⟨3, List.mem_singleton.mp h⟩, .fin false 0 0, by simp, fun e h => by injection h with h; cases h⟩
theorem test_negative_zero : roundPlain 2 rndNear 0 ((([Machine.Num.fin true 0 3].map (contribution 0 false)).foldl Acc.add Acc.blank).value 0) = (2 ^ 31, false) ∧
    roundPlain 2 rndNear 0 ((([Machine.Num.fin true 0 3, .fin false 0 0].map (contribution 0 false)).foldl Acc.add Acc.blank).value 0) = (0, false) := by
  decide +kernel
theorem witness_IntegerReductions : isInt 0x20 = true ∧ (∀ x ∈ [5, 0xFFFFFFFF], x < 2 ^ elemBits 0x20) ∧ isInt 0x23 = true ∧
    opMax ∈ [opMax, opMin] := by decide +kernel
theorem test_int32_signed : decodeInt 0x20 0xFFFFFFFF = -1 ∧ decodeInt 0x22 0xFFFFFFFF = 2 ^ 32 - 1 := by decide +kernel

/-- Every well-formedness check refuses a command that breaks it, and takes one that does not. -/
theorem smoke_ports : (Instr.retrain 188).wf = false ∧ (Instr.retrain 187).wf = true := by decide +kernel
theorem smoke_queue : (Instr.nop 32 0).wf = false ∧ (Instr.nop 0 520).wf = false ∧ (Instr.nop 31 519).wf = true := by decide +kernel
theorem smoke_numbers : (Instr.arm 26).wf = false ∧ (Instr.msixVectorUnmask 0 2048).wf = false ∧ (Instr.msixVectorUnmask 1 2047).wf = true := by
  decide +kernel
theorem smoke_packet : (Instr.readReqReceive { hdr := blankHdr, body := zeros 4121 }).wf = false ∧
    (Instr.readReqReceive { hdr := blankHdr, body := zeros 4120 }).wf = true := by decide +kernel
theorem smoke_access : (Instr.registerWrite 0 []).wf = false ∧ (Instr.registerWrite 0 [1]).wf = true := by decide +kernel
end Sys2Proof.Tests
end

section
/-!
SUPPORT. What the shared operations of sending and logging leave as it was: one lemma for each operation, for anything that
does not see the parts of the state that it changes.
-/
namespace Sys2Proof.Machine

open Sys2Proof

/-! ## Idle ports -/

/-- Folding an operation that nothing seen by `f` notices changes nothing that `f` sees. -/
theorem foldl_keep {α β σ : Type} (f : σ → α) (op : σ → β → σ) (h : ∀ s b, f (op s b) = f s) (l : List β) (s : σ) :
    f (l.foldl op s) = f s := by
  induction l generalizing s with
  | nil => rfl
  | cons b l ih => rw [List.foldl_cons, ih, h]

/-- No copy of a naming frame falls due where no port swaps a lane. -/
theorem copyNames_of_noSwaps (s : State) (h : ∀ e ∈ s.ports, e.2.swap = none) : copyNames s = s := by
  have hf : s.ports.filter (fun e => e.2.swap.isSome && decide (e.2.state = .up)) = [] := by
    rw [List.filter_eq_nil_iff]
    intro e he
    simp [h e he]
  unfold copyNames
  rw [hf]
  split <;> rfl

/-! ## Packets of the management die, answers and requests -/

/-- What does not see what the sending of an MGMT packet changes. -/
structure BlindToMgmt {α : Type} (f : State → α) : Prop where
  regs : ∀ s x, f { s with regs := x } = f s
  ports : ∀ s x, f { s with ports := x } = f s
  out : ∀ s x, f { s with out := x } = f s
  reqs : ∀ s n x, f { s with fresh := n, reqs := x } = f s
  built : ∀ s x, f { s with unitBuilt := x } = f s

/-- What does not see what the sending of a request changes either. -/
structure BlindToRequests {α : Type} (f : State → α) : Prop extends BlindToMgmt f where
  host : ∀ s x, f { s with host := x } = f s
  mem : ∀ s x, f { s with mem := x } = f s
  stalled : ∀ s x, f { s with stalled := x } = f s
  streams : ∀ s x, f { s with srcStreams := x } = f s
  cache : ∀ s c x, f { s with cache := c, reqs := x } = f s
  limits : ∀ s x, f { s with limits := x } = f s
  keys : ∀ s x, f { s with sec := { s.sec with unitKeys := x } } = f s

section
variable {α : Type} {f : State → α}

theorem wireSend_keep (hf : BlindToMgmt f) (s : State) (p : Nat) (pkt : Packet) : f (wireSend s p pkt) = f s := by
  have hput : ∀ t vc body, f (putFrame t p vc body) = f t := fun t vc body => putFrame_keep f hf.ports hf.out t p vc body
  unfold wireSend offerFrame
  dsimp only
  split
  · rfl
  · split
    · unfold putWaiting
      dsimp only
      split
      · exact hf.regs _ _
      · exact (hf.out _ _).trans (hput _ _ _)
    · exact hf.ports _ _

theorem sendMgmt_keep (hf : BlindToMgmt f) (s : State) (src dst : Fid) (opcode : Byte) (payload : Bytes) (port : Option Nat) :
    f (sendMgmt s src dst opcode payload port) = f s := by
  have hnew : ∀ t n rs u, f (countBuilt { t with fresh := n, reqs := rs } u) = f t := fun t n rs u =>
    (hf.built _ _).trans (hf.reqs t n rs)
  unfold sendMgmt
  split
  · rfl
  · cases port with
    | none => exact (hf.out _ _).trans (hnew _ _ _ _)
    | some i => exact (wireSend_keep hf _ _ _).trans (hnew _ _ _ _)

theorem sendOnPort_keep (hf : BlindToMgmt f) (s : State) (opcode : Byte) (payload : Bytes) (p : Nat) :
    f (sendOnPort s opcode payload p) = f s := sendMgmt_keep hf ..

theorem noticeAll_keep (hf : BlindToMgmt f) (s : State) (opcode : Byte) : f (noticeAll s opcode) = f s :=
  foldl_keep f _ (fun t p => sendOnPort_keep hf t opcode _ p) _ s

theorem sendRoutes_keep (hf : BlindToMgmt f) (s : State) (opcode : Byte) (ports : List Nat) (l : List Fid) :
    f (sendRoutes s opcode ports l) = f s :=
  foldl_keep f _ (fun t p => foldl_keep f _ (fun t _ => sendOnPort_keep hf t opcode _ p) _ t) _ s

theorem sendRestarts_keep (hf : BlindToMgmt f) (s : State) (ports : List Nat) (l : List (Fid × BitVec 4)) :
    f (sendRestarts s ports l) = f s :=
  foldl_keep f _ (fun t p => foldl_keep f _ (fun t _ => sendOnPort_keep hf t mgBlockRestart _ p) _ t) _ s

theorem announce_keep (hf : BlindToMgmt f) (hw : ∀ s x, f { s with switch := x } = f s) (s : State) : f (announce s) = f s := by
  unfold announce
  split
  · rfl
  · dsimp only
    rw [sendRoutes_keep hf, sendRoutes_keep hf]
    exact hw _ _

theorem beginPairing_keep (hf : BlindToMgmt f) (hl : ∀ s x, f { s with ls := x } = f s) (s : State) : f (beginPairing s) = f s := by
  unfold beginPairing sendPair sendLs
  split
  · exact hl _ _
  · exact (sendMgmt_keep hf _ _ _ _ _ _).trans (hl _ _)

theorem sendTd_keep (hf : BlindToMgmt f) (s : State) (opcode : Byte) (ctx : CtxId) (d : Fid) : f (sendTd s opcode ctx d) = f s :=
  sendMgmt_keep hf ..

end

/-- What sees neither keys fetched, nor limits, nor the counts of built packets, nor what waits or is sent, sees nothing of an answer. -/
theorem sendAnswer_keep {α : Type} (f : State → α) (hw : ∀ s x, f { s with answerWait := x } = f s)
    (hk : ∀ s x, f { s with sec := { s.sec with unitKeys := x } } = f s) (hl : ∀ s x, f { s with limits := x } = f s)
    (hb : ∀ s x, f { s with unitBuilt := x } = f s) (ho : ∀ s x, f { s with out := x } = f s) (s : State) (u : Nat) (q : Header)
    (ty : BitVec 4) (opcode : Byte) (payload : Bytes) : f (sendAnswer s u q ty opcode payload) = f s := by
  have hfetch : ∀ t h, f (fetchKey t u h) = f t := fun t h => by
    unfold fetchKey
    dsimp only
    split
    · exact hk _ _
    · rfl
  have hcharge : ∀ t n, f (chargeLimit t u q.src n) = f t := fun t n => by
    unfold chargeLimit
    split
    · rfl
    · exact hl _ _
  unfold sendAnswer
  split
  · exact hw _ _
  · exact (ho _ _).trans ((hb _ _).trans ((hcharge _ _).trans (hfetch _ _)))

@[simp] theorem ackMgmt_ctxs (s : State) (h : Header) : (ackMgmt s h).ctxs = s.ctxs :=
  sendAnswer_keep (·.ctxs) (fun _ _ => rfl) (fun _ _ => rfl) (fun _ _ => rfl) (fun _ _ => rfl) (fun _ _ => rfl) ..
@[simp] theorem ackMgmt_mem (s : State) (h : Header) : (ackMgmt s h).mem = s.mem :=
  sendAnswer_keep (·.mem) (fun _ _ => rfl) (fun _ _ => rfl) (fun _ _ => rfl) (fun _ _ => rfl) (fun _ _ => rfl) ..
@[simp] theorem ackMgmt_teardowns (s : State) (h : Header) : (ackMgmt s h).teardowns = s.teardowns :=
  sendAnswer_keep (·.teardowns) (fun _ _ => rfl) (fun _ _ => rfl) (fun _ _ => rfl) (fun _ _ => rfl) (fun _ _ => rfl) ..

section
variable {α : Type} {f : State → α}

theorem countPkt_keep (hr : ∀ s x, f { s with regs := x } = f s) (s : State) (u : Nat) (e : PktEvent) : f (countPkt s u e) = f s := by
  unfold countPkt
  split
  · rfl
  · dsimp only
    split
    · exact hr _ _
    · exact (hr _ _).trans (hr _ _)

theorem sendOut_keep (hf : BlindToMgmt f) (s : State) (u : Nat) (k : ReqKind) (p : Packet) : f (sendOut s u k p) = f s := by
  unfold sendOut
  split
  · exact wireSend_keep hf _ _ _
  · exact hf.out _ _
  · exact hf.out _ _

theorem invalAtSend_keep (hf : BlindToRequests f) (s : State) (q : SendReq) : f (invalAtSend s q) = f s := by
  unfold invalAtSend
  split
  · rfl
  · split
    · exact (hf.regs _ _).trans (hf.cache s _ _)
    · rfl

theorem stopStream_keep (hf : BlindToRequests f) (s : State) (u : Nat) (k : StreamKey) (t : SrcStream) : f (stopStream s u k t) = f s := by
  unfold stopStream
  split
  · rfl
  · exact (countPkt_keep hf.regs _ _ _).trans (hf.streams _ _)

theorem chargeLimit_keep (hf : BlindToRequests f) (s : State) (u : Nat) (d : Fid) (n : Nat) : f (chargeLimit s u d n) = f s := by
  unfold chargeLimit
  split
  · rfl
  · exact hf.limits _ _

theorem fetchKey_keep (hf : BlindToRequests f) (s : State) (u : Nat) (h : Header) : f (fetchKey s u h) = f s := by
  unfold fetchKey
  dsimp only
  split
  · exact hf.keys _ _
  · rfl

theorem firstSend_keep (hf : BlindToRequests f) (s : State) (u : Nat) (p : Packet) (k : ReqKind) (cmd : Option Nat)
    (ap : Option (Nat × BitVec 16)) : f (firstSend s u p k cmd ap) = f s := by
  unfold firstSend
  exact (sendOut_keep hf.toBlindToMgmt _ _ _ _).trans ((hf.built _ _).trans
    ((hf.reqs _ _ _).trans (fetchKey_keep hf _ _ _)))

/-- A request that is built, kept or sent changes nothing beyond the parts that sending is named for. -/
theorem sendRequest_keep (hf : BlindToRequests f) (s : State) (q : SendReq) : f (sendRequest s q) = f s := by
  have hlog : ∀ t n, f (logSecurity t q.ctx 0 0 n 76) = f t := fun t n => logEvent_keep t f hf.host hf.mem hf.regs hf.out _ _ _ _
  unfold sendRequest
  dsimp only
  split
  · exact hf.stalled _ _
  · split
    · exact (hf.stalled _ _).trans (stopStream_keep hf _ _ _ _)
    · split
      · exact hf.stalled _ _
      · rw [firstSend_keep hf, chargeLimit_keep hf, hf.streams, invalAtSend_keep hf]
        split
        · exact hlog _ _
        · rfl

end

/-! ## The event log -/

section
variable (s : State)

/-- What of the host side sees neither the ports nor the event log sees nothing of an event record. -/
theorem logEvent_hostKeep {α : Type} (g : HostIf → α) (h0 : ∀ h p, g { h with port0 := p } = g h)
    (h1 : ∀ h p, g { h with port1 := p } = g h)
    (hs : ∀ h n l, g { h with eventSeq := n, eventLog := l } = g h) (hl : ∀ h b, g { h with eventLost := b } = g h)
    (k : EvKind) (u : Nat) (d : Bytes) (r : Nat) : g (logEvent s k u d r).host = g s.host := by
  have hport : ∀ t i p, g (setHostPort t i p).host = g t.host := fun t i p => by
    unfold setHostPort
    split
    · exact h0 _ _
    · exact h1 _ _
  have hmsix : ∀ t v, g (sendMsix t v).host = g t.host := fun t v => by
    unfold sendMsix
    dsimp only
    split
    · rw [dropMsix_host]
    · split
      · exact hport _ _ _
      · split <;> rfl
  unfold logEvent logNaming
  dsimp only
  split
  · split
    · rw [hmsix, hl, ringPut_host, hs]
    · rw [hl, ringPut_host, hs]
  · rw [hl, dropMsix_host, hs]

@[simp] theorem logEvent_owner (k : EvKind) (u : Nat) (d : Bytes) (r : Nat) : (logEvent s k u d r).host.owner = s.host.owner :=
  logEvent_hostKeep s (·.owner) (fun _ _ => rfl) (fun _ _ => rfl) (fun _ _ _ => rfl) (fun _ _ => rfl) k u d r
@[simp] theorem logEvent_reqStatus (k : EvKind) (u : Nat) (d : Bytes) (r : Nat) : (logEvent s k u d r).host.reqStatus = s.host.reqStatus :=
  logEvent_hostKeep s (·.reqStatus) (fun _ _ => rfl) (fun _ _ => rfl) (fun _ _ _ => rfl) (fun _ _ => rfl) k u d r
@[simp] theorem logEvent_reqReason (k : EvKind) (u : Nat) (d : Bytes) (r : Nat) : (logEvent s k u d r).host.reqReason = s.host.reqReason :=
  logEvent_hostKeep s (·.reqReason) (fun _ _ => rfl) (fun _ _ => rfl) (fun _ _ _ => rfl) (fun _ _ => rfl) k u d r
@[simp] theorem logEvent_request (k : EvKind) (u : Nat) (d : Bytes) (r : Nat) : (logEvent s k u d r).host.request = s.host.request :=
  logEvent_hostKeep s (·.request) (fun _ _ => rfl) (fun _ _ => rfl) (fun _ _ _ => rfl) (fun _ _ => rfl) k u d r

/-- What sees neither the host side, nor what is sent, nor a record put into the event ring, nor one that is dropped, sees nothing of an
event record. -/
theorem logEvent_keepRing {α : Type} (f : State → α) (hh : ∀ s h, f { s with host := h } = f s) (ho : ∀ s o, f { s with out := o } = f s)
    (hring : ∀ s e, f (ringPut s eventRing (eventBytes e)) = f s) (hdrop : ∀ s, f (dropMsix s) = f s)
    (k : EvKind) (u : Nat) (d : Bytes) (r : Nat) : f (logEvent s k u d r) = f s := by
  have hmsix : ∀ t v, f (sendMsix t v) = f t := fun t v => by
    unfold sendMsix
    dsimp only
    split
    · exact hdrop t
    · split
      · exact setHostPort_keep t f hh _ _
      · split
        · exact ho _ _
        · rfl
  unfold logEvent logNaming
  dsimp only
  split
  · split
    · rw [hmsix, hh, hring, hh]
    · rw [hh, hring, hh]
  · rw [hh, hdrop, hh]

/-- An event record moves no register but those of the event ring (R600). -/
theorem reg_logEvent (k : EvKind) (u : Nat) (d : Bytes) (r o : Nat) (hp : o ≠ mgBase + 0x1C) (hf : o ≠ mgBase + 0x24)
    (hc : o ≠ mgBase + 0x28) : reg (logEvent s k u d r) o = reg s o := by
  refine logEvent_keepRing s (fun t => reg t o) (fun _ _ => rfl) (fun _ _ => rfl) (fun t e => ?_) (fun t => reg_countEvent t _ _ _ o hc hf)
    k u d r
  exact (reg_setReg_other _ _ _ _ hp).trans (hostWrite_keep t (fun t => reg t o) (fun _ _ => rfl) _ _)

/-- A ring holds at most 2^16 records (R386). -/
theorem ringSize_bounds (r : RingRegs) : 0 < ringSize s r ∧ ringSize s r ≤ 2 ^ 16 := by
  unfold ringSize
  dsimp only
  split
  · exact ⟨Nat.two_pow_pos _, Nat.pow_le_pow_right (by decide) (by omega)⟩
  · decide

/-- The base that a pair of registers holds lies below 2^52 (R198, R386). -/
theorem pairBase_lt (lo hi n : Nat) : pairBase s lo hi n < 2 ^ 52 := by
  have h1 : (reg s lo).toNat / 2 ^ n * 2 ^ n ≤ (reg s lo).toNat := Nat.div_mul_le_self _ _
  have h2 := (reg s lo).isLt
  have h3 : (reg s hi).toNat % 2 ^ 20 < 2 ^ 20 := Nat.mod_lt _ (by decide)
  unfold pairBase
  omega

/-- A write to host memory that ends below 2^64 touches no other space. -/
theorem memByte_hostWrite_other (a x : Nat) (bs : Bytes) (ha : a + bs.length ≤ spaceSize) (hx : spaceSize ≤ x) :
    memByte (hostWrite s a bs) x = memByte s x := by
  unfold hostWrite
  split
  · rw [memByte_memWrite, if_neg]
    have : hostAddr a ≤ a := Nat.mod_le _ _
    omega
  · rfl

@[simp] theorem eventBytes_length (e : EventRec) : (eventBytes e).length = 32 := by simp [eventBytes, fit_length]

/-- Where a record of the event ring lies in host memory (R386). -/
theorem eventSlot_le (w : Nat) :
    pairBase s eventRing.lo eventRing.hi 12 + w % ringSize s eventRing * eventRing.bytes + 32 ≤ spaceSize := by
  have h1 := pairBase_lt s eventRing.lo eventRing.hi 12
  obtain ⟨h0, h2⟩ := ringSize_bounds s eventRing
  have h3 : w % ringSize s eventRing < 2 ^ 16 := Nat.lt_of_lt_of_le (Nat.mod_lt _ h0) h2
  have h4 : eventRing.bytes = 32 := rfl
  have h5 : spaceSize = 2 ^ 64 := rfl
  rw [h4, h5]
  omega

/-- An event record writes to host memory alone. -/
theorem memByte_logEvent (k : EvKind) (u : Nat) (d : Bytes) (r x : Nat) (hx : spaceSize ≤ x) :
    memByte (logEvent s k u d r) x = memByte s x := by
  refine logEvent_keepRing s (fun t => memByte t x) (fun _ _ => rfl) (fun _ _ => rfl) (fun t e => ?_) (fun _ => rfl) k u d r
  refine memByte_hostWrite_other t _ x _ ?_ hx
  rw [List.length_set, eventBytes_length]
  exact eventSlot_le t _

end

end Sys2Proof.Machine
end

section
/-!
SUPPORT. The step, and a register write of four bytes (R10, R572), by case; the statements on the step and on register writes.
-/
namespace Sys2Proof.Machine

open Sys2Proof

/-! ## The step -/

theorem step_of_idle (s : State) (hp : s.pending = []) (hs : ∀ e ∈ s.ports, e.2.swap = none) :
    step s = .next (if s.host.request.isSome ∧ configurable s then settle (carryOut (tick s)) else tick s) := by
  have hcopy : copyNames (tick s) = tick s := copyNames_of_noSwaps _ (by simpa using hs)
  have hidle : step s = .next (idleStep s) := by simp [step, hp]
  rw [hidle, idleStep, hcopy]
  rfl

theorem carryOut_of_request (s : State) (target : Nat) (role : BitVec 2) (hr : s.host.request = some (target, role))
    (hst : s.host.stopping = false) : carryOut s = request s target role := by
  simp [carryOut, hr, hst]

/-- Settles O1: a step is `exec` on the front of the queue; on an empty queue only time and a BUSY request move. -/
theorem stepTakesTheFront : Obligations.StepTakesTheFront := by
  unfold Obligations.StepTakesTheFront
  refine ⟨fun c rest s hp => by simp [step, hp], fun s hp hs => ⟨fun hr => ?_, fun target role hr hst hc => ?_⟩⟩
  · rw [step_of_idle s hp hs, if_neg (by simp [hr])]
    rfl
  · rw [step_of_idle s hp hs, if_pos (by simp [hr, hc]), carryOut_of_request (tick s) target role hr hst]
    rfl

/-! ## Register writes -/

theorem slice_all (bs : Bytes) : slice bs 0 bs.length = bs := by simp [slice]

@[simp] theorem wordAt_toLe (v : Word) : wordAt (toLe 4 v.toNat) 0 = v := by
  have hs : slice (toLe 4 v.toNat) 0 4 = toLe 4 v.toNat := by simpa using slice_all (toLe 4 v.toNat)
  have hv := v.isLt
  apply BitVec.eq_of_toNat_eq
  rw [wordAt, fieldAt, hs, leNat_toLe, BitVec.toNat_ofNat]
  omega

/-- What may go on after a write is `settle`, which does nothing where the module does not run. -/
theorem afterBar_eq_settle (s : State) : afterBar s = settle s := by
  unfold afterBar
  split
  · rfl
  · rename_i h
    simp [settle, h]

/-- Four aligned bytes written in MAINT or SERVICE (R10, R572). -/
theorem exec_registerWrite_word (s : State) (off : Nat) (v : Word) (hc : configurable s = true) (ha : off % 4 = 0) (ho : off < bar0Bytes) :
    exec (.registerWrite off (toLe 4 v.toNat)) s = .next (settle (writeServed s off v)) := by
  have hw : barWrite s off (toLe 4 v.toNat) = writeServed s off v := by simp [barWrite, ha, writeWord, hc]
  simp only [exec, execRegisterWrite, if_pos ho, barWriteRun, afterBar_eq_settle, hw]

theorem writeServed_taken (s : State) (off : Nat) (v : Word) (r : RegSpec) (b : Blk) (i o : Nat) (hl : liveReg s off = some r)
    (hb : blkOf off = some (b, i, o)) (hm : r.maint = true → s.mode = .maint) (hv : valueOk s b o v = true) :
    writeServed s off v = writeTaken s b i o off r v := by
  have htaken : ((r.maint && decide (s.mode ≠ .maint)) || !valueOk s b o v) = false := by
    cases h : r.maint
    · simp [hv]
    · simp [hv, hm h]
  simp only [writeServed, hl, hb]
  rw [htaken]
  rfl

theorem writeServed_refused (s : State) (off : Nat) (v : Word) (r : RegSpec) (b : Blk) (i o : Nat) (hl : liveReg s off = some r)
    (hb : blkOf off = some (b, i, o)) (h : (r.maint = true ∧ s.mode = .service) ∨ valueOk s b o v = false) :
    writeServed s off v = logRegWrite s off v.toNat := by
  rcases h with ⟨hm, hs⟩ | hv
  · simp [writeServed, hl, hb, hm, hs]
  · simp [writeServed, hl, hb, hv]

/-- The blocks whose registers take a write with no effect beside their fields. -/
theorem writeTaken_plain (s : State) (b : Blk) (i o off : Nat) (r : RegSpec) (v : Word)
    (hb : b = .glb ∨ b = .cp ∨ b = .hb ∨ b = .xb ∨ b = .mem) (hh : r.half = .single) :
    writeTaken s b i o off r v = writePlain s off r v := by
  rcases hb with rfl | rfl | rfl | rfl | rfl <;> simp [writeTaken, hh]

/-- Settles O10: a write that is taken is `writePlain`, one that is refused is its event record. -/
theorem registerWrites : Obligations.RegisterWrites := by
  unfold Obligations.RegisterWrites
  constructor
  · intro off v r b i o s hc ha ho hl hb hblk hh hm hv
    refine ⟨writePlain s off r v, ?_, reg_setReg_same s off _, fun o' ho' => reg_setReg_other s off o' _ ho', rfl, rfl, rfl, rfl, rfl⟩
    rw [exec_registerWrite_word s off v hc ha ho, writeServed_taken s off v r b i o hl hb hm hv, writeTaken_plain s b i o off r v hblk hh]
  · intro off v r b i o s hc ha ho hl hb href
    refine ⟨logRegWrite s off v.toNat, ?_, rfl, logEvent_eventSeq .., by simp, by simp, by simp, by simp,
      fun o' hp hf hd => reg_logEvent s _ _ _ _ o' hp hf hd⟩
    rw [exec_registerWrite_word s off v hc ha ho, writeServed_refused s off v r b i o hl hb href]

end Sys2Proof.Machine
end

section
/-!
SUPPORT. What the bunting's operations leave, and a request for a module state as far as it goes (R575 to R579): what entry to MAINT and to
SERVICE leaves, and what a rejected request does.
-/
namespace Sys2Proof.Machine

open Sys2Proof

/-! ## The bunting -/

section
variable {α : Type} (f : State → α) (hlog : ∀ s k u d r, f (logEvent s k u d r) = f s)
include hlog

/-- What sees neither the units of the bunting nor an event record sees nothing of a unit that changes its state. -/
theorem setUnit_keep (hd : ∀ s x, f { s with age := { s.age with dies := x } } = f s)
    (hb : ∀ s x, f { s with age := { s.age with blocks := x } } = f s) (s : State) (k : UnitKind) (n : Nat) (st : UnitState) (rule : Nat) :
    f (setUnit s k n st rule) = f s := by
  unfold setUnit
  dsimp only
  split
  · rfl
  · refine (hlog _ _ _ _ _).trans ?_
    cases k with
    | epb => exact hb _ _
    | plane => exact hd _ _
    | reduction => exact hd _ _
    | mgmt => exact hd _ _
    | clock => exact hd _ _
    | lane | memory | fwSlot | hostPort => rfl

/-- What does not see which clock-and-power die is in service either sees nothing of its replacement. -/
theorem moveClock_keep (hd : ∀ s x, f { s with age := { s.age with dies := x } } = f s)
    (hb : ∀ s x, f { s with age := { s.age with blocks := x } } = f s)
    (hc : ∀ s x, f { s with age := { s.age with retiredClock := x } } = f s)
    (hp : ∀ s x, f { s with power := { s.power with rootClockDie := x } } = f s) (hr : ∀ s x, f { s with regs := x } = f s) (s : State) :
    f (moveClock s) = f s := by
  have hcount : ∀ t, f (countSwap t) = f t := fun t => (countEvent_keep _ f hr _ _ _).trans (countEvent_keep _ f hr _ _ _)
  unfold moveClock
  split
  · rfl
  · dsimp only
    split
    · exact hc _ _
    · refine (hcount _).trans ((setUnit_keep f hlog hd hb _ _ _ _ _).trans ((setUnit_keep f hlog hd hb _ _ _ _ _).trans ?_))
      exact (hp { s with age := { s.age with retiredClock := false } } _).trans (hc s _)

end

theorem zeroScratch_keep {α : Type} (f : State → α) (hm : ∀ s x, f { s with mem := x } = f s) (s : State) : f (zeroScratch s) = f s :=
  foldl_keep f _ (fun _ _ => hm _ _) _ s

/-- An entry to MAINT or to SERVICE that sees neither memory nor the die of the root clock, nor the bunting, nor the event log. -/
theorem moveClock_zeroScratch_keep {α : Type} (f : State → α) (hh : ∀ s x, f { s with host := x } = f s)
    (hm : ∀ s x, f { s with mem := x } = f s) (hr : ∀ s x, f { s with regs := x } = f s) (ho : ∀ s x, f { s with out := x } = f s)
    (ha : ∀ s x, f { s with age := x } = f s) (hp : ∀ s x, f { s with power := x } = f s) (s : State) :
    f (moveClock (zeroScratch s)) = f s :=
  (moveClock_keep f (fun t => logEvent_keep t f hh hm hr ho) (fun _ _ => ha _ _) (fun _ _ => ha _ _) (fun _ _ => ha _ _) (fun _ _ => hp _ _)
    hr _).trans (zeroScratch_keep f hm s)

theorem enableHostQueues_sec (s : State) : (enableHostQueues s).sec = s.sec := by
  have hone : ∀ t b q, (enableHostQueue t b q).sec = t.sec := fun t b q => by
    unfold enableHostQueue
    split
    · rw [logCommand_sec, noteHostRead_sec]
    · dsimp only
      split
      · rfl
      · split
        · rw [logCommand_sec, countBadEntry, countEvent_sec]
        · split
          · rfl
          · rw [logCommand_sec]
  exact foldl_keep (·.sec) _ (fun t b => foldl_keep (·.sec) _ (fun t i => hone t b (512 + i)) _ t) _ s

/-! ## Requests -/

/-- The state of a request that was just made: TARGET and ROLE stand in MG_STATE_REQ, and BUSY is set (R599). -/
def asked (s : State) (target : Nat) (role : BitVec 2) : State :=
  { setReg s (mgBase + 4) (BitVec.ofNat 32 (role.toNat * 16 + target)) with
    host := { s.host with request := some (target, role), stopping := false } }

/-- GO with a TARGET and a ROLE, as MG_STATE_REQ takes it (R599). -/
def goWord (target : BitVec 4) (role : BitVec 2) : Word := BitVec.ofNat 32 (0x100 + role.toNat * 16 + target.toNat)

theorem goWord_fields (target : BitVec 4) (role : BitVec 2) :
    goWord target role &&& 0x3F = BitVec.ofNat 32 (role.toNat * 16 + target.toNat) ∧ (goWord target role).getLsbD 8 = true ∧
    bits (goWord target role).toNat 3 0 = target.toNat ∧ BitVec.ofNat 2 (bits (goWord target role).toNat 5 4) = role := by
  revert target role
  decide

theorem writeRequest_go (s : State) (target : BitVec 4) (role : BitVec 2) (hr : s.host.request = none) :
    writeRequest s (goWord target role) = asked s target.toNat role := by
  obtain ⟨hword, hgo, htarget, hrole⟩ := goWord_fields target role
  unfold writeRequest
  rw [if_neg (by simp [hr])]
  simp only [hgo, hword, htarget, hrole, if_true]
  rfl

/-- A request that nothing else holds up is made and carried out as far as it goes (log 10). -/
theorem goRequest_of_idle (s : State) (target : BitVec 4) (role : BitVec 2) (hc : configurable s = true) (hr : s.host.request = none) :
    goRequest s target role = settle (request (asked s target.toNat role) target.toNat role) := by
  have hw : writeRequest s (BitVec.ofNat 32 (0x100 + role.toNat * 16 + target.toNat)) = asked s target.toNat role :=
    writeRequest_go s target role hr
  simp only [goRequest, if_pos hc, hw, hr, Option.isSome_none, Bool.false_eq_true, if_false]
  rfl

/-- A request while another is BUSY is discarded with a record (R599). -/
theorem goRequest_of_busy (s : State) (target : BitVec 4) (role : BitVec 2) (hc : configurable s = true)
    (hr : s.host.request.isSome = true) :
    goRequest s target role = settle (logRegWrite s (mgBase + 4) (goWord target role).toNat) := by
  have hw : writeRequest s (BitVec.ofNat 32 (0x100 + role.toNat * 16 + target.toNat)) =
      logRegWrite s (mgBase + 4) (goWord target role).toNat := by
    unfold writeRequest
    rw [if_pos hr]
    rfl
  simp only [goRequest, if_pos hc, hw, if_pos hr]

/-- What a rejected request leaves: its outcome, and the module as it was (R575). -/
theorem rejectReq_outcome (s : State) (why : Byte) :
    (rejectReq s why).mode = s.mode ∧ (rejectReq s why).host.reqStatus = stStateRejected ∧ (rejectReq s why).host.reqReason = why ∧
    (rejectReq s why).host.request = none ∧ (rejectReq s why).queues = s.queues ∧ (rejectReq s why).sec = s.sec ∧
    (rejectReq s why).gens = s.gens :=
  ⟨logState_mode .., logEvent_reqStatus .., logEvent_reqReason .., logEvent_request .., logState_queues .., logState_sec ..,
    logEvent_keep _ (·.gens) (fun _ _ => rfl) (fun _ _ => rfl) (fun _ _ => rfl) (fun _ _ => rfl) ..⟩

/-- A module that has entered MAINT on request: the outcome is OK, and the save-record key is gone (R579). -/
def InMaint (u : State) : Prop :=
  u.mode = .maint ∧ u.host.reqStatus = stOk ∧ u.host.reqReason = 0 ∧ u.host.request = none ∧ u.sec.saveKey = none ∧ u.ls.state = .off

/-- Entry to MAINT ends where no queue is left; until then it waits, and nothing changes (R579, log 10). -/
theorem finishMaint_cases (s : State) : InMaint (finishMaint s) ∨ (s.queues ≠ [] ∧ finishMaint s = s) := by
  by_cases hq : s.queues = []
  · have hend : (!s.queues.isEmpty) = false := by simp [hq]
    unfold InMaint finishMaint
    rw [hend]
    simp only [Bool.false_eq_true, if_false]
    refine .inl ⟨logState_mode .., logEvent_reqStatus .., logEvent_reqReason .., logEvent_request .., ?_, ?_⟩
    · rw [logState_sec]
      exact moveClock_zeroScratch_keep (·.sec.saveKey) (fun _ _ => rfl) (fun _ _ => rfl) (fun _ _ => rfl) (fun _ _ => rfl) (fun _ _ => rfl)
        (fun _ _ => rfl) _
    · rw [logState_ls]
      exact moveClock_zeroScratch_keep (·.ls.state) (fun _ _ => rfl) (fun _ _ => rfl) (fun _ _ => rfl) (fun _ _ => rfl) (fun _ _ => rfl)
        (fun _ _ => rfl) _
  · refine .inr ⟨hq, ?_⟩
    unfold finishMaint
    rw [if_pos (by simpa using hq)]

/-- Entry to MAINT disables every queue, and then goes as far as `finishMaint` does. -/
theorem enterMaint_eq (s : State) :
    ∃ t, enterMaint s = finishMaint t ∧ t.host.stopping = true ∧ (s.queues = [] → t.queues = []) :=
  ⟨_, rfl, rfl, fun h => by simp [h]⟩

theorem enterMaint_cases (s : State) :
    InMaint (enterMaint s) ∨ (s.queues ≠ [] ∧ (enterMaint s).queues ≠ [] ∧ (enterMaint s).host.stopping = true) := by
  obtain ⟨t, he, hst, hq⟩ := enterMaint_eq s
  rw [he]
  rcases finishMaint_cases t with h | ⟨hleft, hsame⟩
  · exact .inl h
  · rw [hsame]
    exact .inr ⟨fun h => hleft (hq h), hleft, hst⟩

/-- The module in SERVICE before anything is sent: the save-record key drawn, the host queues enabled (R578). -/
def serviceEntry (s : State) : State :=
  let (key, s) := draw (zeroScratch s) 32
  let s := enableHostQueues { s with sec := { s.sec with saveKey := some key } }
  let s := { s with mode := .service, serviceAt := s.now, gens := [], degraded := s.degraded || decide (s.age.degraded ≠ 0) }
  setSwitch s { s.switch with withdrawn := [] }

/-- What a module that has entered SERVICE sends to its partners (R85, R490, R578). -/
def noticeEntry (s : State) : State :=
  let s := announce (noticeAll s mgRouteRestore)
  let s := sendRestarts s (fabricPorts s) (servedGens s)
  if (lsPort s).isSome then beginPairing s else s

theorem enterService_eq (s : State) :
    enterService s = logState (setOutcome (noticeEntry (serviceEntry s)) stOk 0) s.mode 578 := rfl

theorem noticeEntry_keep {α : Type} {f : State → α} (hf : BlindToMgmt f) (hw : ∀ s x, f { s with switch := x } = f s)
    (hl : ∀ s x, f { s with ls := x } = f s) (s : State) : f (noticeEntry s) = f s := by
  unfold noticeEntry
  dsimp only
  split
  · rw [beginPairing_keep hf hl, sendRestarts_keep hf, announce_keep hf hw, noticeAll_keep hf]
  · rw [sendRestarts_keep hf, announce_keep hf hw, noticeAll_keep hf]

theorem serviceEntry_saveKey (s : State) : (serviceEntry s).sec.saveKey.isSome = true := by
  have h : (serviceEntry s).sec = { s.sec with saveKey := some (draw (zeroScratch s) 32).1 } :=
    (enableHostQueues_sec _).trans (congrArg (fun x : Security => { x with saveKey := some (draw (zeroScratch s) 32).1 })
      (zeroScratch_keep (·.sec) (fun _ _ => rfl) s))
  rw [h]
  rfl

/-- What entry to SERVICE leaves of the module's state, of the outcome and of the save-record key (R578). -/
theorem enterService_outcome (s : State) :
    (enterService s).mode = .service ∧ (enterService s).host.reqStatus = stOk ∧ (enterService s).host.reqReason = 0 ∧
    (enterService s).host.request = none ∧ (enterService s).sec.saveKey.isSome = true := by
  have hmode : BlindToMgmt (fun t : State => t.mode) := ⟨fun _ _ => rfl, fun _ _ => rfl, fun _ _ => rfl, fun _ _ _ => rfl, fun _ _ => rfl⟩
  have hsec : BlindToMgmt (fun t : State => t.sec) := ⟨fun _ _ => rfl, fun _ _ => rfl, fun _ _ => rfl, fun _ _ _ => rfl, fun _ _ => rfl⟩
  rw [enterService_eq]
  refine ⟨?_, logEvent_reqStatus .., logEvent_reqReason .., logEvent_request .., ?_⟩
  · rw [logState_mode]
    exact noticeEntry_keep hmode (fun _ _ => rfl) (fun _ _ => rfl) (serviceEntry s)
  · have h : (setOutcome (noticeEntry (serviceEntry s)) stOk 0).sec = (serviceEntry s).sec :=
      noticeEntry_keep hsec (fun _ _ => rfl) (fun _ _ => rfl) (serviceEntry s)
    rw [logState_sec, h]
    exact serviceEntry_saveKey s

end Sys2Proof.Machine
end

section
/-!
SUPPORT. The statement on requests to enter and to leave MAINT, clause by clause (R575 to R579, R599).
-/
namespace Sys2Proof.Machine

open Sys2Proof

theorem goWord_toNat (target : BitVec 4) (role : BitVec 2) : (goWord target role).toNat = 0x100 + 16 * role.toNat + target.toNat := by
  revert target role
  decide

theorem b01_le (b : Bool) : b01 b ≤ 1 := by cases b <;> decide

theorem modeCode_lt (m : Mode) : modeCode m < 256 := by
  cases m <;> decide

/-- BUSY reads 1 while a request is made (R598, R599). -/
theorem mgState_busy (s : State) (h : s.host.request.isSome = true) : (mgState s).getLsbD 9 = true := by
  have h1 : b01 s.host.request.isSome = 1 := by rw [h]; rfl
  have h2 := b01_le s.degraded
  have h3 := modeCode_lt s.mode
  rw [mgState, BitVec.getLsbD_ofNat, Nat.testBit_eq_decide_div_mod_eq, h1]
  simp only [Nat.reduceLT, decide_true, Bool.true_and, decide_eq_true_eq]
  omega

/-- A plain write of MG_STATE_REQ with GO makes the request (R599). -/
theorem exec_write_go (s : State) (target : BitVec 4) (role : BitVec 2) (r : RegSpec) (hc : configurable s = true)
    (hr : s.host.request = none) (hl : liveReg s (mgBase + 4) = some r) (hm : r.maint = false) (hh : r.half = .single) :
    exec (.registerWrite (mgBase + 4) (toLe 4 (goWord target role).toNat)) s = .next (settle (asked s target.toNat role)) := by
  have hw : writeServed s (mgBase + 4) (goWord target role) = writeRequest s (goWord target role) := by
    rw [writeServed_taken s _ _ r .mg 0 4 hl rfl (by simp [hm]) rfl]
    simp [writeTaken, hh, writeMg]
  rw [exec_registerWrite_word s _ _ hc (by decide) (by decide), hw, writeRequest_go s target role hr]

/-- A request with a reserved target only has its outcome written (R575). -/
theorem request_reserved (s : State) (target : Nat) (role : BitVec 2) (h1 : target ≠ 1) (h2 : target ≠ 2) :
    request s target role = setOutcome s stProtocol 0 := by
  simp [request, h1, h2]

/-- Entry to MAINT requested where nothing is BUSY. -/
theorem exec_enterMaint (s : State) (role : BitVec 2) (hc : configurable s = true) (hr : s.host.request = none) :
    exec (.enterMaintRequest role) s = .next (settle (requestMaint (asked s 1 role))) := by
  have h := goRequest_of_idle s 1 role hc hr
  exact congrArg Host.Outcome.next h

/-- SERVICE requested where nothing is BUSY and nothing happened around the module. -/
theorem exec_leaveMaint (s : State) (role : BitVec 2) (hc : configurable s = true) (hr : s.host.request = none) :
    exec (.leaveMaintRequest role {}) s = .next (settle (requestService (asked s 2 role) role)) := by
  have h := goRequest_of_idle s 2 role hc hr
  exact congrArg Host.Outcome.next h

theorem exec_reservedTarget (s : State) (target : BitVec 4) (role : BitVec 2) (hc : configurable s = true) (hr : s.host.request = none)
    (h1 : target ≠ 1) (h2 : target ≠ 2) :
    exec (.stateReqReservedTarget target role) s = .next (settle (setOutcome (asked s target.toNat role) stProtocol 0)) := by
  have hn : ∀ k : BitVec 4, target ≠ k → target.toNat ≠ k.toNat := fun k h e => h (BitVec.eq_of_toNat_eq e)
  have hgo := goRequest_of_idle s target role hc hr
  rw [request_reserved _ _ _ (hn 1 h1) (hn 2 h2)] at hgo
  have harm : exec (.stateReqReservedTarget target role) s = .next (if target = 1 ∨ target = 2 then s else goRequest s target role) := rfl
  rw [harm, if_neg (not_or.mpr ⟨h1, h2⟩), hgo]

/-- The first check of R579 that fails rejects the request. -/
theorem requestMaint_refused (s : State) (role : BitVec 2) (why : Byte) (h : maintRefusal s = some why) :
    requestMaint (asked s 1 role) = rejectReq (asked s 1 role) why := by
  have h' : maintRefusal (asked s 1 role) = some why := h
  simp [requestMaint, h']

theorem requestMaint_taken (s : State) (role : BitVec 2) (h : maintRefusal s = none) :
    requestMaint (asked s 1 role) = enterMaint (asked s 1 role) := by
  have h' : maintRefusal (asked s 1 role) = none := h
  simp [requestMaint, h']

/-- MG_STATE_REQ as it stands holds the TARGET and ROLE of the request: no register reads differently for its being made. -/
theorem reg_asked (s : State) (target : Nat) (role : BitVec 2) (h : reg s (mgBase + 4) = BitVec.ofNat 32 (target + 16 * role.toNat))
    (o : Nat) : reg (asked s target role) o = reg s o := by
  have hword : BitVec.ofNat 32 (role.toNat * 16 + target) = reg s (mgBase + 4) := by
    rw [h, Nat.mul_comm, Nat.add_comm]
  by_cases ho : o = mgBase + 4
  · subst ho
    exact (reg_setReg_same s _ _).trans hword
  · exact reg_setReg_other s _ o _ ho

theorem serviceRefusal_asked (s : State) (role : BitVec 2) (h : reg s (mgBase + 4) = BitVec.ofNat 32 (2 + 16 * role.toNat)) :
    serviceRefusal (asked s 2 role) role = serviceRefusal s role := by
  have hreg : ∀ o, reg (asked s 2 role) o = reg s o := reg_asked s 2 role h
  have hbit : ∀ o i, regBit (asked s 2 role) o i = regBit s o i := fun o i => by simp [regBit, hreg]
  have hacc : ∀ i, accepted (asked s 2 role) i = accepted s i := fun i => by simp [accepted, hbit]
  have htab : tableOn (asked s 2 role) = tableOn s := funext fun b => by simp [tableOn, hbit]; rfl
  have hstate : (asked s 2 role).mode = s.mode ∧ recovery (asked s 2 role) = recovery s ∧ (asked s 2 role).role = s.role ∧
      (asked s 2 role).variant = s.variant := ⟨rfl, rfl, rfl, rfl⟩
  obtain ⟨hmode, hrec, hrole, hvar⟩ := hstate
  simp only [serviceRefusal, hreg, hbit, hacc, htab, hmode, hrec, hrole, hvar]

/-- A feature accepted that was not offered stands in one of the four words that R576 compares. -/
theorem accepted_unoffered (s : State) (i : Nat) (hi : i < 128) (ha : accepted s i = true) (ho : offered s i = false) :
    (List.range 4).any (fun k => decide (reg s (glbBase + 0x20 + 4 * k) &&& ~~~reg s (glbBase + 0x10 + 4 * k) ≠ 0)) = true := by
  refine List.any_eq_true.mpr ⟨i / 32, List.mem_range.mpr (by omega), decide_eq_true fun h0 => ?_⟩
  have hbit := congrArg (fun w : Word => w.getLsbD (i % 32)) h0
  have hlt : i % 32 < 32 := Nat.mod_lt _ (by decide)
  simp only [accepted, offered, regBit] at ha ho
  simp only [BitVec.getLsbD_and, BitVec.getLsbD_not, ha, ho, hlt, BitVec.ofNat_eq_ofNat, BitVec.getLsbD_zero] at hbit
  exact absurd hbit (by decide)

/-- Settles O13: each kind of request is made by `goRequest`, and its outcome is that of the refusal or of the entry. -/
theorem maintRequests : Obligations.MaintRequests := by
  unfold Obligations.MaintRequests
  have hword : ∀ role : BitVec 2, (goWord 1 role).toNat = 257 + 16 * role.toNat := fun role => by
    rw [goWord_toNat]
    have : (1 : BitVec 4).toNat = 1 := rfl
    omega
  refine ⟨fun role s hc => ⟨fun hbusy => ?_, fun hreq hstop hq => ?_, fun r hr hl hm hh => ?_,
      fun hr => ⟨fun why hwhy => ?_, fun hnone => ?_, fun target h1 h2 => ?_⟩⟩,
    fun role s hc hr hword => ⟨fun why hwhy => ?_, fun hnone => ?_⟩,
    fun role s hmode hrec => ⟨fun h2 => ?_, fun h2 hne => ?_, fun h2 heq i hi ha ho => ?_⟩⟩
  · rw [← hword]
    exact congrArg Host.Outcome.next (goRequest_of_busy s 1 role hc hbusy)
  · have hcarry : carryOut s = finishMaint s := by simp [carryOut, hreq, hstop]
    rw [hcarry]
    exact (finishMaint_cases s).resolve_right fun h => h.1 hq
  · refine ⟨asked s 1 role, ?_, rfl, mgState_busy _ rfl, rfl, rfl, rfl⟩
    rw [← hword]
    exact exec_write_go s 1 role r hc hr hl hm hh
  · obtain ⟨hmode, hst, hre, -, hqs, hsec, -⟩ := rejectReq_outcome (asked s 1 role) why
    exact ⟨_, exec_enterMaint s role hc hr, by rw [requestMaint_refused s role why hwhy]; exact ⟨hmode, hst, hre, hqs, hsec⟩⟩
  · refine ⟨_, exec_enterMaint s role hc hr, ?_⟩
    rw [requestMaint_taken s role hnone]
    exact enterMaint_cases (asked s 1 role)
  · exact ⟨_, exec_reservedTarget s target role hc hr h1 h2, rfl, rfl, rfl, rfl, rfl, rfl⟩
  · refine ⟨rejectReq (asked s 2 role) why, ?_, rejectReq_outcome _ _⟩
    rw [exec_leaveMaint s role hc hr, requestService, serviceRefusal_asked s role hword, hwhy]
  · refine ⟨enterService (asked s 2 role), ?_, enterService_outcome _⟩
    rw [exec_leaveMaint s role hc hr, requestService, serviceRefusal_asked s role hword, hnone]
  · simp [serviceRefusal, hmode, hrec, h2]
  · simp [serviceRefusal, hmode, hrec, Nat.not_le.mpr h2, hne]
  · have hany := accepted_unoffered s i hi ha ho
    simp only [serviceRefusal, hmode, hrec, heq, hany]
    simp [Nat.not_le.mpr h2]

end Sys2Proof.Machine
end

section
/-!
SUPPORT. What completes a command and closes a queue leaves the teardowns as they were; then the statement on the steps of a teardown
(R466, R467).
-/
namespace Sys2Proof.Machine

open Sys2Proof

/-! ## Tables by key -/

theorem Tab.get?_del_same {κ α : Type} [DecidableEq κ] (t : Tab κ α) (k : κ) : Tab.get? (Tab.del t k) k = none := by
  induction t with
  | nil => rfl
  | cons p t ih =>
    by_cases h : p.1 = k
    · have hdel : Tab.del (p :: t) k = Tab.del t k := by simp [Tab.del, h]
      rw [hdel, ih]
    · have hdel : Tab.del (p :: t) k = p :: Tab.del t k := by simp [Tab.del, h]
      rw [hdel, Tab.get?, if_neg h, ih]

/-! ## What leaves the teardowns as they were -/

theorem burst_teardowns (s : State) (a : Nat) (bs : Bytes) : (burst s a bs).teardowns = s.teardowns := rfl

theorem writeRecord_teardowns (s : State) (b slot : Nat) (bs : Bytes) : (writeRecord s b slot bs).teardowns = s.teardowns := by
  unfold writeRecord harbourWrite
  split
  · split
    · rfl
    · exact burst_teardowns ..
  · exact hostWrite_teardowns ..

theorem setAtBlock_teardowns (s : State) (b : Nat) (c : CtxId) (x : CtxAtBlock) : (setAtBlock s b c x).teardowns = s.teardowns := by
  have hsave : (saveRecord s b c x).1.teardowns = s.teardowns := by
    unfold saveRecord
    split
    · exact writeRecord_teardowns ..
    · rfl
  unfold setAtBlock
  dsimp only
  split
  · rfl
  · exact hsave

theorem acquire_teardowns (s : State) (b : Nat) (ctx : CtxId) (scope : Nat) : (acquire s b ctx scope).teardowns = s.teardowns := by
  rw [acquire, cacheInval, bump_teardowns]

theorem addCounter_teardowns (s : State) (b : Nat) (c : CtxId) (i v : Nat) : (addCounter s b c i v).teardowns = s.teardowns := by
  unfold addCounter setCounter
  split
  · rfl
  · exact setAtBlock_teardowns ..

theorem queuePennant_teardowns (s : State) (b q : Nat) (p : Pennant) : (queuePennant s b q p).teardowns = s.teardowns := by
  unfold queuePennant
  split <;> rfl

theorem releaseEntry_teardowns (s : State) (b q : Nat) : (releaseEntry s b q).teardowns = s.teardowns := by
  unfold releaseEntry
  split <;> rfl

theorem abandonHoist_teardowns (s : State) (b q hoist : Nat) (st : Byte) : (abandonHoist s b q hoist st).teardowns = s.teardowns := by
  unfold abandonHoist
  split <;> rfl

/-- A command that completes moves counters, cached lines and its queue, and no teardown. -/
theorem completeCmd_teardowns (s : State) (c : Cmd) (st : Byte) (r : DWord) (aux : Bytes) (ab : Bool) :
    (completeCmd s c st r aux ab).teardowns = s.teardowns := by
  have hacq : ∀ (t : State) (p : Bool) (n : Nat), (if p then acquire t c.block c.ctx n else t).teardowns = t.teardowns := fun t p n => by
    cases p
    · rfl
    · exact acquire_teardowns ..
  have hcount : ∀ (t : State) (p : Bool) (i v : Nat),
      (if p then addCounter t c.block c.ctx i v else t).teardowns = t.teardowns := fun t p i v => by
    cases p
    · rfl
    · exact addCounter_teardowns ..
  unfold completeCmd
  dsimp only
  have hend : ∀ t : State, (if goesOn st then t else abandonHoist t c.block c.queue c.hoist st).teardowns = t.teardowns := fun t => by
    split
    · rfl
    · exact abandonHoist_teardowns ..
  rw [hend]
  split
  · rw [queuePennant_teardowns, hcount, hacq]
  · split
    · rw [releaseEntry_teardowns, hcount, hacq]
    · rw [hcount, hacq]

theorem closeQueue_teardowns (s : State) (b q : Nat) : (closeQueue s b q).teardowns = s.teardowns := by
  unfold closeQueue
  split
  · rfl
  · dsimp only
    split
    · rfl
    · split
      · rfl
      · split <;> exact completeCmd_teardowns ..

theorem disableQueue_teardowns (s : State) (b q : Nat) (by_ : Option Nat) (tag : Nat) :
    (disableQueue s b q by_ tag).teardowns = s.teardowns := by
  have hshut : (shutQueue s b q by_).1.teardowns = s.teardowns := by
    unfold shutQueue
    split <;> rfl
  unfold disableQueue
  dsimp only
  split
  · exact hshut
  · exact (logEvent_teardowns ..).trans hshut

/-- A context that is undefined is gone from the module and from every block; the teardowns stay. -/
theorem undefineCtx_leaves (s : State) (ctx : CtxId) :
    ctxOf (undefineCtx s ctx) ctx = none ∧ (∀ e ∈ (undefineCtx s ctx).ctxBlocks, e.1.2 ≠ ctx) ∧
    (undefineCtx s ctx).teardowns = s.teardowns := by
  refine ⟨Tab.get?_del_same _ _, fun e he => ?_, ?_⟩
  · exact of_decide_eq_true (List.mem_filter.mp he).2
  · exact foldl_keep (·.teardowns) (fun t (e : (Nat × Nat) × Queue) => closeQueue (disableQueue t e.1.1 e.1.2 none 0) e.1.1 e.1.2)
      (fun t e => (closeQueue_teardowns ..).trans (disableQueue_teardowns ..)) _ s

/-! ## Changing a teardown -/

theorem changeTeardown_some (s : State) (mine : Teardown → Bool) (f : Teardown → Teardown) (t : Teardown)
    (h : s.teardowns.find? mine = some t) :
    changeTeardown s mine f = { s with teardowns := s.teardowns.map (fun x => if x.no = t.no then f x else x) } := by
  simp only [changeTeardown, h]

theorem changeTeardown_none (s : State) (mine : Teardown → Bool) (f : Teardown → Teardown) (h : s.teardowns.find? mine = none) :
    changeTeardown s mine f = s := by
  simp only [changeTeardown, h]

/-- A teardown named by its number. -/
theorem changeTeardown_no (s : State) (f : Teardown → Teardown) (t : Teardown) (h : t ∈ s.teardowns) :
    (changeTeardown s (fun x => decide (x.no = t.no)) f).teardowns = s.teardowns.map (fun x => if x.no = t.no then f x else x) := by
  cases hf : s.teardowns.find? (fun x => decide (x.no = t.no)) with
  | none => exact absurd (List.find?_eq_none.mp hf t h) (by simp)
  | some y =>
    have hy : y.no = t.no := of_decide_eq_true (List.find?_some (p := fun x : Teardown => decide (x.no = t.no)) hf)
    rw [changeTeardown_some s _ f y hf, hy]

theorem changeTeardown_keep {α : Type} (g : State → α) (hg : ∀ s x, g { s with teardowns := x } = g s) (s : State) (mine : Teardown → Bool)
    (f : Teardown → Teardown) : g (changeTeardown s mine f) = g s := by
  unfold changeTeardown
  split
  · rfl
  · exact hg _ _

/-- The teardown of a context that runs with one more requester, where it has not that one yet (R468). -/
def addRequester (s : State) (ctx : CtxId) (src : Fid) : State :=
  changeTeardown s (fun t => decide (t.ctx = ctx) && !t.quiet && decide (src ∉ t.requesters))
    (fun t => { t with requesters := t.requesters ++ [src] })

/-- A teardown that runs gains a requester that it has not, and no teardown changes where it has it (R468). -/
theorem addRequester_teardowns (s : State) (ctx : CtxId) (src : Fid) :
    (∀ r, s.teardowns.find? (fun r => decide (r.ctx = ctx) && !r.quiet && decide (src ∉ r.requesters)) = some r →
      (addRequester s ctx src).teardowns =
        s.teardowns.map (fun y => if y.no = r.no then { y with requesters := y.requesters ++ [src] } else y)) ∧
    ((∀ r ∈ s.teardowns, r.ctx = ctx → r.quiet = false → src ∈ r.requesters) → (addRequester s ctx src).teardowns = s.teardowns) := by
  refine ⟨fun r hr => by rw [addRequester, changeTeardown_some _ _ _ r hr], fun hall => ?_⟩
  rw [addRequester, changeTeardown_none]
  refine List.find?_eq_none.mpr fun r hr hp => ?_
  simp only [Bool.and_eq_true, decide_eq_true_eq, Bool.not_eq_true'] at hp
  exact hp.2 (hall r hr hp.1.1 hp.1.2)

/-- A context that is stopped is left with no key, no cached line, no ledger entry and no program (R466). -/
theorem zeroCtx_leaves (s : State) (ctx : CtxId) :
    Tab.get? (zeroCtx s ctx).sec.keys ctx = none ∧ (∀ l ∈ (zeroCtx s ctx).cache, l.ctx ≠ ctx) ∧
    (∀ e ∈ (zeroCtx s ctx).ledger, e.key.ctx ≠ ctx) ∧ ∀ p ∈ (zeroCtx s ctx).programs, p.1.1 ≠ ctx := by
  unfold zeroCtx
  dsimp only
  refine ⟨Tab.get?_del_same _ _, fun l hl => ?_, fun e he => ?_, fun p hp => ?_⟩
  · exact of_decide_eq_true (List.mem_filter.mp hl).2
  · exact of_decide_eq_true (List.mem_filter.mp he).2
  · exact of_decide_eq_true (List.mem_filter.mp hp).2

/-- Steps 1 to 4 of R466 for a context at another module's request. -/
theorem beginTeardown_leaves (s : State) (ctx : CtxId) (src : Fid) :
    (∃ r ∈ (beginTeardown s ctx none [src] []).teardowns, r.ctx = ctx ∧ r.requesters = [src] ∧ r.quiet = false ∧ r.peers = []) ∧
    Tab.get? (beginTeardown s ctx none [src] []).sec.keys ctx = none ∧
    (∀ l ∈ (beginTeardown s ctx none [src] []).cache, l.ctx ≠ ctx) ∧ (∀ e ∈ (beginTeardown s ctx none [src] []).ledger, e.key.ctx ≠ ctx) ∧
    (∀ p ∈ (beginTeardown s ctx none [src] []).programs, p.1.1 ≠ ctx) := by
  have h := zeroCtx_leaves (stopCtx s ctx) ctx
  unfold beginTeardown
  generalize zeroCtx (stopCtx s ctx) ctx = t at h ⊢
  exact ⟨⟨_, List.mem_append_right _ (List.mem_singleton_self _), rfl, rfl, rfl, rfl⟩, h⟩

/-! ## TD_REQ and TD_DONE -/

/-- An MGMT packet that opens at the module goes on where its payload keeps its layout, and is malformed where not. -/
theorem takeMgmt_of_mgmtOpens (s : State) (op : Byte) (p : Packet) (bs : Bytes) (laidOut : Bytes → Bool) (k : State → Bytes → State)
    (h : MgmtOpens s op p bs) : takeMgmt s op p laidOut k = if laidOut bs then k s bs else refuseMalformed s (unitMgmt s) p.hdr := by
  obtain ⟨ht, rfl, hb, hd, hold, hmal, hdg, hsg, hbur, hopen⟩ := h
  refine takeMgmt_opens s p laidOut k bs ht hb hd.symm ((openSteps_eq_ok ..).mpr ⟨?_, hopen⟩)
  exact (headSteps_eq_none ..).mpr ⟨hold, hmal, rfl, hdg, hsg, hbur⟩

/-- What TD_REQ for a context means where it opens (R466, R468). -/
def onTdReq (s : State) (ctx : CtxId) (src : Fid) : State := match ctxOf s ctx with
  | none => sendTd s mgTdDone ctx src
  | some x =>
    if x.teardown then addRequester s ctx src else settle (beginTeardown s ctx none [src] [])

theorem exec_tdReq (s : State) (p : Packet) (hs : s.mode = .service) :
    exec (.tdReq p) s = .next (takeMgmt s mgTdReq p tdOk (fun s bs => onTdReq (ackMgmt s p.hdr) (tdCtx bs) p.hdr.src)) := by
  have harm : exec (.tdReq p) s = execTdReq p s := rfl
  rw [harm, execTdReq, if_neg (by simp [inService, hs])]
  rfl

theorem exec_tdDone (s : State) (p : Packet) (hs : s.mode = .service) :
    exec (.tdDone p) s = .next (takeMgmt s mgTdDone p tdOk (fun s bs => settle
      (changeTeardown (ackMgmt s p.hdr) (awaits (tdCtx bs) p.hdr.src)
      (fun t => { t with peers := t.peers.erase p.hdr.src })))) := by
  have harm : exec (.tdDone p) s = execTdDone p s := rfl
  rw [harm, execTdDone, if_neg (by simp [inService, hs])]

theorem exec_tdReq_opens (s : State) (p : Packet) (bs : Bytes) (hs : s.mode = .service) (ho : MgmtOpens s mgTdReq p bs)
    (hb : tdOk bs = true) :
    exec (.tdReq p) s = .next (onTdReq (ackMgmt s p.hdr) (tdCtx bs) p.hdr.src) := by
  rw [exec_tdReq s p hs, takeMgmt_of_mgmtOpens s _ p bs _ _ ho, if_pos hb]

theorem exec_tdDone_opens (s : State) (p : Packet) (bs : Bytes) (hs : s.mode = .service) (ho : MgmtOpens s mgTdDone p bs)
    (hb : tdOk bs = true) :
    exec (.tdDone p) s = .next (settle (changeTeardown (ackMgmt s p.hdr) (awaits (tdCtx bs) p.hdr.src)
      (fun t => { t with peers := t.peers.erase p.hdr.src }))) := by
  rw [exec_tdDone s p hs, takeMgmt_of_mgmtOpens s _ p bs _ _ ho, if_pos hb]

/-- Step 6 of R466, 400 µs after the stop time, with the harbour's shards gone. -/
theorem exec_quietExpiry (s : State) (ctx : CtxId) (t : Teardown) (hs : s.mode = .service)
    (ht : s.teardowns.find? (fun t => decide (t.ctx = ctx) && !t.quiet) = some t) (hh : stillHolds s ctx = false) :
    exec (.teardownQuietExpiry ctx) s = .next (settle (t.requesters.foldl (fun s f => sendTd s mgTdDone ctx f)
      (changeTeardown (undefineCtx (advanceTo s (t.stopAt + us 400)) ctx) (fun x => decide (x.no = t.no))
        (fun x => { x with quiet := true })))) := by
  have harm : exec (.teardownQuietExpiry ctx) s = execTeardownQuietExpiry ctx s := rfl
  have hf : s.teardowns.find? (fun t => inService s && decide (t.ctx = ctx) && !t.quiet && !stillHolds s ctx) = some t := by
    simpa [inService, hs, hh] using ht
  rw [harm, execTeardownQuietExpiry, hf]

/-- A peer silent for 100 ms after its ACK (R467). -/
theorem exec_doneTimeout (s : State) (src : Fid) (ctx : CtxId) (t : Teardown) (p : Fid × Nat) (hs : s.mode = .service)
    (ht : s.teardowns.find? (awaits ctx src) = some t) (hp : t.acked.find? (fun p => decide (p.1 = src)) = some p) :
    exec (.tdDoneTimeout src ctx) s = .next (settle (unconfirmed (advanceTo s (p.2 + us 100000)) ctx src stTimeout)) := by
  have harm : exec (.tdDoneTimeout src ctx) s = execTdDoneTimeout src ctx s := rfl
  have hf : s.teardowns.find? (fun t => inService s && awaits ctx src t) = some t := by
    simpa [inService, hs] using ht
  simp only [harm, execTdDoneTimeout, hf, hp]

/-- TD_DONE to the modules that asked for a teardown leaves the contexts and the teardowns. -/
theorem tellRequesters_leaves (ctx : CtxId) (l : List Fid) (s : State) :
    (l.foldl (fun s d => sendTd s mgTdDone ctx d) s).ctxs = s.ctxs ∧
    (l.foldl (fun s d => sendTd s mgTdDone ctx d) s).ctxBlocks = s.ctxBlocks ∧
    (l.foldl (fun s d => sendTd s mgTdDone ctx d) s).teardowns = s.teardowns := by
  have hblind : BlindToMgmt (fun t : State => (t.ctxs, t.ctxBlocks, t.teardowns)) :=
    ⟨fun _ _ => rfl, fun _ _ => rfl, fun _ _ => rfl, fun _ _ _ => rfl, fun _ _ => rfl⟩
  have hall := foldl_keep (fun t : State => (t.ctxs, t.ctxBlocks, t.teardowns)) (fun t d => sendTd t mgTdDone ctx d)
    (fun t d => sendTd_keep hblind t mgTdDone ctx d) l s
  simpa only [Prod.mk.injEq] using hall

/-- Settles O28: TD_REQ and TD_DONE by `takeMgmt`, the timers by `changeTeardown` and `undefineCtx`. -/
theorem teardownSteps : Obligations.TeardownSteps := by
  unfold Obligations.TeardownSteps
  intro p bs src ctx s hs
  refine ⟨⟨?_, ?_⟩, ?_, ?_, ?_, ?_⟩
  · rintro b c (⟨rfl, ho⟩ | ⟨rfl, ho⟩) hty hb
    · rw [exec_tdReq s p hs, ← ho, takeMgmt_stray s p _ _ b hty hb]
    · rw [exec_tdDone s p hs, ← ho, takeMgmt_stray s p _ _ b hty hb]
  · rintro c (⟨rfl, ho⟩ | ⟨rfl, ho⟩) hbad
    · rw [exec_tdReq s p hs, takeMgmt_of_mgmtOpens s _ p bs _ _ ho, if_neg (by simp [hbad])]
    · rw [exec_tdDone s p hs, takeMgmt_of_mgmtOpens s _ p bs _ _ ho, if_neg (by simp [hbad])]
  · rintro ho hb rfl rfl
    have hctx : ctxOf (ackMgmt s p.hdr) (tdCtx bs) = ctxOf s (tdCtx bs) := congrArg (Tab.get? · _) (ackMgmt_ctxs ..)
    rw [exec_tdReq_opens s p bs hs ho hb, onTdReq, hctx]
    refine ⟨fun hnone => by rw [hnone], fun x hx htd => ?_, fun x hx htd => ?_⟩
    · refine ⟨_, rfl, ?_⟩
      rw [hx]
      simp only [htd, if_true]
      have h := addRequester_teardowns (ackMgmt s p.hdr) (tdCtx bs) p.hdr.src
      rw [ackMgmt_teardowns] at h
      exact ⟨(changeTeardown_keep (·.ctxs) (fun _ _ => rfl) ..).trans (ackMgmt_ctxs ..),
        (changeTeardown_keep (·.mem) (fun _ _ => rfl) ..).trans (ackMgmt_mem ..), h⟩
    · refine ⟨beginTeardown (ackMgmt s p.hdr) (tdCtx bs) none [p.hdr.src] [], ?_, beginTeardown_leaves ..⟩
      rw [hx]
      simp only [htd, Bool.false_eq_true, if_false]
  · rintro ho hb rfl rfl
    rw [exec_tdDone_opens s p bs hs ho hb]
    refine ⟨fun hno => ?_, fun t ht => ?_⟩
    · rw [changeTeardown_none]
      simpa [List.find?_eq_none] using hno
    · rw [changeTeardown_some _ _ _ t (by rw [ackMgmt_teardowns, ht]), ackMgmt_teardowns]
  · intro t ht hh
    refine ⟨_, exec_quietExpiry s ctx t hs ht hh, ?_⟩
    obtain ⟨hctx, hblocks, htds⟩ := undefineCtx_leaves (advanceTo s (t.stopAt + us 400)) ctx
    have hmem : t ∈ (undefineCtx (advanceTo s (t.stopAt + us 400)) ctx).teardowns := by
      rw [htds]
      exact List.mem_of_find?_eq_some ht
    have hch := changeTeardown_no _ (fun x => { x with quiet := true }) t hmem
    obtain ⟨hctxs, hctxBlocks, hteardowns⟩ := tellRequesters_leaves ctx t.requesters
      (changeTeardown (undefineCtx (advanceTo s (t.stopAt + us 400)) ctx) (fun x => decide (x.no = t.no))
        (fun x => { x with quiet := true }))
    refine ⟨?_, ?_, ?_⟩
    · rw [ctxOf, hctxs, changeTeardown_keep (·.ctxs) (fun _ _ => rfl)]
      exact hctx
    · rw [hctxBlocks, changeTeardown_keep (·.ctxBlocks) (fun _ _ => rfl)]
      exact hblocks
    · rw [hteardowns, hch, htds]
      rfl
  · intro t p ht hp
    rw [exec_doneTimeout s src ctx t p hs ht hp, unconfirmed, changeTeardown_some _ _ _ t (by simpa using ht)]
    rfl

end Sys2Proof.Machine
end

section
/-!
SUPPORT. What the steps of boot leave (R573, R574), from RESET to BOOT.
-/
namespace Sys2Proof.Machine

open Sys2Proof

/-! ## From RESET to BOOT -/

section
variable {α : Type} (f : State → α) (hlog : ∀ s k u d r, f (logEvent s k u d r) = f s)
include hlog

/-- What sees neither the owner, nor the units of the bunting, nor an event record, sees nothing of the choice of a management die. -/
theorem bootMgmt_keep (hd : ∀ s x, f { s with age := { s.age with dies := x } } = f s)
    (hb : ∀ s x, f { s with age := { s.age with blocks := x } } = f s) (ho : ∀ s x, f { s with host := { s.host with owner := x } } = f s)
    (s : State) : f (bootMgmt s) = f s := by
  have hset : ∀ (t : State) (p : Prop) [Decidable p] (n : Nat) (st : UnitState), f (if p then t else setUnit t .mgmt n st 573) = f t :=
    fun t p _ n st => by
      split
      · rfl
      · exact setUnit_keep f hlog hd hb t .mgmt n st 573
  unfold bootMgmt
  dsimp only
  rw [hset, hset, ho]

end

/-- Which management die owns the module after RESET (R573, R624). -/
theorem bootMgmt_owner (s : State) (h0 : dieState s (ordMgmt 0) ≠ .failed) :
    (bootMgmt s).host.owner = if s.sec.selfTest0 ∨ dieState s (ordMgmt 1) = .failed then 0 else 1 := by
  have hset : ∀ (t : State) (p : Prop) [Decidable p] (n : Nat) (st : UnitState),
      (if p then t else setUnit t .mgmt n st 573).host.owner = t.host.owner := fun t p _ n st => by
    split
    · rfl
    · exact setUnit_keep (·.host.owner) logEvent_owner (fun _ _ => rfl) (fun _ _ => rfl) t .mgmt n st 573
  unfold bootMgmt
  dsimp only
  rw [hset, hset]
  cases ht : s.sec.selfTest0 <;> by_cases h1 : dieState s (ordMgmt 1) = .failed <;> simp [h0, h1]

/-- What sees neither memory, nor the booted slot, nor the measurements, sees nothing of the slot that the boot ROM starts. -/
theorem bootFrom_keep {α : Type} (f : State → α) (hm : ∀ s x, f { s with mem := x } = f s)
    (hs : ∀ s n c, f { s with sec := { s.sec with bootSlot := n, confirmed := c } } = f s)
    (hx : ∀ s x, f { s with sec := { s.sec with meas := x } } = f s) (s : State) (slots : List Nat) : f (bootFrom s slots) = f s := by
  have hrec : ∀ (t : State) (p : Prop) [Decidable p] (a c n : Nat), f (if p then writeBootRec t a c n else t) = f t := fun t p _ a c n => by
    split
    · exact hm _ _
    · rfl
  unfold bootFrom
  split
  · exact hs _ _ _
  · unfold startSlot
    exact (hx _ _).trans ((hx _ _).trans ((hs _ _ _).trans (hrec _ _ _ _ _)))

/-- RESET up to where the boot ROM chooses a slot (R505, R573). -/
def beforeRom (s : State) (role : BitVec 2) (ls st0 : Bool) : State :=
  let s := bootMgmt { s with bootAt := s.now, host := { s.host with eventSeq := 0 } }
  let s := setReg s (cpBase + 0x20) ((reg s (cpBase + 0x20) &&& 4) ||| 3)
  { s with fresh := s.fresh + 32, role := role, lockstep := ls, sec := { s.sec with selfTest0 := st0, wrapKey := (draw s 32).1 } }

theorem leaveReset_eq (s : State) (role : BitVec 2) (ls st0 : Bool) :
    leaveReset s role ls st0 = { bootFrom (beforeRom s role ls st0) (slotOrder (beforeRom s role ls st0)) with mode := .boot } := rfl

/-- The choice of a management die leaves the start of boot, the part, its supplies and pins, and CP_CLK_STATUS. -/
theorem bootMgmt_leaves (s : State) :
    (bootMgmt s).bootAt = s.bootAt ∧ (bootMgmt s).variant = s.variant ∧ (bootMgmt s).power = s.power ∧ (bootMgmt s).pins = s.pins ∧
    reg (bootMgmt s) (cpBase + 0x20) = reg s (cpBase + 0x20) := by
  have hkeep : ∀ {α : Type} (f : State → α), (∀ s k u d r, f (logEvent s k u d r) = f s) → (∀ s x, f { s with age := x } = f s) →
      (∀ s x, f { s with host := x } = f s) → f (bootMgmt s) = f s := fun f hl ha hh =>
    bootMgmt_keep f hl (fun t _ => ha t _) (fun t _ => ha t _) (fun t _ => hh t _) s
  exact ⟨hkeep (·.bootAt) (fun t k u d r => logEvent_keep t (·.bootAt) (fun _ _ => rfl) (fun _ _ => rfl) (fun _ _ => rfl)
    (fun _ _ => rfl) k u d r)
    (fun _ _ => rfl) (fun _ _ => rfl), hkeep (·.variant) logEvent_variant (fun _ _ => rfl) (fun _ _ => rfl),
    hkeep (·.power) logEvent_power (fun _ _ => rfl) (fun _ _ => rfl), hkeep (·.pins) logEvent_pins (fun _ _ => rfl) (fun _ _ => rfl),
    hkeep (reg · (cpBase + 0x20)) (fun t k u d r => reg_logEvent t k u d r _ (by decide) (by decide) (by decide)) (fun _ _ => rfl)
      (fun _ _ => rfl)⟩

/-- The straps are sampled, and the reference is shown good and locked; a loss of lock that CP_CLK_STATUS holds stays (R505, R524). -/
theorem beforeRom_leaves (s : State) (role : BitVec 2) (ls st0 : Bool) :
    (beforeRom s role ls st0).bootAt = s.now ∧ (beforeRom s role ls st0).variant = s.variant ∧ (beforeRom s role ls st0).power = s.power ∧
    (beforeRom s role ls st0).pins = s.pins ∧ reg (beforeRom s role ls st0) (cpBase + 0x20) = (reg s (cpBase + 0x20) &&& 4) ||| 3 ∧
    (dieState s (ordMgmt 0) ≠ .failed →
      (beforeRom s role ls st0).host.owner = if s.sec.selfTest0 ∨ dieState s (ordMgmt 1) = .failed then 0 else 1) := by
  have hleaves := bootMgmt_leaves { s with bootAt := s.now, host := { s.host with eventSeq := 0 } }
  have howner := bootMgmt_owner { s with bootAt := s.now, host := { s.host with eventSeq := 0 } }
  unfold beforeRom
  generalize bootMgmt { s with bootAt := s.now, host := { s.host with eventSeq := 0 } } = t at hleaves howner
  obtain ⟨hat, hvar, hpow, hpin, hreg⟩ := hleaves
  have hold : reg t (cpBase + 0x20) = reg s (cpBase + 0x20) := hreg
  refine ⟨hat, hvar, hpow, hpin, ?_, howner⟩
  rw [← hold]
  exact reg_setReg_same t _ _

/-- RESET ends in BOOT (R505, R573). -/
theorem leaveReset_leaves (s : State) (role : BitVec 2) (ls st0 : Bool) :
    (leaveReset s role ls st0).mode = .boot ∧ (leaveReset s role ls st0).role = role ∧ (leaveReset s role ls st0).lockstep = ls ∧
    (leaveReset s role ls st0).bootAt = s.now ∧ (leaveReset s role ls st0).sec.selfTest0 = st0 ∧
    reg (leaveReset s role ls st0) (cpBase + 0x20) = (reg s (cpBase + 0x20) &&& 4) ||| 3 ∧
    (leaveReset s role ls st0).variant = s.variant ∧ (leaveReset s role ls st0).power = s.power ∧
    (leaveReset s role ls st0).pins = s.pins ∧
    (dieState s (ordMgmt 0) ≠ .failed →
      (leaveReset s role ls st0).host.owner = if s.sec.selfTest0 ∨ dieState s (ordMgmt 1) = .failed then 0 else 1) := by
  have hbefore := beforeRom_leaves s role ls st0
  have hstraps : (beforeRom s role ls st0).role = role ∧ (beforeRom s role ls st0).lockstep = ls ∧
      (beforeRom s role ls st0).sec.selfTest0 = st0 := ⟨rfl, rfl, rfl⟩
  rw [leaveReset_eq]
  generalize beforeRom s role ls st0 = t at hbefore hstraps
  obtain ⟨hat, hvar, hpow, hpin, hreg, howner⟩ := hbefore
  obtain ⟨hrole, hls, hself⟩ := hstraps
  have hrom : ∀ {α : Type} (f : State → α), (∀ s x, f { s with mem := x } = f s) → (∀ s x, f { s with sec := x } = f s) →
      f (bootFrom t (slotOrder t)) = f t := fun f hm hs => bootFrom_keep f hm (fun t _ _ => hs t _) (fun t _ => hs t _) _ _
  exact ⟨rfl, (hrom (·.role) (fun _ _ => rfl) (fun _ _ => rfl)).trans hrole,
    (hrom (·.lockstep) (fun _ _ => rfl) (fun _ _ => rfl)).trans hls,
    (hrom (·.bootAt) (fun _ _ => rfl) (fun _ _ => rfl)).trans hat,
    (bootFrom_keep (·.sec.selfTest0) (fun _ _ => rfl) (fun _ _ _ => rfl) (fun _ _ => rfl) _ _).trans hself,
    (hrom (reg · (cpBase + 0x20)) (fun _ _ => rfl) (fun _ _ => rfl)).trans hreg,
    (hrom (·.variant) (fun _ _ => rfl) (fun _ _ => rfl)).trans hvar, (hrom (·.power) (fun _ _ => rfl) (fun _ _ => rfl)).trans hpow,
    (hrom (·.pins) (fun _ _ => rfl) (fun _ _ => rfl)).trans hpin,
    fun h0 => (hrom (·.host.owner) (fun _ _ => rfl) (fun _ _ => rfl)).trans (howner h0)⟩

end Sys2Proof.Machine
end

section
/-!
SUPPORT. The main firmware, memory training and the end of boot (R316, R443, R446, R574), and the statement on the boot sequence.
-/
namespace Sys2Proof.Machine

open Sys2Proof

/-! ## The main firmware -/

/-- Measurement register 2 after one image for each die (R443). -/
theorem extend_fold (dies : List Bytes) (s : State) (h : 2 < s.sec.meas.length) :
    dies.foldl (fun s i => extend s 2 (sha384 i)) s = { s with sec := { s.sec with
      meas := s.sec.meas.set 2 (dies.foldl (fun m d => sha384 (m ++ sha384 d)) (s.sec.meas.getD 2 [])) } } := by
  induction dies generalizing s with
  | nil =>
    have hset : s.sec.meas.set 2 (s.sec.meas.getD 2 []) = s.sec.meas := by
      rw [List.getD_eq_getElem?_getD, List.getElem?_eq_getElem h, Option.getD_some, List.set_getElem_self]
    rw [List.foldl_nil, List.foldl_nil, hset]
  | cons d ds ih =>
    rw [List.foldl_cons, ih _ (by simpa [extend] using h)]
    simp [extend, h]

/-- The incarnation is never zero (R594). -/
theorem drawIncarnation_leaves (s : State) :
    reg (drawIncarnation s) (glbBase + 0xC) ≠ 0 ∧ (drawIncarnation s).sec = s.sec ∧ (drawIncarnation s).mode = s.mode ∧
    (drawIncarnation s).mem = s.mem ∧ (drawIncarnation s).fresh = s.fresh + 4 := by
  refine ⟨?_, rfl, rfl, rfl, rfl⟩
  unfold drawIncarnation
  dsimp only
  rw [reg_setReg_same]
  split
  · decide
  · rename_i hne
    have hlen : (draw s 4).1.length = 4 := by simp [draw]
    have hlt := leNat_lt (draw s 4).1
    rw [hlen] at hlt
    have hword : leNat (draw s 4).1 < 2 ^ 32 := hlt
    intro h0
    have hmod : leNat (draw s 4).1 % 2 ^ 32 = 0 := by simpa using congrArg BitVec.toNat h0
    rw [Nat.mod_eq_of_lt hword] at hmod
    exact hne hmod

/-- The main firmware runs: M1, M2 and M3 are extended in order, and the others keep their values (R443, R574). -/
theorem runMain_leaves (s : State) (dies tables : List Bytes) (h8 : s.sec.meas.length = 8) :
    (runMain s dies tables).sec.mainOk = true ∧ (runMain s dies tables).mode = s.mode ∧ reg (runMain s dies tables) (glbBase + 0xC) ≠ 0 ∧
    (runMain s dies tables).sec.meas[1]? =
      some (sha384 (s.sec.meas.getD 1 [] ++ sha384 (measuredHeader s s.sec.bootSlot mainOffset))) ∧
    (runMain s dies tables).sec.meas[2]? = some (dies.foldl (fun m d => sha384 (m ++ sha384 d)) (s.sec.meas.getD 2 [])) ∧
    (runMain s dies tables).sec.meas[3]? = some (sha384 (s.sec.meas.getD 3 [] ++ sha384 tables.flatten)) ∧
    (∀ i, i ≠ 1 → i ≠ 2 → i ≠ 3 → (runMain s dies tables).sec.meas[i]? = s.sec.meas[i]?) ∧
    (runMain s dies tables).mem = s.mem ∧ (runMain s dies tables).fresh = s.fresh + 4 := by
  unfold runMain
  dsimp only
  rw [extend_fold _ _ (by simp [extend, h8])]
  refine ⟨congrArg (·.mainOk) (drawIncarnation_leaves _).2.1, rfl, (drawIncarnation_leaves _).1, ?_, ?_, ?_, fun i h1 h2 h3 => ?_, rfl, rfl⟩
  all_goals rw [(drawIncarnation_leaves _).2.1]
  · simp [extend, h8]
  · simp [extend, h8]
  · simp [extend, h8]
  · simp [extend, Ne.symm h1, Ne.symm h2, Ne.symm h3]

/-! ## Memory training -/

section
variable {α : Type} (f : State → α)

theorem showDevices_keep (hr : ∀ s x, f { s with regs := x } = f s) (s : State) : f (showDevices s) = f s :=
  (hr _ _).trans (foldl_keep f (fun (t : State) (x : BitVec 6 × Nat) => setReg t (memBase (x.2 / 2) + 4 * (x.2 % 2))
    (BitVec.ofNat 32 (if x.1 = 0 then 0 else 0x8000 + x.1.toNat))) (fun _ _ => hr _ _) s.age.devices.zipIdx s)

/-- What sees neither the degraded kinds, nor registers, nor an event record, sees nothing of a unit that leaves service. -/
theorem degrade_keep (hlog : ∀ s k u d r, f (logEvent s k u d r) = f s) (hr : ∀ s x, f { s with regs := x } = f s)
    (ha : ∀ s a d, f { s with age := { s.age with degraded := a }, degraded := d } = f s) (s : State) (k : UnitKind) (n : Nat) :
    f (degrade s k n) = f s :=
  (hlog _ _ _ _ _).trans ((hr _ _).trans ((countEvent_keep _ f hr _ _ _).trans (ha s _ _)))

/-- The rate at which each device trains, 0 where it is out of service (R316). -/
def trainedDevices (s : State) (rates : List (BitVec 6)) : List (BitVec 6) :=
  (List.range (2 * memCount s.variant)).map (fun i => trainedRate (rates.getD i 0))

/-- The devices as they have trained, and the units of those in service; recovery firmware leaves HB_UNITS_TOTAL (R316, R574). -/
def withDevices (s : State) (rates : List (BitVec 6)) : State :=
  let t := showDevices { s with age := { s.age with devices := trainedDevices s rates } }
  if recovery t then t else { t with hb := { t.hb with unitsTotal := unitsOfDevices t.variant (devicesIn t) } }

theorem trainMemory_eq (s : State) (rates : List (BitVec 6)) :
    trainMemory s rates = offerFeatures
      (((trainedDevices s rates).zipIdx.filter (fun x => decide (x.1 = 0))).foldl
        (fun s x => degrade s .memory x.2)
        (spareNow (if (withDevices s rates).dump.regionOk then setRegField (withDevices s rates) (mgBase + 0xA2C) 0 0 1
          else withDevices s rates))) := by
  unfold trainMemory withDevices
  rfl

/-- What does not see the registers, the degraded kinds, the spare capacity or the event log sees of training the devices alone. -/
theorem trainMemory_keep (hlog : ∀ s k u d r, f (logEvent s k u d r) = f s) (hr : ∀ s x, f { s with regs := x } = f s)
    (ha : ∀ s a d, f { s with age := { s.age with degraded := a }, degraded := d } = f s)
    (hs : ∀ s x, f { s with hb := { s.hb with spareLeft := x } } = f s) (s : State) (rates : List (BitVec 6)) :
    f (trainMemory s rates) = f (withDevices s rates) := by
  have hregion : ∀ t : State, f (if t.dump.regionOk then setRegField t (mgBase + 0xA2C) 0 0 1 else t) = f t := fun t => by
    split
    · exact hr _ _
    · rfl
  rw [trainMemory_eq, offerFeatures, setReg, hr, foldl_keep f _ (fun t x => degrade_keep f hlog hr ha t _ _), spareNow, hs, hregion]

end

theorem withDevices_leaves (s : State) (rates : List (BitVec 6)) :
    (withDevices s rates).age.devices = trainedDevices s rates ∧
    (withDevices s rates).mode = s.mode ∧ (recovery s = false →
      (withDevices s rates).hb.unitsTotal = unitsOfDevices s.variant (devicesIn (withDevices s rates))) := by
  have hrec : ∀ x, recovery (showDevices { s with age := x }) = recovery s := fun x => showDevices_keep recovery (fun _ _ => rfl) _
  have hshow := showDevices_keep (fun t => (t.age, t.variant, t.mode)) (fun _ _ => rfl)
    { s with age := { s.age with devices := trainedDevices s rates } }
  unfold withDevices
  dsimp only
  rw [hrec]
  generalize showDevices { s with age := { s.age with devices := trainedDevices s rates } } = t at hshow
  obtain ⟨hage, hvar, hmode⟩ : t.age = _ ∧ t.variant = s.variant ∧ t.mode = s.mode := by simpa only [Prod.mk.injEq] using hshow
  cases hr : recovery s
  · simp only [Bool.false_eq_true, if_false]
    exact ⟨congrArg (·.devices) hage, hmode, fun _ => by rw [hvar]; rfl⟩
  · simp only [if_true]
    exact ⟨congrArg (·.devices) hage, hmode, fun h => Bool.noConfusion h⟩

/-- Each device trains at a rate of R316 or is out of service, and the harbour has the units of those in service (R316, R574). -/
theorem trainMemory_leaves (s : State) (rates : List (BitVec 6)) :
    (trainMemory s rates).age.devices = trainedDevices s rates ∧
    (trainMemory s rates).mode = s.mode ∧ (recovery s = false →
      (trainMemory s rates).hb.unitsTotal = unitsOfDevices s.variant (devicesIn (trainMemory s rates))) := by
  obtain ⟨hdev, hmode, hunits⟩ := withDevices_leaves s rates
  have hlog : ∀ (t : State) (k : EvKind) (u : Nat) (d : Bytes) (r : Nat), ((logEvent t k u d r).age.devices, (logEvent t k u d r).mode,
      (logEvent t k u d r).hb.unitsTotal) = (t.age.devices, t.mode, t.hb.unitsTotal) := fun t k u d r =>
    logEvent_keep t (fun t => (t.age.devices, t.mode, t.hb.unitsTotal)) (fun _ _ => rfl) (fun _ _ => rfl) (fun _ _ => rfl)
      (fun _ _ => rfl) k u d r
  have hall := trainMemory_keep (fun t => (t.age.devices, t.mode, t.hb.unitsTotal)) hlog (fun _ _ => rfl) (fun _ _ _ => rfl)
    (fun _ _ => rfl) s rates
  simp only [Prod.mk.injEq] at hall
  obtain ⟨hkeep, hmodes, htotal⟩ := hall
  refine ⟨hkeep.trans hdev, hmodes.trans hmode, fun hr => ?_⟩
  rw [htotal, hunits hr, devicesIn, devicesIn, hkeep]

/-! ## The end of boot -/

theorem lowerPools_keep {α : Type} (f : State → α) (hlog : ∀ s k u d r, f (logEvent s k u d r) = f s)
    (hr : ∀ s x, f { s with regs := x } = f s) (s : State) : f (lowerPools s) = f s := by
  unfold lowerPools
  dsimp only
  split
  · rfl
  · exact (hlog _ _ _ _ _).trans (foldl_keep f _ (fun _ _ => hr _ _) _ _)

/-- What the end of boot leaves of whatever sees no bunting, no clock, no registers and no event record (R574). -/
theorem finishBoot_keep {α : Type} (f : State → α) (hlog : ∀ s k u d r, f (logEvent s k u d r) = f s)
    (hr : ∀ s x, f { s with regs := x } = f s) (ha : ∀ s x, f { s with age := x } = f s) (hp : ∀ s x, f { s with power := x } = f s)
    (hmo : ∀ s m, f { s with mode := m } = f s) (s : State) (hm : s.mode = .boot) :
    f (finishBoot s) = f (zeroScratch (if recovery s then s else zeroHarbour s)) := by
  have hmove : ∀ t, f (moveClock (lowerPools (offerFeatures t))) = f t := fun t =>
    (moveClock_keep f hlog (fun t _ => ha t _) (fun t _ => ha t _) (fun t _ => ha t _) (fun t _ => hp t _) hr _).trans
      ((lowerPools_keep f hlog hr _).trans (hr _ _))
  have hmode : ∀ t, (moveClock (lowerPools (offerFeatures t))).mode = t.mode := fun t =>
    (moveClock_keep (·.mode) logEvent_mode (fun _ _ => rfl) (fun _ _ => rfl) (fun _ _ => rfl) (fun _ _ => rfl) (fun _ _ => rfl) _).trans
      (lowerPools_keep (·.mode) logEvent_mode (fun _ _ => rfl) _)
  have hboot : (zeroScratch (if recovery s then s else zeroHarbour s)).mode = .boot := by
    rw [zeroScratch_keep (·.mode) (fun _ _ => rfl)]
    split <;> exact hm
  unfold finishBoot setMode
  dsimp only
  rw [if_neg (by rw [hmode, hboot]; decide)]
  exact (hlog _ _ _ _ _).trans ((hmo _ _).trans (hmove _))

theorem finishBoot_mode (s : State) : (finishBoot s).mode = .maint := logState_mode ..

/-- Folding an operation that `f` does not notice for any member of the list. -/
theorem foldl_keep_mem {α β σ : Type} (f : σ → α) (op : σ → β → σ) (l : List β) (h : ∀ s, ∀ b ∈ l, f (op s b) = f s) (s : σ) :
    f (l.foldl op s) = f s := by
  induction l generalizing s with
  | nil => rfl
  | cons b l ih =>
    rw [List.foldl_cons, ih fun t c hc => h t c (List.mem_cons_of_mem _ hc)]
    exact h s b List.mem_cons_self

/-- Zeroing the scratch windows touches neither host memory, nor the accelerators' memories, nor the harbour. -/
theorem memByte_zeroScratch (s : State) (a : Nat) (h : a < 256 * spaceSize ∨ 512 * spaceSize ≤ a) :
    memByte (zeroScratch s) a = memByte s a := by
  refine foldl_keep_mem (memByte · a) _ _ (fun t d hd => ?_) s
  have hdie : d < 26 := by
    have hlt := List.mem_range.mp hd
    have hcount : ariCount s.variant ≤ 26 := by cases s.variant <;> decide
    omega
  have hsize : spaceSize = 2 ^ 64 := rfl
  rw [memByte_memZero, if_neg]
  unfold scratchAddr
  rw [hsize] at h ⊢
  omega

theorem memByte_zeroHarbour (s : State) (a : Nat) (h : a < 512 * spaceSize) : memByte (zeroHarbour s) a = memByte s a := by
  rw [zeroHarbour, memByte_memZero, if_neg]
  unfold harbourAddr
  omega

theorem memByte_zeroHarbour_harbour (s : State) (x : Nat) (h1 : dumpRegionBytes ≤ x) (h2 : x < spaceSize) :
    memByte (zeroHarbour s) (harbourAddr x) = 0 := by
  have hdump : dumpRegionBytes % spaceSize = dumpRegionBytes := by decide
  rw [zeroHarbour, memByte_memZero, if_pos]
  unfold harbourAddr
  rw [hdump, Nat.mod_eq_of_lt h2]
  omega

/-- Boot ends with the harbour zeroised but for its dump region, outside recovery, and with no other memory of the module changed but the
scratch windows (R574). -/
theorem memByte_finishBoot (s : State) (a : Nat) (hm : s.mode = .boot) (ha : spaceSize ≤ a) :
    memByte (finishBoot s) a = memByte (zeroScratch (if recovery s then s else zeroHarbour s)) a :=
  finishBoot_keep (memByte · a) (fun t k u d r => memByte_logEvent t k u d r a ha) (fun _ _ => rfl) (fun _ _ => rfl) (fun _ _ => rfl)
    (fun _ _ => rfl) s hm

/-- What neither memory nor the steps of boot's end touch. -/
theorem finishBoot_keepAll {α : Type} (f : State → α) (hlog : ∀ s k u d r, f (logEvent s k u d r) = f s)
    (hr : ∀ s x, f { s with regs := x } = f s) (ha : ∀ s x, f { s with age := x } = f s) (hp : ∀ s x, f { s with power := x } = f s)
    (hmo : ∀ s m, f { s with mode := m } = f s) (hme : ∀ s x, f { s with mem := x } = f s) (s : State) (hm : s.mode = .boot) :
    f (finishBoot s) = f s := by
  rw [finishBoot_keep f hlog hr ha hp hmo s hm, zeroScratch_keep f hme]
  split
  · rfl
  · exact hme _ _

/-- The end of boot (R574). -/
theorem finishBoot_leaves (s : State) (hm : s.mode = .boot) :
    (finishBoot s).mode = .maint ∧ (finishBoot s).variant = s.variant ∧ (finishBoot s).pending = s.pending ∧ (finishBoot s).sec = s.sec ∧
    (∀ a, spaceSize ≤ a → a < 256 * spaceSize → memByte (finishBoot s) a = memByte s a) ∧
    (recovery s = false → ∀ x, dumpRegionBytes ≤ x → x < spaceSize → memByte (finishBoot s) (harbourAddr x) = 0) := by
  have hkeep : ∀ {α : Type} (f : State → α), (∀ s k u d r, f (logEvent s k u d r) = f s) → (∀ s r a p m e,
      f { s with regs := r, age := a, power := p, mode := m, mem := e } = f s) → f (finishBoot s) = f s := fun f hl hf =>
    finishBoot_keepAll f hl (fun t x => hf t x t.age t.power t.mode t.mem) (fun t x => hf t t.regs x t.power t.mode t.mem)
      (fun t x => hf t t.regs t.age x t.mode t.mem) (fun t x => hf t t.regs t.age t.power x t.mem)
      (fun t x => hf t t.regs t.age t.power t.mode x) s hm
  refine ⟨finishBoot_mode s, hkeep (·.variant) logEvent_variant (fun _ _ _ _ _ _ => rfl),
    hkeep (·.pending) logEvent_pending (fun _ _ _ _ _ _ => rfl), hkeep (·.sec) logEvent_sec (fun _ _ _ _ _ _ => rfl), fun a h1 h2 => ?_,
    fun hr x h1 h2 => ?_⟩
  · rw [memByte_finishBoot s a hm h1, memByte_zeroScratch _ a (.inl h2)]
    split
    · rfl
    · exact memByte_zeroHarbour s a (Nat.lt_of_lt_of_le h2 (Nat.mul_le_mul_right _ (by decide)))
  · have hlow : 512 * spaceSize ≤ harbourAddr x := Nat.le_add_right _ _
    have hspace : spaceSize ≤ harbourAddr x := Nat.le_trans (Nat.le_mul_of_pos_left _ (by decide)) hlow
    rw [memByte_finishBoot s _ hm hspace, memByte_zeroScratch _ _ (.inr hlow), hr]
    exact memByte_zeroHarbour_harbour s x h1 h2

/-- Settles O7: one lemma on what each step of boot leaves. -/
theorem bootSteps : Obligations.BootSteps := by
  unfold Obligations.BootSteps
  refine ⟨fun role ls st0 env s hs => ?_, fun dies tables s hm hmain hslot himg h8 => ?_, fun rates s hm hg hcount hdev => ?_,
    fun s hready => ?_⟩
  · have hmode : (applyEnv s env).mode = .reset := (applyEnv_mode s env).trans hs
    have harm : exec (.rootPllLock role ls st0 env) s = .next (if s.mode = .reset then leaveReset (applyEnv s env) role ls st0 else s) :=
      rfl
    obtain ⟨h1, h2, h3, h4, h5, h6, h7, h8, h9, h10⟩ := leaveReset_leaves (applyEnv s env) role ls st0
    refine ⟨_, by rw [harm, if_pos hs], h1, h2, h3, ?_, h5, ?_, ?_, ?_, ?_, ?_⟩
    · simpa using h4
    · simpa [reg] using h6
    · simpa using h7
    · simpa using h8
    · simpa using h9
    · simpa [dieState] using h10
  · have harm : exec (.mainImageCheck dies tables) s = .next (runMain s dies tables) := by
      have hgo : ¬(s.mode ≠ .boot ∨ s.sec.mainOk = true ∨ 3 ≤ s.sec.bootSlot) := by
        simp [hm, hmain, hslot]
      have hexec : exec (.mainImageCheck dies tables) s = execMainImageCheck dies tables s := rfl
      rw [hexec, execMainImageCheck, if_neg hgo, if_pos himg]
    obtain ⟨hok, hmode, hrest⟩ := runMain_leaves s dies tables h8
    exact ⟨_, harm, hok, hmode.trans hm, hrest⟩
  · have hexec : exec (.memoryTrainingDone rates) s = .next (trainMemory s rates) := by
      have harm : exec (.memoryTrainingDone rates) s = execMemoryTrainingDone rates s := rfl
      rw [harm, execMemoryTrainingDone, if_pos (by simp [hm, hg, hcount, hdev])]
    obtain ⟨hdevs, hmode, hunits⟩ := trainMemory_leaves s rates
    refine ⟨_, hexec, ?_, fun i hi => ?_, hunits, hmode.trans hm⟩
    · simp [hdevs, trainedDevices]
    · simp [hdevs, trainedDevices, hi]
  · have hm : s.mode = .boot := by
      simp only [bootReady, Bool.and_eq_true, decide_eq_true_eq] at hready
      exact hready.1.1.1.1
    have harm : exec .bootComplete s = .next (if bootReady s then settle (finishBoot s) else s) := rfl
    exact ⟨_, by rw [harm, if_pos hready], finishBoot_leaves s hm⟩

end Sys2Proof.Machine
end

section
/-!
SUPPORT. Votes and shards by their set, and what the operations of the commit vote leave of them (R332 to R335).
-/
namespace Sys2Proof.Machine

open Sys2Proof

/-! ## Votes and shards by their set -/

section
variable {α κ : Type} [DecidableEq κ] (key : α → κ)

/-- The first of a key replaced is the first of that key. -/
theorem find?_map_put (l : List α) (x y : α) (h : l.find? (fun a => decide (key a = key y)) = some x) :
    (l.map (fun a => if key a = key y then y else a)).find? (fun a => decide (key a = key y)) = some y := by
  induction l with
  | nil => exact absurd h (by simp)
  | cons a l ih =>
    by_cases ha : key a = key y
    · simp [ha]
    · have htail : l.find? (fun a => decide (key a = key y)) = some x := by simpa [ha] using h
      simpa [ha] using ih htail

theorem find?_filter_key (l : List α) (k : κ) :
    (l.filter (fun a => decide (key a ≠ k))).find? (fun a => decide (key a = k)) = none := by
  simp

end

section
variable (s : State) (k : SetKey)

theorem voteOf_key (v : Vote) (h : voteOf s k = some v) : v.key = k :=
  of_decide_eq_true (List.find?_some (p := fun v : Vote => decide (v.key = k)) h)

theorem shardOf_key (h : Shard) (hs : shardOf s k = some h) : h.key = k :=
  of_decide_eq_true (List.find?_some (p := fun h : Shard => decide (h.key = k)) hs)

theorem voteOf_of_hb (t : State) (h : t.hb = s.hb) : voteOf t k = voteOf s k := by rw [voteOf, voteOf, h]

theorem shardOf_of_hb (t : State) (h : t.hb = s.hb) : shardOf t k = shardOf s k := by rw [shardOf, shardOf, h]

theorem voteOf_setVote (v w : Vote) (h : voteOf s v.key = some w) : voteOf (setVote s v) v.key = some v :=
  find?_map_put Vote.key s.hb.votes w v h

theorem shardOf_setVote (v : Vote) : shardOf (setVote s v) k = shardOf s k := rfl

@[simp] theorem voteOf_dropVote : voteOf (dropVote s k) k = none := find?_filter_key Vote.key s.hb.votes k

theorem shardOf_setShard (h g : Shard) (hs : shardOf s h.key = some g) : shardOf (setShard s h) h.key = some h :=
  find?_map_put Shard.key s.hb.shards g h hs

/-- The state with the vote of a set that has had none. -/
def addVote (s : State) (v : Vote) : State := { s with hb := { s.hb with votes := s.hb.votes ++ [v] } }

theorem voteOf_addVote (v : Vote) (h : voteOf s v.key = none) : voteOf (addVote s v) v.key = some v := by
  have hnone : s.hb.votes.find? (fun w => decide (w.key = v.key)) = none := h
  simp [voteOf, addVote, List.find?_append, hnone]

end

/-! ## The vote records that are sent -/

section
variable {α : Type} {f : State → α}

theorem sendVote_keep (hf : BlindToRequests f) (hn : ∀ s n, f { s with fresh := n } = f s) (s : State) (cls : Option (BitVec 3))
    (key : SetKey) (dst : Fid) (peer : Nat) (decided : Bool) (bs : Bytes) : f (sendVote s cls key dst peer decided bs) = f s := by
  unfold sendVote
  split
  · rfl
  · exact (sendRequest_keep hf _ _).trans (hn _ _)

theorem sendAllVotes_keep (hf : BlindToRequests f) (hn : ∀ s n, f { s with fresh := n } = f s) (s : State) (v : Vote) (me : Nat)
    (decided : Bool) (bs : Bytes) : f (sendAllVotes s v me decided bs) = f s :=
  foldl_keep f _ (fun t (p : Nat × Fid) => sendVote_keep hf hn t v.cls v.key p.2 p.1 decided bs) (peersBut v me) s

end

theorem blindToRequests_hb : BlindToRequests (fun t : State => t.hb) :=
  ⟨⟨fun _ _ => rfl, fun _ _ => rfl, fun _ _ => rfl, fun _ _ _ => rfl, fun _ _ => rfl⟩, fun _ _ => rfl, fun _ _ => rfl, fun _ _ => rfl,
    fun _ _ => rfl, fun _ _ _ => rfl, fun _ _ => rfl, fun _ _ => rfl⟩

theorem blindToRequests_now : BlindToRequests (fun t : State => t.now) :=
  ⟨⟨fun _ _ => rfl, fun _ _ => rfl, fun _ _ => rfl, fun _ _ _ => rfl, fun _ _ => rfl⟩, fun _ _ => rfl, fun _ _ => rfl, fun _ _ => rfl,
    fun _ _ => rfl, fun _ _ _ => rfl, fun _ _ => rfl, fun _ _ => rfl⟩

section
variable (s : State)

@[simp] theorem sendVote_hb (cls : Option (BitVec 3)) (key : SetKey) (dst : Fid) (peer : Nat) (decided : Bool) (bs : Bytes) :
    (sendVote s cls key dst peer decided bs).hb = s.hb := sendVote_keep blindToRequests_hb (fun _ _ => rfl) ..
@[simp] theorem sendVote_now (cls : Option (BitVec 3)) (key : SetKey) (dst : Fid) (peer : Nat) (decided : Bool) (bs : Bytes) :
    (sendVote s cls key dst peer decided bs).now = s.now := sendVote_keep blindToRequests_now (fun _ _ => rfl) ..
@[simp] theorem sendAllVotes_hb (v : Vote) (me : Nat) (decided : Bool) (bs : Bytes) : (sendAllVotes s v me decided bs).hb = s.hb :=
  sendAllVotes_keep blindToRequests_hb (fun _ _ => rfl) ..
@[simp] theorem sendAllVotes_now (v : Vote) (me : Nat) (decided : Bool) (bs : Bytes) : (sendAllVotes s v me decided bs).now = s.now :=
  sendAllVotes_keep blindToRequests_now (fun _ _ => rfl) ..

@[simp] theorem voteOf_sendVote (cls : Option (BitVec 3)) (key : SetKey) (dst : Fid) (peer : Nat) (decided : Bool) (bs : Bytes)
    (k : SetKey) :
    voteOf (sendVote s cls key dst peer decided bs) k = voteOf s k := voteOf_of_hb s k _ (sendVote_hb ..)
@[simp] theorem shardOf_sendVote (cls : Option (BitVec 3)) (key : SetKey) (dst : Fid) (peer : Nat) (decided : Bool) (bs : Bytes)
    (k : SetKey) :
    shardOf (sendVote s cls key dst peer decided bs) k = shardOf s k := shardOf_of_hb s k _ (sendVote_hb ..)
@[simp] theorem voteOf_sendAllVotes (v : Vote) (me : Nat) (decided : Bool) (bs : Bytes) (k : SetKey) :
    voteOf (sendAllVotes s v me decided bs) k = voteOf s k := voteOf_of_hb s k _ (sendAllVotes_hb ..)
@[simp] theorem shardOf_sendAllVotes (v : Vote) (me : Nat) (decided : Bool) (bs : Bytes) (k : SetKey) :
    shardOf (sendAllVotes s v me decided bs) k = shardOf s k := shardOf_of_hb s k _ (sendAllVotes_hb ..)

/-! ## Decisions applied (R334) -/

/-- The shard whose step has become its next version. -/
def committed (h : Shard) (hash : Bytes) : Shard := { h with version := h.version + 1, state := .idle, stepWritten := [], hash := hash }

theorem voteOf_applyCommit (h : Shard) (hash : Bytes) (k : SetKey) : voteOf (applyCommit s h hash) k = voteOf s k :=
  voteOf_of_hb (setShard s (committed h hash)) k _ (bump_hb ..)

theorem shardOf_applyCommit (h g : Shard) (hash : Bytes) (hs : shardOf s h.key = some g) :
    shardOf (applyCommit s h hash) h.key = some (committed h hash) :=
  (shardOf_of_hb (setShard s (committed h hash)) h.key _ (bump_hb ..)).trans (shardOf_setShard s (committed h hash) g hs)

theorem voteOf_applyAbort (h : Shard) (k : SetKey) : voteOf (applyAbort s h) k = voteOf s k := by
  have hhb : (applyAbort s h).hb = (discardStep s h).hb := countEvent_hb ..
  rw [voteOf_of_hb _ k _ hhb]
  unfold discardStep
  dsimp only
  split <;> rfl

/-- A step discarded leaves its shard IDLE at its version (R324, R334). -/
theorem shardOf_applyAbort (h : Shard) (hs : shardOf s h.key = some h) :
    ∃ g, shardOf (applyAbort s h) h.key = some g ∧ g.state = .idle ∧ g.version = h.version ∧ g.hash = h.hash ∧
      (h.state ≠ .idle → g.stepWritten = []) := by
  have hhb : (applyAbort s h).hb = (discardStep s h).hb := countEvent_hb ..
  rw [shardOf_of_hb _ h.key _ hhb]
  unfold discardStep
  dsimp only
  split
  · next hi => exact ⟨h, hs, hi, rfl, rfl, fun hn => absurd hi hn⟩
  · exact ⟨_, shardOf_setShard { s with fresh := s.fresh + 1 } _ h hs, rfl, rfl, rfl, fun _ => rfl⟩

end

/-! ## The tally (R334) -/

section
variable (s : State) (v : Vote) (h : Shard)

/-- Whether every shard of the set has voted YES, and whether each has voted YES or failed. -/
def allYes (v : Vote) (h : Shard) : Bool := (List.range h.rootCount).all (fun i => v.yes.any (fun p => decide (p.1 = i)))
def allDone (v : Vote) (h : Shard) : Bool :=
  (List.range h.rootCount).all (fun i => v.yes.any (fun p => decide (p.1 = i)) || v.failed.any (fun p => decide (p.1 = i)))

variable (hs : shardOf s v.key = some h) (hd : v.deciding = false)
include hs hd

theorem tallyVote_waits (h1 : allYes v h = false) (h2 : allDone v h = false) : tallyVote s v = setVote s v := by
  unfold allYes at h1
  unfold allDone at h2
  simp only [tallyVote, hs, hd, h1, h2, Bool.false_eq_true, if_false]

theorem tallyVote_aborts (h1 : allYes v h = false) (h2 : allDone v h = true) : tallyVote s v = voteAbort s v (abortStatus v) := by
  unfold allYes at h1
  unfold allDone at h2
  simp only [tallyVote, hs, hd, h1, h2, Bool.false_eq_true, if_false, if_true]

theorem tallyVote_commits (h1 : allYes v h = true) : tallyVote s v = voteCommit s v h := by
  unfold allYes at h1
  simp only [tallyVote, hs, hd, h1, Bool.false_eq_true, if_false, if_true]

end

/-- The shard digests in ROOT_INDEX order (R338). -/
def digestsOf (v : Vote) (h : Shard) : List DWord :=
  (List.range h.rootCount).map (fun i => ((v.yes.find? (fun p => decide (p.1 = i))).map (·.2)).getD 0)

/-- A commit that has peers to tell waits for the writes to them (R334, step 2). -/
theorem voteCommit_leaves (s : State) (v w : Vote) (h g : Shard) (hk : h.key = v.key) (hs : shardOf s v.key = some g)
    (hv : voteOf s v.key = some w) (hp : peersBut v 0 ≠ []) :
    voteOf (voteCommit s v h) v.key = some { v with deciding := true, waiting := (peersBut v 0).map (·.1) } ∧
    shardOf (voteCommit s v h) v.key = some (committed h (hashNext h v.step (digestsOf v h))) := by
  have hempty : ((peersBut v 0).map (·.1)).isEmpty = false := by simpa using hp
  unfold voteCommit
  dsimp only
  rw [hempty]
  simp only [Bool.false_eq_true, if_false]
  rw [← hk] at hs
  constructor
  · refine voteOf_setVote _ { v with deciding := true, waiting := (peersBut v 0).map (·.1) } w ?_
    rw [voteOf_sendAllVotes, voteOf_applyCommit]
    exact hv
  · rw [shardOf_setVote, shardOf_sendAllVotes, ← hk]
    exact shardOf_applyCommit s h g _ hs

end Sys2Proof.Machine
end

section
/-!
SUPPORT. The rows of the vote records, and the preparing of a shard (R332, R333).
-/
namespace Sys2Proof.Machine

open Sys2Proof

/-! ## Rows -/

theorem voteRow_taken (s : State) (m : VoteMsg) (kind : Byte) (f : State → VoteMsg → State) (hl : voteLegal s m = true)
    (hr : voteRecordOk m.record = true) (hk : voteKind m = kind) : voteRow s m kind f = .next (settle (f s m)) := by
  rw [voteRow, if_pos ⟨hl, hr, hk⟩]

theorem voteRow_refused (s : State) (m : VoteMsg) (kind : Byte) (f : State → VoteMsg → State)
    (h : (voteLegal s m && voteRecordOk m.record && decide (voteKind m = kind)) = false) : voteRow s m kind f = .next s := by
  rw [voteRow, if_neg]
  rintro ⟨hl, hr, hk⟩
  simp [hl, hr, hk] at h

/-- The meaning of the row of each vote record. -/
theorem exec_voteRows (s : State) (m : VoteMsg) : ∀ e ∈ voteRows m, ∃ f, exec e.2 s = voteRow s m e.1 f ∧
    (shardOf s (voteKey m) = none → e.1 ≠ 2 → e.1 ≠ 3 → e.1 ≠ 7 → f s m = s) := by
  intro e he
  simp only [voteRows, List.mem_cons, List.not_mem_nil, or_false] at he
  rcases he with rfl | rfl | rfl | rfl | rfl | rfl | rfl
  · exact ⟨onPrepare, rfl, fun hn _ _ _ => by simp only [onPrepare, hn]⟩
  · exact ⟨onYes, rfl, fun _ h _ _ => absurd rfl h⟩
  · exact ⟨onNo, rfl, fun _ _ h _ => absurd rfl h⟩
  · exact ⟨onCommit, rfl, fun hn _ _ _ => by simp only [onCommit, hn]⟩
  · exact ⟨onAbort, rfl, fun hn _ _ _ => by simp only [onAbort, hn]⟩
  · exact ⟨onQuery, rfl, fun hn _ _ _ => by simp only [onQuery, hn]⟩
  · exact ⟨onReply, rfl, fun _ _ _ h => absurd rfl h⟩

/-! ## PREPARE (R332) -/

/-- The vote that PREPARE opens at a peer. -/
def peerVote (s : State) (m : VoteMsg) : Vote :=
  { key := voteKey m, step := voteStep m, coordinator := false, cmd := none, peers := if m.peers.isEmpty then [m.src] else m.peers,
    yes := [], preparing := true, failed := [], answers := [], deciding := false, waiting := [], unreached := [],
    coordinatorLost := false, votedAt := s.now, cls := none }

section
variable (s : State) (m : VoteMsg) (h : Shard) (hs : shardOf s (voteKey m) = some h)
include hs

theorem onPrepare_otherStep (hstep : voteStep m ≠ h.version + 1) :
    voteOf (onPrepare s m) (voteKey m) = voteOf s (voteKey m) ∧
    shardOf (onPrepare s m) (voteKey m) = some (if mayOpen s h then openStep h else h) := by
  have hkey := shardOf_key s _ h hs
  have hopen : (openStep h).key = h.key := by unfold openStep; split <;> rfl
  simp only [onPrepare, hs, if_pos hstep, voteOf_sendVote, shardOf_sendVote]
  unfold openForVote
  split
  · refine ⟨rfl, ?_⟩
    rw [← hkey, ← hopen] at hs ⊢
    exact shardOf_setShard s (openStep h) h hs
  · exact ⟨rfl, hs⟩

theorem onPrepare_voting (hstep : voteStep m = h.version + 1) (hv : voteOf s (voteKey m) ≠ none) : onPrepare s m = s := by
  have hkey := shardOf_key s _ h hs
  have hsome : (voteOf s h.key).isSome = true := Option.isSome_iff_ne_none.mpr (hkey ▸ hv)
  simp only [onPrepare, hs, hsome, hstep, ne_eq, not_true_eq_false, if_false, if_true]

theorem onPrepare_opens (hstep : voteStep m = h.version + 1) (hv : voteOf s (voteKey m) = none) :
    onPrepare s m = tryPrepare (addVote s (peerVote s m)) (peerVote s m) := by
  have hkey := shardOf_key s _ h hs
  have hnone : (voteOf s h.key).isSome = false := by rw [hkey, hv]; rfl
  simp only [onPrepare, hs, hnone, hstep, ne_eq, not_true_eq_false, if_false, Bool.false_eq_true]
  simp only [peerVote, addVote, hkey, hstep]

end

/-! ## The preparing of a shard (R332) -/

section
variable (s : State) (v : Vote) (h : Shard)

theorem openStep_of_opened (ho : h.state = .opened) : openStep h = h := by simp [openStep, ho]

/-- An OPEN shard of the next step waits while a writer runs or a LOAD port is bound. -/
theorem tryPrepare_waits (hp : v.preparing = true) (hs : shardOf s v.key = some h) (ho : h.state = .opened) (hstep : v.step = h.version + 1)
    (hw : hasWriter s h.key = true ∨ (boundPorts s h.key).any (fun p => !p.2.unload) = true) : tryPrepare s v = setShard s h := by
  have hwait : hasWriter (setShard s h) h.key = true ∨ (boundPorts (setShard s h) h.key).any (fun p => !p.2.unload) = true ∨
      floorHolds (setShard s h) h = true := hw.elim .inl (fun h' => .inr (.inl h'))
  simp only [tryPrepare, hp, hs, openStep_of_opened h ho, ho, hstep]
  simp only [Bool.not_true, Bool.false_eq_true, if_false, ne_eq, not_true_eq_false, reduceCtorEq, false_and, or_self, if_pos hwait]

/-- An OPEN shard of the next step with no writer, nothing to copy forward and no digest votes YES. -/
theorem tryPrepare_votesYes (hp : v.preparing = true) (hs : shardOf s v.key = some h) (ho : h.state = .opened)
    (hstep : v.step = h.version + 1)
    (hw : hasWriter s h.key = false) (hb : (boundPorts s h.key).any (fun p => !p.2.unload) = false) (hd : h.digest = false)
    (hf : forwardList h = []) :
    tryPrepare s v = castYes (setShard (setShard s h) (forwardRecord h)) v (forwardRecord h) 0 := by
  have hgo : ¬(hasWriter (setShard s h) h.key = true ∨ (boundPorts (setShard s h) h.key).any (fun p => !p.2.unload) = true ∨
      floorHolds (setShard s h) h = true) := by
    rintro (h' | h' | h')
    · exact absurd (hw.symm.trans h') (by decide)
    · exact absurd (hb.symm.trans h') (by decide)
    · simp [floorHolds, hf] at h'
  have hdig : ∀ t, shardDigest t (forwardRecord h) (h.version + 1) = some 0 := fun t => by simp [shardDigest, forwardRecord, hd]
  have hver : (forwardRecord h).version = h.version := rfl
  simp only [tryPrepare, hp, hs, openStep_of_opened h ho, ho, hstep]
  simp only [Bool.not_true, Bool.false_eq_true, if_false, ne_eq, not_true_eq_false, reduceCtorEq, false_and, or_self, if_neg hgo, hf,
    copyForward, hver, hdig]

/-- A YES vote of a peer leaves its shard PREPARED, and its vote that prepares no more. -/
theorem castYes_peer (g : Shard) (w : Vote) (d : DWord) (hc : v.coordinator = false) (hk : h.key = v.key) (hs : shardOf s v.key = some g)
    (hv : voteOf s v.key = some w) :
    voteOf (castYes s v h d) v.key = some { v with preparing := false, votedAt := s.now } ∧
    shardOf (castYes s v h d) v.key = some { h with state := .prepared } := by
  unfold castYes
  dsimp only
  rw [if_neg (by simp [hc]), voteOf_sendVote, shardOf_sendVote, shardOf_setVote]
  refine ⟨voteOf_setVote (setShard s { h with state := .prepared }) { v with preparing := false, votedAt := s.now } w hv, ?_⟩
  rw [← hk] at hs ⊢
  exact shardOf_setShard s { h with state := .prepared } g hs

end

end Sys2Proof.Machine
end

section
/-!
SUPPORT. What the votes, the decisions, the queries and the timers of the commit vote do (R334, R335).
-/
namespace Sys2Proof.Machine

open Sys2Proof

/-! ## VOTE_YES and VOTE_NO at the coordinator (R334) -/

/-- The vote with the record of a shard that votes NO, or YES with its digest, added. -/
def withNo (v : Vote) (m : VoteMsg) : Vote := { v with failed := v.failed ++ [(voteRoot m, reasonStatus (voteReason m))] }
def withYes (v : Vote) (m : VoteMsg) : Vote := { v with yes := v.yes ++ [(voteRoot m, BitVec.ofNat 64 (fieldAt m.record 16 8))] }

/-- The first bytes of a part of a byte string. -/
theorem slice_slice_zero (bs : Bytes) (a n k : Nat) (h : k ≤ n) : slice (slice bs a n) 0 k = slice bs a k := by
  have hmin : min (k - min n (bs.drop a).length) (n - (bs.drop a).length) = k - (bs.drop a).length := by omega
  have hlen : (slice bs a n).length = n := by simp only [slice, List.length_append, List.length_take, List.length_replicate]; omega
  unfold slice at hlen ⊢
  rw [List.drop_zero, hlen, List.take_append, List.take_take, List.take_replicate, List.length_take, hmin, Nat.min_eq_left h,
    Nat.sub_eq_zero_of_le h]
  simp

/-- The digest and the hash that a vote record carries. -/
theorem slice_voteHash (bs : Bytes) : fieldAt (slice bs 16 48) 0 8 = fieldAt bs 16 8 ∧ fit 48 (slice bs 16 48) = slice bs 16 48 := by
  have hlen : (slice bs 16 48).length = 48 := by simp [slice]; omega
  constructor
  · rw [fieldAt, slice_slice_zero bs 16 48 8 (by decide), fieldAt]
  · rw [fit, hlen, List.take_of_length_le (Nat.le_of_eq hlen)]
    exact List.append_nil _

/-- A second YES of a shard says nothing. -/
theorem onYes_repeated (s : State) (m : VoteMsg) (v : Vote) (hv : voteOf s (voteKey m) = some v)
    (hy : v.yes.any (fun p => decide (p.1 = voteRoot m)) = true) : onYes s m = s := by
  simp only [onYes, hv, hy, or_true, if_true]

section
variable (s : State) (m : VoteMsg) (v : Vote) (hv : voteOf s (voteKey m) = some v) (hc : v.coordinator = true) (hd : v.deciding = false)
  (hf : fromShard v m = true)
include hv hc hd hf

theorem onNo_tally : onNo s m = tallyVote s (withNo v m) := by
  simp only [onNo, hv, hc, hd, hf, Bool.not_true, Bool.false_eq_true, or_self, if_false]
  rfl

theorem onYes_tally (hy : v.yes.any (fun p => decide (p.1 = voteRoot m)) = false) : onYes s m = tallyVote s (withYes v m) := by
  have hdigest : fieldAt (voteHash m) 0 8 = fieldAt m.record 16 8 := (slice_voteHash m.record).1
  simp only [onYes, hv, hc, hd, hf, hy, Bool.not_true, Bool.false_eq_true, or_self, if_false, hdigest]
  simp only [withYes, hc, hd]

end

/-! ## DECIDE_COMMIT and DECIDE_ABORT at a peer (R334) -/

section
variable (s : State) (m : VoteMsg) (h : Shard) (hs : shardOf s (voteKey m) = some h)
include hs

theorem onCommit_applies (hp : h.state = .prepared) (hstep : h.version + 1 = voteStep m) :
    voteOf (onCommit s m) (voteKey m) = none ∧
    shardOf (onCommit s m) (voteKey m) = some (committed h (slice m.record 16 48)) ∧ (onCommit s m).mem = s.mem ∧
    (onCommit s m).out = s.out := by
  have hkey := shardOf_key s _ h hs
  have hhash : fit 48 (voteHash m) = slice m.record 16 48 := (slice_voteHash m.record).2
  have hon : onCommit s m = applyCommit (dropVote s h.key) h (slice m.record 16 48) := by
    simp only [onCommit, hs, hp, hstep, and_self, if_true, hhash]
  rw [hon]
  rw [← hkey] at hs ⊢
  exact ⟨by rw [voteOf_applyCommit, voteOf_dropVote], shardOf_applyCommit (dropVote s h.key) h h _ hs, rfl, rfl⟩

theorem onCommit_ignored (h' : h.state ≠ .prepared ∨ h.version + 1 ≠ voteStep m) : onCommit s m = s := by
  have hno : ¬(h.state = .prepared ∧ h.version + 1 = voteStep m) := fun ⟨h1, h2⟩ => h'.elim (· h1) (· h2)
  simp only [onCommit, hs, if_neg hno]

theorem onAbort_applies (h' : h.state = .opened ∨ (h.state = .prepared ∧ h.version + 1 = voteStep m)) :
    voteOf (onAbort s m) (voteKey m) =
      (if (voteOf s (voteKey m)).all (fun v => decide (v.step = voteStep m)) then none else voteOf s (voteKey m)) ∧
    ∃ h1, shardOf (onAbort s m) (voteKey m) = some h1 ∧ h1.state = .idle ∧ h1.version = h.version ∧ h1.stepWritten = [] ∧
      h1.hash = h.hash := by
  have hkey := shardOf_key s _ h hs
  have hon : onAbort s m =
      applyAbort (if (voteOf s h.key).all (fun v => decide (v.step = voteStep m)) then dropVote s h.key else s) h := by
    simp only [onAbort, hs, if_pos h']
  rw [hon]
  rw [← hkey] at hs ⊢
  have hbusy : h.state ≠ .idle := by
    rcases h' with ho | ⟨hp, -⟩ <;> simp [*]
  constructor
  · rw [voteOf_applyAbort]
    split
    · exact voteOf_dropVote ..
    · rfl
  · have hshard : ∀ b : Bool, shardOf (if b then dropVote s h.key else s) h.key = some h := fun b => by
      cases b <;> exact hs
    obtain ⟨g, hg, hidle, hver, hhash, hw⟩ := shardOf_applyAbort _ h (hshard _)
    exact ⟨g, hg, hidle, hver, hw hbusy, hhash⟩

theorem onAbort_ignored (h' : h.state = .idle ∨ (h.state = .prepared ∧ h.version + 1 ≠ voteStep m)) : onAbort s m = s := by
  have hno : ¬(h.state = .opened ∨ (h.state = .prepared ∧ h.version + 1 = voteStep m)) := by
    rcases h' with hi | ⟨hp, hne⟩
    · simp [hi]
    · simp [hp, hne]
  simp only [onAbort, hs, if_neg hno]

/-! ## QUERY and STATE_REPLY (R335) -/

theorem onQuery_replies : onQuery s m = sendVote s none (voteKey m) m.src (voteRoot m) false
    (voteBytes vkReply (shardCode h.state) h.rootIndex (voteKey m).hset h.version []) := by
  have hkey := shardOf_key s _ h hs
  simp only [onQuery, hs, hkey]

end

/-- The vote with the first answer to its query added. -/
def withAnswer (v : Vote) (m : VoteMsg) : Vote :=
  { v with answers := [(voteRoot m, voteReason m, voteStep m)], waiting := v.waiting.erase (voteRoot m) }

section
variable (s : State) (m : VoteMsg) (v : Vote) (hv : voteOf s (voteKey m) = some v)
include hv

theorem onReply_verdict (hc : v.coordinator = false) (hp : v.preparing = false) (hf : v.peers[voteRoot m]? = some m.src)
    (ha : v.answers = []) : onReply s m = queryVerdict s (withAnswer v m) := by
  simp only [onReply, hv, hc, hp, hf, ha, Bool.false_eq_true, ne_eq, not_true_eq_false, or_self, if_false, List.nil_append]
  simp only [withAnswer, hc, hp]

variable (h : Shard) (hs : shardOf s (voteKey m) = some h)
include hs

/-- An answer of a shard at the step or beyond: the step was committed. -/
theorem queryVerdict_commits (hstep : v.step ≤ voteStep m) :
    voteOf (queryVerdict s (withAnswer v m)) (voteKey m) = none ∧
    (shardOf (queryVerdict s (withAnswer v m)) (voteKey m)).map (fun x => (x.version, x.state)) = some (h.version + 1, .idle) := by
  have hkv := voteOf_key s _ v hv
  have hks := shardOf_key s _ h hs
  have hany : (withAnswer v m).answers.any (fun a => decide (v.step ≤ a.2.2)) = true := by simp [withAnswer, hstep]
  have hverdict : queryVerdict s (withAnswer v m) = applyCommit (dropVote s (voteKey m)) h
      ((List.range 48).map (Config.remoteHash h.key.ctx.toNat h.key.hset.toNat v.step)) := by
    rw [← hkv] at hs ⊢
    unfold queryVerdict
    rw [show (withAnswer v m).key = v.key from rfl, hs]
    exact if_pos hany
  rw [hverdict, voteOf_applyCommit, voteOf_dropVote]
  rw [← hks] at hs ⊢
  rw [shardOf_applyCommit (dropVote s h.key) h h _ hs]
  exact ⟨rfl, rfl⟩

/-- An answer of a shard before the step that is not PREPARED: the step was aborted. -/
theorem queryVerdict_aborts (hstep : voteStep m + 1 = v.step) (hr : voteReason m ≠ 2) :
    voteOf (queryVerdict s (withAnswer v m)) (voteKey m) = none ∧
    (shardOf (queryVerdict s (withAnswer v m)) (voteKey m)).map (fun x => (x.version, x.state)) = some (h.version, .idle) := by
  have hkv := voteOf_key s _ v hv
  have hks := shardOf_key s _ h hs
  have hnone : ¬(withAnswer v m).answers.any (fun a => decide (v.step ≤ a.2.2)) = true := by simp [withAnswer]; omega
  have hany : (withAnswer v m).answers.any (fun a => decide (a.2.1 ≠ 2) && decide (a.2.2 + 1 = v.step)) = true := by
    simpa [withAnswer, hstep] using hr
  have hverdict : queryVerdict s (withAnswer v m) = applyAbort (dropVote s (voteKey m)) h := by
    rw [← hkv] at hs ⊢
    unfold queryVerdict
    rw [show (withAnswer v m).key = v.key from rfl, hs]
    exact (if_neg hnone).trans (if_pos hany)
  rw [hverdict, voteOf_applyAbort, voteOf_dropVote]
  rw [← hks] at hs ⊢
  obtain ⟨g, hg, hidle, hver, -, -⟩ := shardOf_applyAbort (dropVote s h.key) h hs
  rw [hg]
  exact ⟨rfl, by simp [hidle, hver]⟩

/-- An answer of a PREPARED shard before the step, with others still due, decides nothing. -/
theorem queryVerdict_waits (hstep : voteStep m < v.step) (hr : voteReason m = 2) (hw : v.waiting.erase (voteRoot m) ≠ []) :
    voteOf (queryVerdict s (withAnswer v m)) (voteKey m) = some (withAnswer v m) ∧
    shardOf (queryVerdict s (withAnswer v m)) (voteKey m) = some h := by
  have hkv := voteOf_key s _ v hv
  have hno : ¬(withAnswer v m).answers.any (fun a => decide (v.step ≤ a.2.2)) = true := by simp [withAnswer]; omega
  have hno2 : ¬(withAnswer v m).answers.any (fun a => decide (a.2.1 ≠ 2) && decide (a.2.2 + 1 = v.step)) = true := by
    simp [withAnswer, hr]
  have hno3 : ¬((withAnswer v m).waiting.isEmpty = true ∧ coordinatorGone (withAnswer v m) = true) := fun h' =>
    hw (List.isEmpty_iff.mp h'.1)
  have hverdict : queryVerdict s (withAnswer v m) = setVote s (withAnswer v m) := by
    rw [← hkv] at hs
    unfold queryVerdict
    rw [show (withAnswer v m).key = v.key from rfl, hs]
    exact (if_neg hno).trans ((if_neg hno2).trans (if_neg hno3))
  rw [hverdict, shardOf_setVote]
  rw [← hkv] at hv hs ⊢
  exact ⟨voteOf_setVote s (withAnswer v m) v hv, hs⟩

end

/-! ## Timers -/

/-- A NO vote of a peer leaves the harbour but for its vote, and the time, as they were (R332). -/
theorem castNo_peer (s : State) (v : Vote) (r : Byte) (hc : v.coordinator = false) :
    voteOf (castNo s v r) v.key = none ∧ (castNo s v r).hb.shards = s.hb.shards ∧ (castNo s v r).now = s.now := by
  unfold castNo
  rw [if_neg (by simp [hc])]
  dsimp only
  rw [voteOf_sendVote, voteOf_dropVote, sendVote_hb, sendVote_now]
  exact ⟨rfl, rfl, rfl⟩

section
variable (s : State) (k : SetKey) (v : Vote) (hi : inService s = true) (hv : voteOf s k = some v)
include hi hv

/-- A vote at the coordinator past its stall limit (R334, log 6). -/
theorem exec_voteTimeout : exec (.voteTimeout k) s = .next (if v.coordinator ∧ !v.deciding then
    settle (voteAbort (advanceTo s (v.votedAt + us (stallUs s))) v (abortStatus v)) else s) := by
  have harm : exec (.voteTimeout k) s = execVoteTimeout k s := rfl
  simp only [harm, execVoteTimeout, hi, hv, if_true]

theorem exec_prepareWaitExpiry : exec (.prepareWaitExpiry k) s = .next (if v.preparing then
    settle (castNo (advanceTo s (v.votedAt + us (stallUs s))) v vrWait) else s) := by
  have harm : exec (.prepareWaitExpiry k) s = execPrepareWaitExpiry k s := rfl
  simp only [harm, execPrepareWaitExpiry, hi, hv, if_true]

/-- The vote of a shard that asks every other shard anew (R335). -/
def asking (v : Vote) (h : Shard) (now : Nat) : Vote :=
  { v with votedAt := now, coordinatorLost := false, answers := [], waiting := (peersBut v h.rootIndex).map (·.1) }

theorem exec_preparedQueryTimer (h : Shard) (hs : shardOf s k = some h) (hc : v.coordinator = false) (hp : v.preparing = false)
    (hst : h.state = .prepared) : exec (.preparedQueryTimer k) s =
      .next (if coordinatorGone v then settle (applyAbort (dropVote (advanceTo s (v.votedAt + us (stallUs s))) k) h)
        else sendAllVotes (setVote (advanceTo s (v.votedAt + us (stallUs s))) (asking v h (max s.now (v.votedAt + us (stallUs s)))))
          (asking v h (max s.now (v.votedAt + us (stallUs s)))) h.rootIndex false (voteBytes vkQuery 0 h.rootIndex k.hset v.step [])) := by
  have hkey := voteOf_key s k v hv
  have hgo : ¬(v.coordinator = true ∨ v.preparing = true ∨ h.state ≠ .prepared) := by simp [hc, hp, hst]
  have harm : exec (.preparedQueryTimer k) s = execPreparedQueryTimer k s := rfl
  simp only [harm, execPreparedQueryTimer, hi, hv, hs, if_true, if_neg hgo, hkey]
  simp only [asking, hkey, advanceTo]

end

/-- A prepare that waits too long at the coordinator is a failure with TIMEOUT (R332, R334). -/
theorem castNo_wait_coordinator (s : State) (v : Vote) (hc : v.coordinator = true) :
    castNo s v vrWait = tallyVote s { v with preparing := false, failed := v.failed ++ [(0, stTimeout)] } := by
  unfold castNo
  rw [if_pos hc]
  rfl

/-- A new round of queries leaves the shards as they are (R335). -/
theorem asking_leaves (s : State) (k : SetKey) (v w : Vote) (me : Nat) (bs : Bytes) (hk : w.key = k) (hv : voteOf s k = some v) :
    (sendAllVotes (setVote s w) w me false bs).now = s.now ∧ (sendAllVotes (setVote s w) w me false bs).hb.shards = s.hb.shards ∧
    voteOf (sendAllVotes (setVote s w) w me false bs) k = some w := by
  subst hk
  rw [voteOf_sendAllVotes, sendAllVotes_hb, sendAllVotes_now]
  exact ⟨rfl, rfl, voteOf_setVote s w v hv⟩

/-- The peer's vote as it is kept, and the shard that waits or has voted (R332). -/
theorem onPrepare_waits (s : State) (m : VoteMsg) (h : Shard) (hs : shardOf s (voteKey m) = some h) (hv : voteOf s (voteKey m) = none)
    (hstep : voteStep m = h.version + 1) (ho : h.state = .opened)
    (hw : hasWriter s (voteKey m) = true ∨ (boundPorts s (voteKey m)).any (fun p => !p.2.unload) = true) :
    voteOf (onPrepare s m) (voteKey m) = some (peerVote s m) ∧ shardOf (onPrepare s m) (voteKey m) = some h ∧
    (onPrepare s m).out = s.out ∧ (onPrepare s m).mem = s.mem := by
  have hkey := shardOf_key s _ h hs
  rw [onPrepare_opens s m h hs hstep hv, tryPrepare_waits (addVote s (peerVote s m)) (peerVote s m) h rfl hs ho hstep (hkey ▸ hw)]
  refine ⟨voteOf_addVote s (peerVote s m) hv, ?_, rfl, rfl⟩
  rw [← hkey] at hs ⊢
  exact shardOf_setShard (addVote s (peerVote s m)) h h hs

theorem onPrepare_votesYes (s : State) (m : VoteMsg) (h : Shard) (hs : shardOf s (voteKey m) = some h) (hv : voteOf s (voteKey m) = none)
    (hstep : voteStep m = h.version + 1) (ho : h.state = .opened) (hw : hasWriter s (voteKey m) = false)
    (hb : (boundPorts s (voteKey m)).any (fun p => !p.2.unload) = false) (hd : h.digest = false) (hf : forwardList h = []) :
    voteOf (onPrepare s m) (voteKey m) = some { peerVote s m with preparing := false } ∧
    shardOf (onPrepare s m) (voteKey m) = some { forwardRecord h with state := .prepared } := by
  have hkey := shardOf_key s _ h hs
  have happ := voteOf_addVote s (peerVote s m) hv
  rw [onPrepare_opens s m h hs hstep hv]
  have hpeer : (peerVote s m).key = h.key := hkey.symm
  obtain ⟨t, ht⟩ : ∃ t, t = addVote s (peerVote s m) := ⟨_, rfl⟩
  have hst : shardOf t h.key = some h := by rw [ht, hkey]; exact hs
  have hwt : hasWriter t h.key = false := by rw [ht, hkey]; exact hw
  have hbt : (boundPorts t h.key).any (fun p => !p.2.unload) = false := by rw [ht, hkey]; exact hb
  have hnow : t.now = s.now := by rw [ht]; rfl
  rw [← ht] at happ ⊢
  rw [tryPrepare_votesYes t (peerVote s m) h rfl (by rw [hpeer]; exact hst) ho hstep hwt hbt hd hf]
  have hshard : shardOf (setShard (setShard t h) (forwardRecord h)) (peerVote s m).key = some (forwardRecord h) := by
    rw [hpeer]
    exact shardOf_setShard (setShard t h) (forwardRecord h) h (shardOf_setShard t h h hst)
  have hcast := castYes_peer (setShard (setShard t h) (forwardRecord h)) (peerVote s m) (forwardRecord h) (forwardRecord h) (peerVote s m) 0
    rfl hkey hshard happ
  have hvoted : ({ peerVote s m with preparing := false, votedAt := (setShard (setShard t h) (forwardRecord h)).now } : Vote) =
      { peerVote s m with preparing := false } := by
    rw [show (setShard (setShard t h) (forwardRecord h)).now = s.now from hnow]
    rfl
  rw [hvoted] at hcast
  exact hcast

end Sys2Proof.Machine
end

section
/-!
SUPPORT. The statement on the commit vote (R332 to R335), by record and by timer.
-/
namespace Sys2Proof.Machine

open Sys2Proof

/-! ## Each record on its row -/

section
variable (s : State) (m : VoteMsg) (hl : voteLegal s m = true) (hr : voteRecordOk m.record = true)
include hl hr

theorem exec_prepare (hk : voteKind m = 1) : exec (.prepare m) s = .next (settle (onPrepare s m)) := voteRow_taken s m 1 onPrepare hl hr hk
theorem exec_voteYes (hk : voteKind m = 2) : exec (.voteYes m) s = .next (settle (onYes s m)) := voteRow_taken s m 2 onYes hl hr hk
theorem exec_voteNo (hk : voteKind m = 3) : exec (.voteNo m) s = .next (settle (onNo s m)) := voteRow_taken s m 3 onNo hl hr hk
theorem exec_decideCommit (hk : voteKind m = 4) : exec (.decideCommit m) s = .next (settle (onCommit s m)) :=
  voteRow_taken s m 4 onCommit hl hr hk
theorem exec_decideAbort (hk : voteKind m = 5) : exec (.decideAbort m) s = .next (settle (onAbort s m)) :=
  voteRow_taken s m 5 onAbort hl hr hk
theorem exec_query (hk : voteKind m = 6) : exec (.query m) s = .next (settle (onQuery s m)) := voteRow_taken s m 6 onQuery hl hr hk
theorem exec_stateReply (hk : voteKind m = 7) : exec (.stateReply m) s = .next (settle (onReply s m)) :=
  voteRow_taken s m 7 onReply hl hr hk

end

/-! ## A vote that is tallied -/

section
variable (s : State) (m : VoteMsg) (v : Vote) (h : Shard) (hv : voteOf s (voteKey m) = some v) (hs : shardOf s (voteKey m) = some h)
  (hd : v.deciding = false)
include hv hs hd

/-- A vote of this set as a record changes it, which is tallied under the set's key. -/
theorem tally_waits (w : Vote) (hw : w.key = v.key) (hwd : w.deciding = v.deciding) (h1 : allYes w h = false) (h2 : allDone w h = false) :
    voteOf (tallyVote s w) (voteKey m) = some w ∧ shardOf (tallyVote s w) (voteKey m) = some h ∧ (tallyVote s w).out = s.out := by
  have hkey : w.key = voteKey m := hw.trans (voteOf_key s _ v hv)
  rw [← hkey] at hv hs ⊢
  rw [tallyVote_waits s w h hs (hwd.trans hd) h1 h2]
  exact ⟨voteOf_setVote s w v hv, hs, rfl⟩

theorem tally_aborts (w : Vote) (hw : w.key = v.key) (hwd : w.deciding = v.deciding) (h1 : allYes w h = false) (h2 : allDone w h = true) :
    tallyVote s w = voteAbort s w (abortStatus w) := by
  have hkey : w.key = voteKey m := hw.trans (voteOf_key s _ v hv)
  rw [← hkey] at hs
  exact tallyVote_aborts s w h hs (hwd.trans hd) h1 h2

theorem tally_commits (w : Vote) (hw : w.key = v.key) (hwd : w.deciding = v.deciding) (h1 : allYes w h = true) (hp : peersBut w 0 ≠ []) :
    voteOf (tallyVote s w) (voteKey m) = some { w with deciding := true, waiting := (peersBut w 0).map (·.1) } ∧
    shardOf (tallyVote s w) (voteKey m) = some (committed h (hashNext h w.step (digestsOf w h))) := by
  have hkey : w.key = voteKey m := hw.trans (voteOf_key s _ v hv)
  have hh := shardOf_key s _ h hs
  rw [← hkey] at hv hs hh ⊢
  rw [tallyVote_commits s w h hs (hwd.trans hd) h1]
  exact voteCommit_leaves s w v h h hh hs hv hp

end

/-- Settles O47: each record by the lemma on its row, each timer by its own. -/
theorem commitVote : Obligations.CommitVote := by
  unfold Obligations.CommitVote
  intro s m
  refine ⟨fun e he hno => ?_, fun hl hr hnone e he hk h2 h3 h7 => ?_, fun h hl hr hs => ⟨?prepare, ?other, ?second, ?votes, ?commit,
    ?lateCommit, ?abort, ?lateAbort, ?query, ?reply⟩, fun k v hi hv => ⟨?stall, ?noStall, ?waitOver, ?peerWait, ?noWait, ?asks⟩⟩
  · obtain ⟨f, hf, -⟩ := exec_voteRows s m e he
    rw [hf, voteRow_refused s m e.1 f hno]
  · obtain ⟨f, hf, hsame⟩ := exec_voteRows s m e he
    rw [hf, voteRow_taken s m e.1 f hl hr hk, hsame hnone h2 h3 h7]
  case prepare =>
    intro hk hv hstep ho
    refine ⟨fun hw => ⟨_, exec_prepare s m hl hr hk, onPrepare_waits s m h hs hv hstep ho hw⟩, fun hw hb hd hf =>
      ⟨_, exec_prepare s m hl hr hk, onPrepare_votesYes s m h hs hv hstep ho hw hb hd hf⟩⟩
  case other =>
    intro hk hstep
    exact ⟨_, exec_prepare s m hl hr hk, onPrepare_otherStep s m h hs hstep⟩
  case second =>
    intro hk hstep hv
    rw [exec_prepare s m hl hr hk, onPrepare_voting s m h hs hstep hv]
  case votes =>
    intro v hv hc hd hf
    refine ⟨fun hk h1 => ⟨fun h2 => ?_, fun h2 => ?_⟩, fun hk hy => ?_, fun hk hy => ⟨fun h1 h2 => ?_, fun h1 h2 => ?_, fun h1 hp => ?_⟩⟩
    · rw [exec_voteNo s m hl hr hk, onNo_tally s m v hv hc hd hf, tally_aborts s m v h hv hs hd (withNo v m) rfl rfl h1 h2]
      rfl
    · refine ⟨_, exec_voteNo s m hl hr hk, ?_⟩
      rw [onNo_tally s m v hv hc hd hf]
      exact tally_waits s m v h hv hs hd (withNo v m) rfl rfl h1 h2
    · rw [exec_voteYes s m hl hr hk, onYes_repeated s m v hv hy]
    · refine ⟨_, exec_voteYes s m hl hr hk, ?_⟩
      rw [onYes_tally s m v hv hc hd hf hy]
      obtain ⟨hvote, hshard, -⟩ := tally_waits s m v h hv hs hd (withYes v m) rfl rfl h1 h2
      exact ⟨hvote, hshard⟩
    · rw [exec_voteYes s m hl hr hk, onYes_tally s m v hv hc hd hf hy, tally_aborts s m v h hv hs hd (withYes v m) rfl rfl h1 h2]
      rfl
    · refine ⟨_, exec_voteYes s m hl hr hk, ?_⟩
      rw [onYes_tally s m v hv hc hd hf hy]
      exact tally_commits s m v h hv hs hd (withYes v m) rfl rfl h1 hp
  case commit =>
    intro hk hp hstep
    exact ⟨_, exec_decideCommit s m hl hr hk, onCommit_applies s m h hs hp hstep⟩
  case lateCommit =>
    intro hk h'
    rw [exec_decideCommit s m hl hr hk, onCommit_ignored s m h hs h']
  case abort =>
    intro hk h'
    exact ⟨_, exec_decideAbort s m hl hr hk, onAbort_applies s m h hs h'⟩
  case lateAbort =>
    intro hk h'
    rw [exec_decideAbort s m hl hr hk, onAbort_ignored s m h hs h']
  case query =>
    intro hk
    rw [exec_query s m hl hr hk, onQuery_replies s m h hs]
  case reply =>
    intro v hk hv hc hp hf ha
    have hreply := onReply_verdict s m v hv hc hp hf ha
    refine ⟨fun hstep => ⟨_, exec_stateReply s m hl hr hk, ?_⟩, fun hstep hre => ⟨_, exec_stateReply s m hl hr hk, ?_⟩,
      fun hstep hre hw => ⟨_, exec_stateReply s m hl hr hk, ?_⟩⟩
    · rw [hreply]
      exact queryVerdict_commits s m v hv h hs hstep
    · rw [hreply]
      exact queryVerdict_aborts s m v hv h hs hstep hre
    · obtain ⟨hvote, hshard⟩ := queryVerdict_waits s m v hv h hs hstep hre hw
      rw [hreply]
      exact ⟨by rw [hvote, withAnswer, hre], hshard⟩
  case stall =>
    intro hc hd
    rw [exec_voteTimeout s k v hi hv, if_pos (by simp [hc, hd])]
  case noStall =>
    intro h'
    rw [exec_voteTimeout s k v hi hv, if_neg (by rcases h' with hc | hd <;> simp [*])]
  case waitOver =>
    intro hp hc
    rw [exec_prepareWaitExpiry s k v hi hv, if_pos hp, castNo_wait_coordinator _ v hc]
  case peerWait =>
    intro hp hc
    have hkey := voteOf_key s k v hv
    refine ⟨_, by rw [exec_prepareWaitExpiry s k v hi hv, if_pos hp], ?_⟩
    rw [← hkey]
    exact castNo_peer _ v vrWait hc
  case noWait =>
    intro hp
    rw [exec_prepareWaitExpiry s k v hi hv, if_neg (by simp [hp])]
  case asks =>
    intro h hs hc hp hst
    have hkey := voteOf_key s k v hv
    have hexec := exec_preparedQueryTimer s k v hi hv h hs hc hp hst
    refine ⟨fun hgone => by rw [hexec, if_pos hgone], fun hgone => ⟨_, by rw [hexec, if_neg (by simp [hgone])], ?_⟩⟩
    exact asking_leaves (advanceTo s (v.votedAt + us (stallUs s))) k v _ _ _ hkey hv

end Sys2Proof.Machine
end

section
/-!
SUPPORT. Translation and its caches (R109 to R112, R121 to R123): what a lookup hands to the caches, how many entries they hold, what
leaves them at parking and at an invalidate, and the mirror walk of a block that holds no entry; then the statement on them.
-/
namespace Sys2Proof.Machine

open Sys2Proof

/-! ## What a lookup hands to the caches (R112) -/

/-- Entries read from tables that have VALID set, of some kinds only. -/
def ValidFill (kinds : CacheKind → Prop) (l : List (CacheTag × Bytes)) : Prop := ∀ p ∈ l, bit (leNat p.2) 0 = true ∧ kinds p.1.kind

/-- R112 for one lookup: what it hands to the caches has VALID set, and one that fails hands over only entries of the kinds that it
went through before it failed. -/
def ValidLook {ε α : Type} (kinds : CacheKind → Prop) (l : Look (Except ε α)) : Prop :=
  (∀ p ∈ l.fill, bit (leNat p.2) 0 = true) ∧ ∀ k, l.out = .error k → ∀ p ∈ l.fill, kinds p.1.kind

section
variable {kinds : CacheKind → Prop}

theorem validFill_nil : ValidFill kinds [] := by simp [ValidFill]

/-- An entry that goes to the caches only where it was read from its table. -/
theorem validFill_fresh (r : Bool) (t : CacheTag) (bs : Bytes) (hv : bit (leNat bs) 0 = true) (hk : kinds t.kind) :
    ValidFill kinds (if r then [(t, bs)] else []) := by
  cases r with
  | false => exact validFill_nil
  | true => simpa [ValidFill] using ⟨hv, hk⟩

theorem validFill_append {l m : List (CacheTag × Bytes)} (hl : ValidFill kinds l) (hm : ValidFill kinds m) : ValidFill kinds (l ++ m) :=
  fun p hp => (List.mem_append.mp hp).elim (hl p) (hm p)

/-- A lookup that hands over nothing. -/
theorem validLook_of_nil {ε α : Type} {l : Look (Except ε α)} (h : l.fill = []) : ValidLook kinds l := by simp [ValidLook, h]

theorem validLook_of_fill {ε α : Type} {l : Look (Except ε α)} (h : ValidFill kinds l.fill) : ValidLook kinds l :=
  ⟨fun p hp => (h p hp).1, fun _ _ p hp => (h p hp).2⟩

/-- A lookup that succeeds is judged by VALID alone. -/
theorem validLook_of_ok {ε α : Type} {l : Look (Except ε α)} {a : α} (ho : l.out = .ok a) (h : ValidFill (fun _ => True) l.fill) :
    ValidLook kinds l := ⟨fun p hp => (h p hp).1, fun k hk => by simp [ho] at hk⟩

theorem ValidLook.mono {more : CacheKind → Prop} {ε α : Type} {l : Look (Except ε α)} (h : ValidLook kinds l)
    (hk : ∀ x, kinds x → more x) : ValidLook more l := ⟨h.1, fun k ho p hp => hk _ (h.2 k ho p hp)⟩

theorem validLook_lookFail {ε δ α : Type} {l : Look (Except ε α)} (f : ε → δ) (h : ValidLook kinds l) :
    ValidLook kinds (lookFail l f) := by
  refine ⟨h.1, fun k hk => ?_⟩
  cases ho : l.out with
  | ok a => simp [lookFail_ok l f a ho] at hk
  | error e => exact h.2 e ho

theorem validLook_lookThen {ε α β : Type} {l : Look (Except ε α)} {f : α → Look (Except ε β)} (hl : ValidFill kinds l.fill)
    (hf : ∀ a, ValidLook kinds (f a)) : ValidLook kinds (lookThen l f) := by
  cases ho : l.out with
  | error e =>
    have hfill : (lookThen l f).fill = l.fill := by simp [lookThen, ho]
    exact validLook_of_fill (hfill ▸ hl)
  | ok a =>
    obtain ⟨hout, hfill⟩ := lookThen_ok l f a ho
    obtain ⟨hvalid, hkinds⟩ := hf a
    rw [ValidLook, hout, hfill]
    exact ⟨fun p hp => (List.mem_append.mp hp).elim (fun h => (hl p h).1) (hvalid p),
      fun k hk p hp => (List.mem_append.mp hp).elim (fun h => (hl p h).2) (hkinds k hk p)⟩

end

/-! ## One level of a walk, by what its entry is (R109) -/

section
variable (s : State) (b : Nat) (ctx : CtxId) (host : Bool) (va level : Nat) (rest : List Nat) (table : Nat)

/-- The entry of a level, as the block reads it through its caches, and whether it came from memory. -/
def levelRead : Except MemFaultKind Bytes × Bool :=
  cachedRead s b host (table + levelIndex level va * 8) 8 (nodeTag ctx level va)

theorem walkFrom_unread (k : MemFaultKind) (h : (levelRead s b ctx host va level table).1 = .error k) :
    walkFrom s b ctx host va (level :: rest) table =
      lookLost .tableRead (tableFailed b host (table + levelIndex level va * 8) 8) := by
  rw [levelRead] at h
  simp only [walkFrom, h]

variable {s b ctx host va level table} {bs : Bytes} (h : (levelRead s b ctx host va level table).1 = .ok bs)
include h

theorem walkFrom_invalid (hv : bit (leNat bs) 0 = false) :
    walkFrom s b ctx host va (level :: rest) table = lookPure (.error .notPresent) := by
  rw [levelRead] at h
  simp [walkFrom, h, hv]

theorem walkFrom_nonLeaf (hl : level ≠ 0) (he : NonLeaf (leNat bs)) :
    (walkFrom s b ctx host va (level :: rest) table).out = (walkFrom s b ctx host va rest (bits (leNat bs) 51 8 * 256)).out ∧
    (walkFrom s b ctx host va (level :: rest) table).fill =
      (if (levelRead s b ctx host va level table).2 then [(nodeTag ctx level va, bs)] else []) ++
        (walkFrom s b ctx host va rest (bits (leNat bs) 51 8 * 256)).fill := by
  obtain ⟨hvalid, hhigh, hlow, hleaf, hr, hw⟩ := he
  rw [levelRead] at h ⊢
  cases hfresh : (cachedRead s b host (table + levelIndex level va * 8) 8 (nodeTag ctx level va)).2 <;>
    simp [walkFrom, h, hfresh, hvalid, hhigh, hlow, hleaf, hr, hw, hl]

theorem walkFrom_leaf (hl : level ≠ 3) (he : LeafOf (leNat bs) (levelPage level)) :
    walkFrom s b ctx host va (level :: rest) table = lookPure (.ok (levelPage level, leNat bs)) := by
  obtain ⟨hvalid, hhigh, hlow, hleaf, halign⟩ := he
  rw [levelRead] at h
  simp [walkFrom, h, hvalid, hhigh, hlow, hleaf, halign, hl]

/-- A valid entry that neither points to a next level nor maps an aligned page of one of the levels 2 to 0: whichever its LEAF bit
makes it, it fails a test of that kind. -/
theorem walkFrom_bad (hv : bit (leNat bs) 0 = true) (hn : ¬ (level ≠ 0 ∧ NonLeaf (leNat bs)))
    (hl : ¬ (level ≠ 3 ∧ LeafOf (leNat bs) (levelPage level))) :
    walkFrom s b ctx host va (level :: rest) table = lookPure (.error .badEntry) := by
  rw [levelRead] at h
  simp only [walkFrom, h]
  unfold NonLeaf at hn
  unfold LeafOf at hl
  cases hleaf : bit (leNat bs) 1 with
  | false => simp_all
  | true => simp_all

end

/-- A walk hands over non-leaf entries alone, and the leaf that it ends at has VALID set. -/
theorem walkFrom_valid (s : State) (b : Nat) (ctx : CtxId) (host : Bool) (va : Nat) (levels : List Nat) (table : Nat) :
    ValidFill (· = .node) (walkFrom s b ctx host va levels table).fill ∧
    ∀ size v, (walkFrom s b ctx host va levels table).out = .ok (size, v) → bit v 0 = true := by
  induction levels generalizing table with
  | nil => exact ⟨validFill_nil, by simp [walkFrom]⟩
  | cons level rest ih =>
    cases h : (levelRead s b ctx host va level table).1 with
    | error k =>
      rw [walkFrom_unread s b ctx host va level rest table k h]
      exact ⟨validFill_nil, by simp [lookLost]⟩
    | ok bs =>
      by_cases hv : bit (leNat bs) 0 = true
      · by_cases hn : level ≠ 0 ∧ NonLeaf (leNat bs)
        · obtain ⟨hout, hfill⟩ := walkFrom_nonLeaf rest h hn.1 hn.2
          obtain ⟨hbelow, hleaf⟩ := ih (bits (leNat bs) 51 8 * 256)
          exact ⟨hfill ▸ validFill_append (validFill_fresh _ _ _ hv rfl) hbelow, hout ▸ hleaf⟩
        · by_cases hl : level ≠ 3 ∧ LeafOf (leNat bs) (levelPage level)
          · rw [walkFrom_leaf rest h hl.1 hl.2]
            exact ⟨validFill_nil, by simp [hv]⟩
          · rw [walkFrom_bad rest h hv hn hl]
            exact ⟨validFill_nil, by simp⟩
      · rw [walkFrom_invalid rest h (by simpa using hv)]
        exact ⟨validFill_nil, by simp⟩

/-! ## The lookups of R112 -/

theorem bit_zero_leNat_toLe (v : Nat) (h : bit v 0 = true) : bit (leNat (toLe 8 v)) 0 = true := by
  have hlow : bit (v % 2 ^ 64) 0 = bit v 0 := Nat.testBit_mod_two_pow v 64 0
  rw [leNat_toLe]
  exact hlow.trans h

theorem walkMiss_valid (ctx : CtxId) (via : Option Word) (va : Nat) (acc : Access) (w : Look (Except FaultKind (Nat × Nat)))
    (hfill : ValidFill (· = .node) w.fill) (hleaf : ∀ size v, w.out = .ok (size, v) → bit v 0 = true) :
    ValidLook (· = .node) (walkMiss ctx via va acc w) := by
  cases ho : w.out with
  | error k => exact validLook_of_fill (by simpa [walkMiss, ho] using hfill)
  | ok p =>
    obtain ⟨size, v⟩ := p
    have hv := bit_zero_leNat_toLe v (hleaf size v ho)
    cases hr : leafAccess size v va acc with
    | error k => exact validLook_of_fill (by simpa [walkMiss, ho, hr] using hfill)
    | ok a =>
      refine validLook_of_ok (a := a) (by simp [walkMiss, ho, hr]) ?_
      have hnodes : ValidFill (fun _ => True) w.fill := fun p hp => ⟨(hfill p hp).1, trivial⟩
      simpa [walkMiss, ho, hr] using validFill_append hnodes (validFill_fresh true (leafTag ctx via va size) _ hv trivial)

theorem mirrorLook_valid (s : State) (b : Nat) (ctx : CtxId) (c : Context) (via : Option Word) (va : Nat) (acc : Access) :
    ValidLook (· = .node) (mirrorLook s b ctx c via va acc) := by
  obtain ⟨hfill, hleaf⟩ := walkFrom_valid s b ctx c.hostTables va [3, 2, 1, 0] c.mirrorRoot
  have hmiss := walkMiss_valid ctx via va acc _ hfill hleaf
  unfold mirrorLook
  dsimp only
  split
  · exact validLook_of_nil rfl
  · split
    · exact hmiss
    · split
      · exact validLook_of_nil rfl
      · exact hmiss

theorem listLook_valid (s : State) (b : Nat) (host : Bool) (region : Word) (e : RegionEntry) (off : Nat) (acc : Access) :
    ValidLook (· = .node) (listLook s b host region e off acc) := by
  unfold listLook
  dsimp only
  split
  · exact validLook_of_nil rfl
  · next bs _ =>
    by_cases hv : bit (leNat bs) 0 = true
    · simp only [hv, Bool.not_true, Bool.false_eq_true, if_false]
      split
      · exact validLook_of_nil rfl
      · split
        · exact validLook_of_nil rfl
        · exact validLook_of_ok rfl (validFill_fresh _ _ _ hv trivial)
    · rw [if_pos (by simpa using hv)]
      exact validLook_of_nil rfl

theorem regionPage_valid (s : State) (b : Nat) (region : Word) (e : RegionEntry) (off : Nat) (acc : Access) :
    ValidLook (· = .node) (regionPage s b region e off acc) := by
  unfold regionPage
  split
  · exact listLook_valid ..
  · split
    · exact validLook_of_nil rfl
    · exact mirrorLook_valid ..

theorem heldOwner_valid (s : State) (b : Nat) (region : Word) (e : RegionEntry) : (heldOwner s b region e).valid = e.valid := by
  unfold heldOwner
  split <;> rfl

theorem entryLook_valid (s : State) (b : Nat) (region : Word) : ValidFill (· = .entry) (entryLook s b region).fill := by
  unfold entryLook
  split
  · exact validFill_nil
  · dsimp only
    split
    · exact validFill_nil
    · next bs _ =>
      generalize (if isWindow region then 0 else regionGen region) = gen
      have hvalid : (heldOwner s b region (regionEntry bs)).valid = bit (leNat bs) 0 := heldOwner_valid ..
      by_cases hv : bit (leNat bs) 0 = true
      · split
        · exact validFill_nil
        · split
          · exact validFill_nil
          · exact validFill_fresh _ _ _ hv rfl
      · rw [if_pos (.inl (by simpa [hvalid] using hv))]
        exact validFill_nil

theorem regionLook_valid (s : State) (b : Nat) (id : CtxId) (region : Word) (off n : Nat) (acc : Access) (plainRead : Bool) :
    ValidLook (fun k => k = .node ∨ k = .entry) (regionLook s b id region off n acc plainRead) := by
  refine validLook_lookThen (fun p hp => ?_) (fun e => ?_)
  · obtain ⟨hv, hk⟩ := entryLook_valid s b region p hp
    exact ⟨hv, .inr hk⟩
  · split
    · exact validLook_of_nil rfl
    · split
      · exact validLook_of_nil rfl
      · exact validLook_lookFail _ ((regionPage_valid ..).mono fun _ => .inl)

/-- A rank table entry goes to the rank cache where its rank resolves, and then it has VALID, bit 16, set. -/
theorem rankLook_valid (s : State) (b : Nat) (id : CtxId) (c : Context) (rank : Nat) :
    (∀ p ∈ (rankLook s b id c rank).fill, bit (leNat p.2) 16 = true) ∧
    ∀ k, (rankLook s b id c rank).out = .error k → (rankLook s b id c rank).fill = [] := by
  unfold rankLook
  split
  · simp
  · dsimp only
    split
    · simp [lookLost]
    · split
      · simp
      · split
        · simp
        · next hv =>
          refine ⟨fun p hp => ?_, by simp⟩
          split at hp
          · obtain rfl := List.mem_singleton.mp hp
            simpa using hv
          · simp at hp

/-! ## How many entries the caches hold (R111) -/

theorem sharesCache_congr (x y : CacheKind) (h : sharesCache x y = true) :
    cacheSize x = cacheSize y ∧ ∀ z, sharesCache z x = sharesCache z y := by
  cases x <;> cases y <;> simp only [sharesCache, Bool.false_eq_true] at h <;> exact ⟨rfl, fun z => by cases z <;> rfl⟩

/-- The entries that a block holds in the cache of a kind. -/
def occupancy (l : List CachedEntry) (b : Nat) (k : CacheKind) : Nat :=
  (l.filter (fun e => decide (e.block = b) && sharesCache e.tag.kind k)).length

/-- No cache of any block holds more than its size. -/
def WithinSizes (l : List CachedEntry) : Prop := ∀ b k, occupancy l b k ≤ cacheSize k

theorem occupancy_filter (l : List CachedEntry) (keep : CachedEntry → Bool) (b : Nat) (k : CacheKind) :
    occupancy (l.filter keep) b k = ((l.filter (fun e => decide (e.block = b) && sharesCache e.tag.kind k)).filter keep).length := by
  rw [occupancy, List.filter_filter, List.filter_filter]
  exact congrArg (fun mine => (l.filter mine).length) (funext fun _ => Bool.and_comm ..)

theorem withinSizes_filter {l : List CachedEntry} (keep : CachedEntry → Bool) (h : WithinSizes l) : WithinSizes (l.filter keep) :=
  fun b k => Nat.le_trans (occupancy_filter l keep b k ▸ List.length_filter_le ..) (h b k)

/-- Dropping an entry of a cache makes room in it. -/
theorem occupancy_drop_lt (l : List CachedEntry) (b : Nat) (k : CacheKind) (v : CachedEntry)
    (hv : v ∈ l.filter (fun e => decide (e.block = b) && sharesCache e.tag.kind k)) :
    occupancy (l.filter (fun x => decide (x ≠ v))) b k < occupancy l b k := by
  rw [occupancy_filter]
  exact List.length_filter_lt_length_iff_exists.mpr ⟨v, hv, by simp⟩

/-- An entry added to a cache that has room for it. -/
theorem withinSizes_append {l : List CachedEntry} (e : CachedEntry) (h : WithinSizes l)
    (hroom : occupancy l e.block e.tag.kind < cacheSize e.tag.kind) : WithinSizes (l ++ [e]) := by
  intro b k
  have hsum : occupancy (l ++ [e]) b k = occupancy l b k + occupancy [e] b k := by simp [occupancy]
  have hold := h b k
  by_cases hin : e.block = b ∧ sharesCache e.tag.kind k = true
  · obtain ⟨rfl, hk⟩ := hin
    obtain ⟨hsize, hshare⟩ := sharesCache_congr _ _ hk
    have hone : occupancy [e] e.block k ≤ 1 := List.length_filter_le _ [e]
    have hsame : occupancy l e.block e.tag.kind = occupancy l e.block k := by simp only [occupancy, hshare]
    omega
  · have hnone : occupancy [e] b k = 0 := by simpa [occupancy] using hin
    omega

theorem putTable_withinSizes (s : State) (b : Nat) (l : List CachedEntry) (p : CacheTag × Bytes) (h : WithinSizes l) :
    WithinSizes (putTable s b l p) := by
  have hrest := withinSizes_filter (fun e => !(decide (e.block = b) && sameSlot e.tag p.1)) h
  unfold putTable
  split
  · exact h
  · dsimp only
    split
    · next hroom => exact withinSizes_append _ hrest hroom
    · split
      · exact hrest
      · next v hfree =>
        have hmine := (List.mem_filter.mp (List.mem_of_getElem? hfree)).1
        have hroom := Nat.lt_of_lt_of_le (occupancy_drop_lt _ b p.1.kind v hmine) (hrest b p.1.kind)
        exact withinSizes_append _ (withinSizes_filter _ hrest) hroom

theorem bump_tables (s : State) (o : Nat) : (bump s o).tables = s.tables := rfl

theorem leaveSilent_tables (s : State) (b a n : Nat) : (leaveSilent s b a n).tables = s.tables :=
  leaveSilent_keep State.tables (fun _ _ => rfl) (fun _ _ => rfl) (fun _ _ _ => rfl) (fun _ _ => rfl) (fun _ _ => rfl) s b a n

/-- A lookup changes the caches by the entries that it hands over, and by nothing else. -/
theorem warm_tables {α : Type} (s : State) (b : Nat) (l : Look α) : (warm s b l).tables = l.fill.foldl (putTable s b) s.tables := by
  have hmissed : ∀ t : State, (l.missed.eraseDups.foldl (fun s _ => countXlateMiss s b) t).tables = t.tables :=
    foldl_keep State.tables (fun s _ => countXlateMiss s b) (fun t _ => bump_tables t _) _
  have hfailed : ∀ t : State, (l.failed.foldl (fun s r => leaveSilent s b r.1 r.2) t).tables = t.tables :=
    foldl_keep State.tables _ (fun t (r : Nat × Nat) => leaveSilent_tables t b r.1 r.2) _
  exact (hfailed _).trans (hmissed _)

theorem warm_withinSizes {α : Type} (s : State) (b : Nat) (l : Look α) (h : WithinSizes s.tables) : WithinSizes (warm s b l).tables := by
  rw [warm_tables]
  generalize s.tables = t at h
  induction l.fill generalizing t with
  | nil => exact h
  | cons p ps ih => exact ih _ (putTable_withinSizes s b t p h)

/-! ## What leaves the caches (R112, R121 to R123) -/

theorem writeRecord_tables (s : State) (b slot : Nat) (bs : Bytes) : (writeRecord s b slot bs).tables = s.tables := by
  unfold writeRecord harbourWrite
  split
  · split <;> rfl
  · exact hostWrite_keep _ State.tables (fun _ _ => rfl) ..

theorem setAtBlock_tables (s : State) (b : Nat) (c : CtxId) (x : CtxAtBlock) : (setAtBlock s b c x).tables = s.tables := by
  have hsave : (saveRecord s b c x).1.tables = s.tables := by
    unfold saveRecord
    split
    · exact writeRecord_tables ..
    · rfl
  unfold setAtBlock
  dsimp only
  split
  · rfl
  · exact hsave

theorem mem_park_tables (s : State) (b : Nat) (id : CtxId) (x : CtxAtBlock) (h : atBlock s id b = some x) (e : CachedEntry) :
    e ∈ (park s b id).tables ↔ e ∈ s.tables ∧ ¬ (e.block = b ∧ e.tag.ctx = id ∧ e.tag.kind ≠ .entry) := by
  have hpark : (park s b id).tables = (dropTables (setAtBlock s b id { x with resident := false, parking := false }) (fun e =>
      decide (e.block = b) && decide (e.tag.ctx = id) && decide (e.tag.kind ≠ .entry))).tables := by
    simp only [park, h]
    rfl
  rw [hpark, mem_dropTables, setAtBlock_tables]
  simp

theorem dropOwners_tables (s : State) (c : Cmd) : (dropOwners s c).tables = s.tables := by
  unfold dropOwners
  split <;> rfl

/-- The start of an invalidate drops what it names at the blocks on which it acts, and no other entry. -/
theorem mem_startInval_tables (s : State) (c : Cmd) (e : CachedEntry) :
    e ∈ (startInval s c).tables ↔ e ∈ s.tables ∧ ¬ (invalActs s c e.block = true ∧ namesTag c e.tag = true) := by
  have hstart : (startInval s c).tables = (dropTables s (fun e => invalActs s c e.block && namesTag c e.tag)).tables :=
    dropOwners_tables ..
  rw [hstart, mem_dropTables]
  simp

/-! ## The walk of a block that holds no entry (R109) -/

theorem not_leafOf_of_nonLeaf {e size : Nat} (h : NonLeaf e) : ¬ LeafOf e size := by
  obtain ⟨-, -, -, hleaf, -, -⟩ := h
  rintro ⟨-, -, -, hleaf', -⟩
  simp [hleaf] at hleaf'

theorem not_nonLeaf_of_leafBit {e : Nat} (h : bit e 1 = true) : ¬ NonLeaf e := by
  rintro ⟨-, -, -, hleaf, -, -⟩
  simp [h] at hleaf

theorem walk_beyond (s : State) (b : Nat) (id : CtxId) (c : Context) (via : Option Word) (va : Nat) (acc : Access) (h : 2 ^ 48 ≤ va) :
    walk s b id c via va acc = .error .notPresent := by
  have hva : va / 2 ^ 48 ≠ 0 := by omega
  rw [walk, mirrorLook, if_pos hva, lookPure_out]

/-- The table at an address holds an entry at the index of a level. -/
def Reads (s : State) (b : Nat) (c : Context) (va table level e : Nat) : Prop :=
  ∃ bs, tableRead s b c.hostTables (table + levelIndex level va * 8) 8 = .ok bs ∧ leNat bs = e

/-- The walk of an address has come down to a table whose level heads those that remain. -/
def ComesTo (s : State) (b : Nat) (id : CtxId) (c : Context) (va : Nat) (levels : List Nat) (table : Nat) : Prop :=
  (walkFrom s b id c.hostTables va [3, 2, 1, 0] c.mirrorRoot).out = (walkFrom s b id c.hostTables va levels table).out

section
variable {s : State} {b : Nat} {id : CtxId} {c : Context} {via : Option Word} {va : Nat} {acc : Access}
variable {level : Nat} {rest : List Nat} {table e : Nat}
variable (hempty : ∀ e ∈ s.tables, e.block ≠ b)
include hempty

theorem levelRead_of_reads (h : Reads s b c va table level e) :
    ∃ bs, (levelRead s b id c.hostTables va level table).1 = .ok bs ∧ leNat bs = e := by
  obtain ⟨bs, hread, hbs⟩ := h
  exact ⟨bs, by rw [levelRead, cachedRead_none _ _ _ _ _ _ (cachedAt_none s b _ hempty), hread], hbs⟩

theorem walk_eq_walkMiss (hva : va < 2 ^ 48) : walk s b id c via va acc =
    (walkMiss id via va acc (walkFrom s b id c.hostTables va [3, 2, 1, 0] c.mirrorRoot)).out := by
  have hin : ¬ va / 2 ^ 48 ≠ 0 := by omega
  rw [walk, mirrorLook, if_neg hin, cachedAt_none s b _ hempty]

theorem walk_of_fault (hva : va < 2 ^ 48) (hto : ComesTo s b id c va (level :: rest) table) {k : FaultKind}
    (hw : walkFrom s b id c.hostTables va (level :: rest) table = lookPure (.error k)) : walk s b id c via va acc = .error k := by
  rw [ComesTo, hw, lookPure_out] at hto
  rw [walk_eq_walkMiss hempty hva, walkMiss, hto]

variable (hto : ComesTo s b id c va (level :: rest) table) (he : Reads s b c va table level e)
include hto he

theorem comesTo_below (hl : level ≠ 0) (hn : NonLeaf e) : ComesTo s b id c va rest (bits e 51 8 * 256) := by
  obtain ⟨bs, hread, rfl⟩ := levelRead_of_reads (id := id) hempty he
  exact hto.trans (walkFrom_nonLeaf rest hread hl hn).1

variable (hva : va < 2 ^ 48)
include hva

theorem walk_of_invalid (hv : bit e 0 = false) : walk s b id c via va acc = .error .notPresent := by
  obtain ⟨bs, hread, rfl⟩ := levelRead_of_reads (id := id) hempty he
  exact walk_of_fault hempty hva hto (walkFrom_invalid rest hread hv)

theorem walk_of_bad (hv : bit e 0 = true) (hn : ¬ (level ≠ 0 ∧ NonLeaf e)) (hl : ¬ (level ≠ 3 ∧ LeafOf e (levelPage level))) :
    walk s b id c via va acc = .error .badEntry := by
  obtain ⟨bs, hread, rfl⟩ := levelRead_of_reads (id := id) hempty he
  exact walk_of_fault hempty hva hto (walkFrom_bad rest hread hv hn hl)

theorem walk_of_leaf (hl : level ≠ 3) (hleaf : LeafOf e (levelPage level)) : walk s b id c via va acc =
    if acc.rd = true ∧ bit e 2 = false then .error .access
    else if acc.wr = true ∧ bit e 3 = false then .error .access
    else .ok (bits e 51 8 * 256 + va % levelPage level) := by
  obtain ⟨bs, hread, rfl⟩ := levelRead_of_reads (id := id) hempty he
  rw [ComesTo, walkFrom_leaf rest hread hl hleaf, lookPure_out] at hto
  rw [walk_eq_walkMiss hempty hva, walkMiss, hto]
  simp [leafAccess]

end

/-- Settles O27: each clause by the lemmas on the lookups, on the sizes of the caches, on what leaves them, and on the levels of a walk. -/
theorem translations : Obligations.Translations := by
  refine ⟨mirrorLook_valid, regionLook_valid, rankLook_valid, mem_park_tables, fun s b l => warm_withinSizes s b l,
    fun s c e he => ((mem_startInval_tables s c e).mp he).2, fun s b id c via va acc hempty => ?_⟩
  refine ⟨walk_beyond s b id c via va acc, fun hva e3 h3 => ?_⟩
  have to3 : ComesTo s b id c va [3, 2, 1, 0] c.mirrorRoot := rfl
  refine ⟨walk_of_invalid hempty to3 h3 hva, fun hv hleaf => ?_, fun hn3 e2 h2 => ?_⟩
  · exact walk_of_bad hempty to3 h3 hva hv (fun hn => not_nonLeaf_of_leafBit hleaf hn.2) (fun hl => hl.1 rfl)
  have to2 := comesTo_below hempty to3 h3 (by decide) hn3
  refine ⟨walk_of_invalid hempty to2 h2 hva, walk_of_leaf hempty to2 h2 hva (by decide), fun hn2 e1 h1 => ?_⟩
  have to1 := comesTo_below hempty to2 h2 (by decide) hn2
  refine ⟨walk_of_invalid hempty to1 h1 hva, walk_of_leaf hempty to1 h1 hva (by decide), fun hn1 e0 h0 => ?_⟩
  have to0 := comesTo_below hempty to1 h1 (by decide) hn1
  refine ⟨walk_of_invalid hempty to0 h0 hva, walk_of_leaf hempty to0 h0 hva (by decide), fun hn0 => ?_⟩
  exact walk_of_bad hempty to0 h0 hva hn0.1 (fun hn => hn.1 rfl) (fun hl => not_leafOf_of_nonLeaf hn0 hl.2)

end Sys2Proof.Machine
end

section
/-!
SUPPORT. Tables and queues read after a write, the fetch of a hoist, and the entry that a pennant takes; then the statement on hoists
fetched and pennants written (R174, R175, R185 to R187).
-/
namespace Sys2Proof.Machine

open Sys2Proof

/-! ## Tables and queues read after a write -/

theorem Tab.get?_put {κ α : Type} [DecidableEq κ] (t : Tab κ α) (k k' : κ) (v : α) :
    Tab.get? (Tab.put t k v) k' = if k = k' then some v else Tab.get? t k' := by
  induction t with
  | nil => rfl
  | cons p t ih =>
    by_cases hp : p.1 = k
    · rw [Tab.put, if_pos hp, Tab.get?, Tab.get?, hp]
      by_cases hk : k = k'
      · rw [if_pos hk, if_pos hk]
      · rw [if_neg hk, if_neg hk, if_neg hk]
    · rw [Tab.put, if_neg hp, Tab.get?, Tab.get?, ih]
      by_cases hk : k = k'
      · rw [if_neg (hk ▸ hp), if_pos hk, if_pos hk]
      · rw [if_neg hk, if_neg hk]

section
variable (s : State) (b q : Nat) (x : Queue)

theorem queueOf_setQueue (b' q' : Nat) : queueOf (setQueue s b q x) b' q' = if (b, q) = (b', q') then some x else queueOf s b' q' :=
  Tab.get?_put s.queues (b, q) (b', q') x

@[simp] theorem queueOf_setQueue_same : queueOf (setQueue s b q x) b q = some x := by rw [queueOf_setQueue, if_pos rfl]

theorem queueOf_setQueue_other (b' q' : Nat) (h : (b', q') ≠ (b, q)) : queueOf (setQueue s b q x) b' q' = queueOf s b' q' := by
  rw [queueOf_setQueue, if_neg (Ne.symm h)]

/-- The record of a queue depends on the table of queues alone. -/
theorem queueOf_of_queues (t : State) (h : t.queues = s.queues) : queueOf t b q = queueOf s b q := by rw [queueOf, queueOf, h]

@[simp] theorem queueOf_hostWrite (a : Nat) (bs : Bytes) : queueOf (hostWrite s a bs) b q = queueOf s b q :=
  queueOf_of_queues s b q _ (hostWrite_queues s a bs)

theorem hostWrite_mem_linked (a : Nat) (bs : Bytes) (h : hostLinkOk s = true) :
    (hostWrite s a bs).mem = (memWrite s (hostAddr a) bs).mem := by rw [hostWrite, if_pos h]

theorem hostWrite_mem_unlinked (a : Nat) (bs : Bytes) (h : hostLinkOk s = false) : (hostWrite s a bs).mem = s.mem := by
  rw [hostWrite, if_neg (by simp [h])]

/-- A queue that takes doorbells is not being disabled: it does not leave. -/
theorem closeQueue_of_takingDoorbells (hx : queueOf s b q = some x) (ht : x.takingDoorbells = true) : closeQueue s b q = s := by
  simp [closeQueue, hx, ht]

end

/-! ## A hoist fetched (R173, R174) -/

/-- The queue after its oldest hoist, which ends at `e`, has been read as `l`. -/
def withHoist (x : Queue) (e : Nat) (rest : List Nat) (l : List (Nat × Bytes)) : Queue :=
  { x with
    head := e, hoistEnds := rest, bells := x.bells.drop 1, hoistNo := x.hoistNo + 1, fetchCount := x.fetchCount + l.length,
    fetched := x.fetched ++ l.zipIdx.map (fun p =>
      { index := p.1.1, hoist := x.hoistNo, fetchNo := x.fetchCount + p.2, bytes := p.1.2, bell := x.bells.headD 0 }) }

section
variable {s : State} {b q : Nat} {x : Queue} (hx : queueOf s b q = some x)
include hx

theorem fetchHoist_of_noHoist (hn : x.hoistEnds = []) : fetchHoist s b q = s := by simp [fetchHoist, hx, hn]

theorem fetchHoist_of_read {e : Nat} {rest : List Nat} {l : List (Nat × Bytes)} (he : x.hoistEnds = e :: rest)
    (hs : x.entry.hostSpace = true) (hl : readDescs s b x (modSub e x.head (2 * ringLen x)) x.head = .ok l) :
    fetchHoist s b q = hostWrite (setQueue s b q (withHoist x e rest l)) x.entry.headWb (toLe 8 e) := by
  simp [fetchHoist, hx, he, hl, writeHead, hs, withHoist]

end

/-- What each fetched descriptor of a hoist shows of what was read, in ring order: a part that its place in the hoist does not change. -/
theorem withHoist_fetched {α : Type} (x : Queue) (e : Nat) (rest : List Nat) (l : List (Nat × Bytes)) (g : Fetched → α)
    (k : Nat × Bytes → α) (hg : ∀ p n, g { index := p.1, hoist := x.hoistNo, fetchNo := n, bytes := p.2, bell := x.bells.headD 0 } = k p) :
    (withHoist x e rest l).fetched.map g = x.fetched.map g ++ l.map k :=
  calc (withHoist x e rest l).fetched.map g
    _ = x.fetched.map g ++ l.zipIdx.map (k ∘ Prod.fst) := by
        simp only [withHoist, List.map_append, List.map_map]
        exact congrArg _ (List.map_congr_left fun p _ => hg p.1 _)
    _ = x.fetched.map g ++ l.map k := by rw [← List.map_map, List.zipIdx_map_fst]

theorem exec_descriptorFetch (s : State) (b q : Nat) (hs : s.mode = .service) :
    exec (.descriptorFetch b q) s = .next (settle (fetchHoist s b q)) := by
  have harm : exec (.descriptorFetch b q) s = execDescriptorFetch b q s := rfl
  rw [harm, execDescriptorFetch, if_pos (by simp [inService, hs])]

/-! ## The entry that a pennant takes (R185, R186) -/

theorem giveEntry_of_noneHeld {l : List Pennant} (h : ∀ p ∈ l, p.held = false) : giveEntry l = none := by
  induction l with
  | nil => rfl
  | cons p l ih =>
    have hl := ih fun p' hp' => h p' (List.mem_cons_of_mem p hp')
    simp [giveEntry, h p List.mem_cons_self, hl]

/-- One pennant fewer holds an entry, and the pennants stay in their order. -/
theorem giveEntry_some {l l' : List Pennant} (h : giveEntry l = some l') :
    (l'.filter (·.held)).length + 1 = (l.filter (·.held)).length ∧ l'.map (·.fetchNo) = l.map (·.fetchNo) := by
  induction l generalizing l' with
  | nil => simp [giveEntry] at h
  | cons p l ih =>
    by_cases hp : p.held = true
    · obtain rfl : { p with held := false } :: l = l' := by simpa [giveEntry, hp] using h
      simp [hp]
    · obtain ⟨m, hm, rfl⟩ : ∃ m, giveEntry l = some m ∧ p :: m = l' := by simpa [giveEntry, hp] using h
      obtain ⟨hheld, hno⟩ := ih hm
      simp [hp, hheld, hno]

section
variable {x : Queue} {p : Pennant} {rest : List Pennant}

theorem entryFor_of_entry (h : p.held = true ∨ 0 < freeEntries x) : entryFor x p rest = some (p.held, rest) := by
  by_cases hp : p.held = true
  · simp [entryFor, hp]
  · simp [entryFor, hp, h.resolve_left hp]

/-- A pennant that finds no entry free takes that of a later pennant, or waits (log 197). -/
theorem entryFor_of_full (hp : p.held = false) (hfree : freeEntries x = 0) (ht : x.takingDoorbells = true) :
    entryFor x p rest = (giveEntry rest).map (fun l => (true, l)) := by simp [entryFor, hp, hfree, ht]

end

/-! ## A pennant written (R187) -/

/-- The queue after its oldest pennant has been written to an entry, reserved or free, with `rest` behind it. -/
def withoutPennant (x : Queue) (reserved : Bool) (rest : List Pennant) : Queue :=
  { x with pennants := rest, written := (x.written + 1) % (2 * cplLen x), reserved := if reserved then x.reserved - 1 else x.reserved }

/-- The notification of a host queue, or of a queue that asks for none, is seen in the host interface, the messages and the registers
alone. -/
theorem notify_keep {α : Type} (f : State → α) (hh : ∀ s h, f { s with host := h } = f s) (ho : ∀ s o, f { s with out := o } = f s)
    (hr : ∀ s g, f { s with regs := g } = f s) (s : State) (b q : Nat) (y : Queue) (hn : q < 512 → y.entry.notify = false) :
    f (notify s b q y) = f s := by
  unfold notify
  split
  · rfl
  · next hy =>
    rw [if_pos (Nat.not_lt.mp fun hq => hy (by simp [hn hq]))]
    exact sendMsix_keep s f hh hr ho y.entry.vector

section
variable {s : State} {b q : Nat} {x : Queue} {p : Pennant} {rest : List Pennant} (hx : queueOf s b q = some x)
  (ht : x.takingDoorbells = true) (hp : x.pennants = p :: rest)
include hx ht hp

theorem writePennant_of_noEntry (he : entryFor x p rest = none) : writePennant s b q = s := by simp [writePennant, hx, hp, he, ht]

/-- A pennant written to a host queue's completion ring: the next entry gets its bytes, the queue moves on, and all else but the
host interface, the messages and the registers stays. -/
theorem writePennant_of_entry {reserved : Bool} {l : List Pennant} (hn : q < 512 → x.entry.notify = false)
    (he : entryFor x p rest = some (reserved, l)) (hs : x.entry.hostSpace = true) :
    queueOf (writePennant s b q) b q = some (withoutPennant x reserved l) ∧
    (hostLinkOk s = true →
      (writePennant s b q).mem = (memWrite s (hostAddr (x.entry.cplBase + x.written % cplLen x * 32)) (pennantBytes x q p)).mem) ∧
    (hostLinkOk s = false → (writePennant s b q).mem = s.mem) ∧
    (writePennant s b q).cmds = s.cmds ∧ (writePennant s b q).ctxs = s.ctxs := by
  let y := withoutPennant x reserved l
  let w := hostWrite (setQueue s b q y) (x.entry.cplBase + x.written % cplLen x * 32) (pennantBytes x q p)
  have keep : ∀ {α : Type} (f : State → α), (∀ s h, f { s with host := h } = f s) → (∀ s o, f { s with out := o } = f s) →
      (∀ s g, f { s with regs := g } = f s) → f (notify w b q y) = f w := fun f hh ho hr => notify_keep f hh ho hr w b q y hn
  have hy : queueOf (notify w b q y) b q = some y := by
    rw [queueOf_of_queues w b q _ (keep (·.queues) (fun _ _ => rfl) (fun _ _ => rfl) (fun _ _ => rfl))]
    simp [w]
  have hw : writePennant s b q = notify w b q y := by
    rw [← closeQueue_of_takingDoorbells _ b q y hy ht]
    simp [writePennant, hx, hp, he, hs, w, y, withoutPennant]
  have hmem : (notify w b q y).mem = w.mem := keep (·.mem) (fun _ _ => rfl) (fun _ _ => rfl) (fun _ _ => rfl)
  rw [hw, hmem]
  refine ⟨hy, fun hl => hostWrite_mem_linked (setQueue s b q y) _ _ hl, fun hl => hostWrite_mem_unlinked (setQueue s b q y) _ _ hl, ?_, ?_⟩
  · rw [keep (·.cmds) (fun _ _ => rfl) (fun _ _ => rfl) (fun _ _ => rfl)]
    exact hostWrite_cmds ..
  · rw [keep (·.ctxs) (fun _ _ => rfl) (fun _ _ => rfl) (fun _ _ => rfl)]
    exact hostWrite_ctxs ..

end

theorem exec_pennantWrite (s : State) (b q : Nat) (hc : configurable s = true) :
    exec (.pennantWrite b q) s = .next (settle (writePennant s b q)) := by
  have harm : exec (.pennantWrite b q) s = execPennantWrite b q s := rfl
  rw [harm, execPennantWrite, if_pos hc]

/-- Settles O22: the fetch leaves the queue with its oldest hoist read, and a pennant takes the entry that its queue has for it. -/
theorem queueRings : Obligations.QueueRings := by
  refine ⟨fun b q e rest l x s hs hx => ⟨fun hn => ?_, fun he hspace hl => ?_⟩,
    fun b q p rest x s hc hx ht hn hp => ⟨fun hentry hspace => ?_, fun hheld hfull => ⟨fun hrest => ?_, fun l hl hspace => ?_⟩⟩⟩
  · rw [exec_descriptorFetch s b q hs, fetchHoist_of_noHoist hx hn]
  · refine ⟨_, withHoist x e rest l, exec_descriptorFetch s b q hs, ?_⟩
    rw [fetchHoist_of_read hx he hspace hl]
    refine ⟨by simp, rfl, rfl, rfl, rfl, rfl, rfl, withHoist_fetched x e rest l _ _ fun _ _ => rfl,
      withHoist_fetched x e rest l _ _ fun _ _ => rfl, rfl, withHoist_fetched x e rest l _ _ fun _ _ => rfl,
      fun hlink => hostWrite_mem_linked (setQueue s b q _) _ _ hlink, fun hlink => hostWrite_mem_unlinked (setQueue s b q _) _ _ hlink,
      fun b' q' h => ?_, hostWrite_cmds .., hostWrite_regs ..⟩
    rw [queueOf_hostWrite, queueOf_setQueue_other s b q _ b' q' h]
  · exact ⟨_, exec_pennantWrite s b q hc, writePennant_of_entry hx ht hp hn (entryFor_of_entry hentry) hspace⟩
  · have hwait : entryFor x p rest = none := by rw [entryFor_of_full hheld hfull ht, giveEntry_of_noneHeld hrest]; rfl
    rw [exec_pennantWrite s b q hc, writePennant_of_noEntry hx ht hp hwait]
  · have htakes : entryFor x p rest = some (true, l) := by rw [entryFor_of_full hheld hfull ht, hl]; rfl
    obtain ⟨hqueue, -, -, hcmds, -⟩ := writePennant_of_entry hx ht hp hn htakes hspace
    obtain ⟨hgiven, horder⟩ := giveEntry_some hl
    exact ⟨_, exec_pennantWrite s b q hc, hqueue, hgiven, horder, hcmds⟩

end Sys2Proof.Machine
end

section
/-!
SUPPORT. The scheduler's attempt at a block's head candidate, the wait that a counter ends, and the next tile of a copy; then the
statement on admission, quantum and held commands (R179, R193 to R195).
-/
namespace Sys2Proof.Machine

open Sys2Proof

/-! ## The attempt at the head candidate (R193 to R195) -/

/-- Who is neither being parked nor beyond its quantum is no victim. -/
theorem victim_of_withinQuanta (s : State) (b : Nat)
    (h : ∀ e ∈ residents s b, e.2.parking = false ∧ s.now ≤ e.2.admittedAt + quantum s b e.1) : victim s b = none := by
  have hpark : (residents s b).filter (fun e => e.2.parking) = [] :=
    List.filter_eq_nil_iff.mpr fun e he => by simp [(h e he).1]
  have hbeyond : (residents s b).filter (fun e => decide (0 < excess s b e)) = [] :=
    List.filter_eq_nil_iff.mpr fun e he => by
      have hnow := (h e he).2
      simp only [decide_eq_true_eq, excess, Nat.sub_sub]
      exact fun hover => Nat.ne_of_gt hover (Nat.sub_eq_zero_of_le hnow)
  simp [victim, hpark, hbeyond]

theorem admitContext_of_noCandidate (s : State) (b : Nat) (h : Tab.getD s.admitNext b [] = []) : admitContext s b = s := by
  simp [admitContext, h]

theorem setAtBlock_of_resident (s : State) (b : Nat) (c : CtxId) (x : CtxAtBlock) (hx : x.resident = true) :
    setAtBlock s b c x = { s with ctxBlocks := Tab.put s.ctxBlocks (b, c) x } := by simp [setAtBlock, hx]

/-- The state in which a candidate has become resident from now on: the admission is counted, and it is a candidate no longer. -/
def admitted (s : State) (b : Nat) (c : CtxId) (x : CtxAtBlock) : State :=
  { s with
    fresh := s.fresh + 1, regs := (bump s (epBase b + 0xB18)).regs
    admitNext := Tab.put s.admitNext b ((Tab.getD s.admitNext b []).erase c)
    ctxBlocks := Tab.put s.ctxBlocks (b, c) { x with resident := true, admittedAt := s.now, admitNo := s.fresh + 1 } }

section
variable (s : State) (b : Nat) (c : CtxId) (x : CtxAtBlock)

theorem atBlock_admitted (b' : Nat) (c' : CtxId) : atBlock (admitted s b c x) c' b' =
    if (b, c) = (b', c') then some { x with resident := true, admittedAt := s.now, admitNo := s.fresh + 1 } else atBlock s c' b' :=
  Tab.get?_put ..

theorem candidates_admitted : Tab.getD (admitted s b c x).admitNext b [] = (Tab.getD s.admitNext b []).erase c := by
  simp [admitted, Tab.getD, Tab.get?_put]

theorem reg_admitted (o : Nat) : reg (admitted s b c x) o = reg (bump s (epBase b + 0xB18)) o := by simp [reg, admitted]

end

section
variable {s : State} {b : Nat} {c : CtxId} (n : Nat)

theorem admitHead_of_noVictim (hf : fits s b c = false) (hv : victim s b = none) : admitHead b c (n + 1) s = s := by
  simp [admitHead, hf, hv]

theorem admitHead_of_fits {x : CtxAtBlock} (hf : fits s b c = true) (hx : atBlock s c b = some x) (ho : recordOpens s b c x = true) :
    admitHead b c (n + 1) s = admitted s b c x := by
  simp only [admitHead, hf, hx, ho, setAtBlock_of_resident, if_true]
  rfl

theorem admitContext_of_candidate {l : List CtxId} (hc : Tab.getD s.admitNext b [] = c :: l) :
    admitContext s b = admitHead b c 33 s := by rw [admitContext, hc]

end

theorem exec_contextAdmit (s : State) (b : Nat) (hs : s.mode = .service) (hr : blockRuns s b = true) :
    exec (.contextAdmit b) s = .next (settle (admitContext s b)) := by
  have harm : exec (.contextAdmit b) s = execContextAdmit b s := rfl
  rw [harm, execContextAdmit, if_pos (by simp [inService, hs, hr])]

theorem exec_contextQuantumExpiry (s : State) (b : Nat) (c : CtxId) (x : CtxAtBlock) (hs : s.mode = .service) (hr : blockRuns s b = true)
    (hx : atBlock s c b = some x) (hres : x.resident = true) :
    exec (.contextQuantumExpiry b c) s = .next (settle (admitContext (advanceTo s (x.admittedAt + quantum s b c + 1)) b)) := by
  have harm : exec (.contextQuantumExpiry b c) s = execContextQuantumExpiry b c s := rfl
  simp [harm, execContextQuantumExpiry, hx, inService, hs, hr, hres]

/-! ## The wait that a counter ends (R179) -/

section
variable {s : State} {b q : Nat} {c : Cmd} (hs : s.mode = .service)
include hs

theorem exec_counterWait (hc : (cmdsOf s b q).find? (fun c => decide (c.phase = .accepted) && (descHdr c.desc).waitEn && !c.waitDone) = some c) :
    exec (.counterWaitSatisfied b q) s = .next (if waitMet s c = true then
      settle (if mayStart (setCmd s { c with waitDone := true }) { c with waitDone := true } = true
        then startHeld (setCmd s { c with waitDone := true }) { c with waitDone := true } else setCmd s { c with waitDone := true })
      else s) := by
  have harm : exec (.counterWaitSatisfied b q) s = execCounterWaitSatisfied b q s := rfl
  rw [harm, execCounterWaitSatisfied, hc]
  by_cases hw : waitMet s c = true
  · simp [inService, hs, hw]
  · simp [hw]

/-! ## The next tile of a copy (R113, R195) -/

theorem exec_tileStart_of_found (hc : (cmdsOf s b q).find? (fun c => betweenTiles c && mayRun s b c.ctx && admitsTile s c) = some c)
    (hr : blockRuns s b = true) (hq : isQuiet s b = false) :
    exec (.tileStart b q) s = .next (settle (finishCmd (nextTileOf s c) c.id)) := by
  have harm : exec (.tileStart b q) s = execTileStart b q s := rfl
  rw [harm, execTileStart, hc]
  simp [inService, hs, hr, hq]

end

theorem exec_tileStart_of_none (s : State) (b q : Nat)
    (h : ∀ x ∈ cmdsOf s b q, betweenTiles x = true → mayRun s b x.ctx = false ∨ admitsTile s x = false) : exec (.tileStart b q) s = .next s := by
  have harm : exec (.tileStart b q) s = execTileStart b q s := rfl
  have hnone : (cmdsOf s b q).find? (fun c => betweenTiles c && mayRun s b c.ctx && admitsTile s c) = none := by
    rw [List.find?_eq_none]
    intro x hx htile
    obtain ⟨⟨hbetween, hrun⟩, hadmits⟩ : (betweenTiles x = true ∧ mayRun s b x.ctx = true) ∧ admitsTile s x = true := by
      simpa using htile
    simpa [hrun, hadmits] using h x hx hbetween
  rw [harm, execTileStart, hnone]

/-- Settles O23: the attempt at the head candidate admits it, or leaves the state where there is none or it must wait; the other
clauses are the rows themselves. -/
theorem contextResidency : Obligations.ContextResidency := by
  refine ⟨fun b c l x s hs hr => ⟨fun hnone => ?_, fun hc hf hw => ?_, fun hc hf hx ho => ?_⟩, fun b c x s hs hr hx hres => ⟨?_, fun hnone => ?_⟩,
    fun b q c s hs => ⟨fun hc => ⟨fun hw => ?_, fun hw => ⟨fun hm => ?_, fun hm => ?_⟩⟩, exec_tileStart_of_found hs, exec_tileStart_of_none s b q⟩⟩
  · rw [exec_contextAdmit s b hs hr, admitContext_of_noCandidate s b hnone]
  · rw [exec_contextAdmit s b hs hr, admitContext_of_candidate hc, admitHead_of_noVictim 32 hf (victim_of_withinQuanta s b hw)]
  · refine ⟨_, { x with resident := true, admittedAt := s.now, admitNo := s.fresh + 1 }, exec_contextAdmit s b hs hr, ?_⟩
    rw [admitContext_of_candidate hc, admitHead_of_fits 32 hf hx ho]
    refine ⟨?_, rfl, rfl, rfl, rfl, ?_, ?_, rfl, rfl, rfl, fun b' c' h => ?_⟩
    · rw [atBlock_admitted, if_pos rfl]
    · rw [candidates_admitted, hc, List.erase_cons_head]
    · rw [reg_admitted, reg_bump, if_pos rfl]
    · rw [atBlock_admitted, if_neg (Ne.symm h)]
  · exact exec_contextQuantumExpiry s b c x hs hr hx hres
  · rw [exec_contextQuantumExpiry s b c x hs hr hx hres, admitContext_of_noCandidate (advanceTo s _) b hnone]
  · rw [exec_counterWait hs hc, if_neg (by simp [hw])]
  · rw [exec_counterWait hs hc, if_pos hw, if_neg (by simp [hm])]
  · rw [exec_counterWait hs hc, if_pos hw, if_pos hm]

end Sys2Proof.Machine
end

section
/-!
SUPPORT. What becomes of a command once its descriptor has been taken, in one place for every row of queue commands; then the
statement on the acceptance of a descriptor (R176, R179, R232, R251).
-/
namespace Sys2Proof.Machine

open Sys2Proof

/-! ## A command judged, held or started (R176, R179, R232) -/

/-- What acceptance makes of a command whose descriptor has been taken from its queue: what `acceptRun` and `acceptLaunch` share. -/
def acceptCmd (s : State) (c : Cmd) (check : State → Cmd → State × Verdict) (start : State → Cmd → State) : State :=
  if inTeardown s c.ctx then goneCmd s c
  else match verdictOf s c check with
    | (t, .reject st r) => rejectCmd t c st r
    | (t, .go d) =>
      let c := { c with dst := d, waitDone := waitMet t c }
      startIf (setCmd t c) c start

section
variable (s : State) (c : Cmd) (check : State → Cmd → State × Verdict) (start : State → Cmd → State)

theorem acceptCmd_gone (h : inTeardown s c.ctx = true) : acceptCmd s c check start = goneCmd s c := by rw [acceptCmd, if_pos h]

variable (h : inTeardown s c.ctx = false)
include h

theorem acceptCmd_protocol (hbad : headerOk s c.ctx c.desc = false ∨ knownOpcode (descHdr c.desc).opcode = false) :
    acceptCmd s c check start = rejectCmd s c stProtocol 0 := by
  have hv : verdictOf s c check = (s, .reject stProtocol 0) := if_pos (by simpa using hbad)
  simp [acceptCmd, h, hv]

variable (hh : headerOk s c.ctx c.desc = true) (hk : knownOpcode (descHdr c.desc).opcode = true)
include hh hk

theorem acceptCmd_reject (t : State) (st : Byte) (r : DWord) (hc : check s c = (t, .reject st r)) :
    acceptCmd s c check start = rejectCmd t c st r := by simp [acceptCmd, h, verdictOf, hh, hk, hc]

theorem acceptCmd_go (t : State) (d : Fid) (hc : check s c = (t, .go d)) :
    acceptCmd s c check start = (let c := { c with dst := d, waitDone := waitMet t c }; startIf (setCmd t c) c start) := by
  simp [acceptCmd, h, verdictOf, hh, hk, hc]

end

theorem startIf_held (s : State) (c : Cmd) (start : State → Cmd → State) (h : mayStart s c = false) : startIf s c start = s := by
  simp [startIf, h]

theorem startIf_starts (s : State) (c : Cmd) (start : State → Cmd → State) (h : mayStart s c = true) :
    startIf s c start = finishCmd (start (markStarted s c).1 (markStarted s c).2) c.id := by simp [startIf, h]

/-- The cases of an acceptance in the order of R176, for what `g` shows of the state that it leaves. -/
theorem acceptCmd_outcomes {β : Type} (g : State → β) (s : State) (c : Cmd) (check : State → Cmd → State × Verdict)
    (start : State → Cmd → State) :
    (inTeardown s c.ctx = true → g (acceptCmd s c check start) = g (goneCmd s c)) ∧
    (inTeardown s c.ctx = false →
      ((headerOk s c.ctx c.desc = false ∨ knownOpcode (descHdr c.desc).opcode = false) →
        g (acceptCmd s c check start) = g (rejectCmd s c stProtocol 0)) ∧
      (headerOk s c.ctx c.desc = true → knownOpcode (descHdr c.desc).opcode = true →
        (∀ t st r, check s c = (t, .reject st r) → g (acceptCmd s c check start) = g (rejectCmd t c st r)) ∧
        (∀ t d c', check s c = (t, .go d) → c' = { c with dst := d, waitDone := waitMet t c } →
          (mayStart (setCmd t c') c' = false → g (acceptCmd s c check start) = g (setCmd t c')) ∧
          (mayStart (setCmd t c') c' = true → g (acceptCmd s c check start) =
            g (finishCmd (start (markStarted (setCmd t c') c').1 (markStarted (setCmd t c') c').2) c'.id))))) := by
  refine ⟨fun h => ?_, fun h => ⟨fun hbad => ?_, fun hh hk => ⟨fun t st r hc => ?_, ?_⟩⟩⟩
  · rw [acceptCmd_gone s c check start h]
  · rw [acceptCmd_protocol s c check start h hbad]
  · rw [acceptCmd_reject s c check start h hh hk t st r hc]
  · rintro t d c' hc rfl
    rw [acceptCmd_go s c check start h hh hk t d hc]
    exact ⟨fun hm => congrArg g (startIf_held _ _ start hm), fun hm => congrArg g (startIf_starts _ _ start hm)⟩

/-! ## The COLL_EXT of a launch (R246, R251) -/

/-- The descriptor of the next slot where it is a COLL_EXT that the launch `f` asks for. -/
def nextExt (f : Fetched) (rest : List Fetched) : Option Fetched := rest.head?.filter (fun e => takesExt f.bytes && isExt e.bytes)

/-- What the launch `f` uses of the next slot, what waits behind it, and the ring index at which its COLL_EXT is still to be fetched. -/
def extTaken (f : Fetched) (rest : List Fetched) : Option Bytes :=
  ((nextExt f rest).filter (fun e => decide (e.hoist = f.hoist))).map (·.bytes)
def afterLaunch (f : Fetched) (rest : List Fetched) : List Fetched := if (nextExt f rest).isSome then rest.drop 1 else rest
def extAwaited (x : Queue) (f : Fetched) (rest : List Fetched) : Option Nat := if rest.isEmpty then extAfter x [f] else none

theorem nextExt_of_none {f : Fetched} {rest : List Fetched}
    (h : takesExt f.bytes = false ∨ ∀ e l, rest = e :: l → isOp 0x62 e.bytes = false) : nextExt f rest = none := by
  cases rest with
  | nil => rfl
  | cons e l =>
    have hno : (takesExt f.bytes && isExt e.bytes) = false := h.elim (fun ht => by rw [ht]; rfl) fun he => by
      rw [show isExt e.bytes = false from he e l rfl, Bool.and_false]
    simpa [nextExt] using hno

theorem nextExt_of_ext {f e : Fetched} (l : List Fetched) (ht : takesExt f.bytes = true) (he : isOp 0x62 e.bytes = true) :
    nextExt f (e :: l) = some e := by
  have hext : isExt e.bytes = true := he
  simp [nextExt, ht, hext]

theorem extAwaited_eq (x : Queue) (f : Fetched) (rest : List Fetched) :
    extAwaited x f rest = if rest = [] ∧ takesExt f.bytes = true then some ((f.index + 1) % (2 * ringLen x)) else none := by
  cases rest <;> simp [extAwaited, extAfter]

/-! ## The next descriptor taken -/

section
variable {s : State} {b q : Nat} {x : Queue} {f : Fetched} {rest : List Fetched} (hn : NextIs s b q x f rest)
include hn

theorem acceptable_of_nextIs : acceptable s b q = true := by
  obtain ⟨hs, hx, ht, hf, hall⟩ := hn
  simp [acceptable, inService, hs, hx, ht, hf, hall]

theorem acceptRun_of_nextIs (mine : Bytes → Bool) (check : State → Cmd → State × Verdict) (start : State → Cmd → State)
    (hm : mine f.bytes = true) :
    acceptRun s b q mine check start = acceptCmd (accepting s b q x f rest) (newCmd s b q x f) check start := by
  have ha := acceptable_of_nextIs hn
  obtain ⟨-, hx, -, hf, -⟩ := hn
  simp only [acceptRun, hx, hf, ha, hm]
  rfl

theorem dropExt_of_own (he : isExt f.bytes = true) (hat : x.extAt = some f.index) :
    dropExt s b q = some (setQueue s b q { x with fetched := rest, extAt := none }) := by
  obtain ⟨-, hx, -, hf, -⟩ := hn
  simp [dropExt, hx, hf, he, hat]

theorem dropExt_of_alone (h : isExt f.bytes = true → x.extAt ≠ some f.index) : dropExt s b q = none := by
  obtain ⟨-, hx, -, hf, -⟩ := hn
  simpa [dropExt, hx, hf] using fun hat he => h he hat

/-- A row of queue commands is the acceptance by its own check and start; COLL_EXT is one where no launch takes the descriptor. -/
theorem exec_queueRow {row : Nat → Nat → Instr} {mine : Bytes → Bool} {check : State → Cmd → State × Verdict}
    {start : State → Cmd → State} {after : State → State} (hrow : QueueRow row mine check start after)
    (hext : isExt f.bytes = true → x.extAt ≠ some f.index) :
    exec (row b q) s = .next (after (acceptRun s b q mine check start)) := by
  cases hrow
  case collExt =>
    have harm : exec (.collExt b q) s = execCollExt b q s := rfl
    rw [harm, execCollExt, dropExt_of_alone hn hext]
    rfl
  all_goals rfl

theorem acceptLaunch_of_nextIs {ext : Option Bytes} {rest' : List Fetched} {at_ : Option Nat} (hm : isOp 0x60 f.bytes = true)
    (hext : extTaken f rest = ext) (hrest : afterLaunch f rest = rest') (hat : extAwaited x f rest = at_) :
    acceptLaunch s b q = acceptCmd
      (setQueue { s with fresh := s.fresh + 1, cmds := s.cmds ++ [{ newCmd s b q x f with ext := ext }] } b q
        { x with fetched := rest', extAt := at_ })
      { newCmd s b q x f with ext := ext } checkLaunch startLaunch := by
  have ha := acceptable_of_nextIs hn
  obtain ⟨-, hx, -, hf, -⟩ := hn
  subst hext hrest hat
  simp only [acceptLaunch, hx, hf, ha, hm]
  rfl

end

/-- Settles O24: each row takes the descriptor as `acceptRun` or `acceptLaunch` does, and the command then ends, waits or starts as
`acceptCmd` says. -/
theorem descriptorAcceptance : Obligations.DescriptorAcceptance := by
  refine ⟨fun row mine check start after hrow b q x f rest s hn hm hext => ?_, fun b q x f rest s hn => ⟨fun hop hat => ?_,
    fun hop ext rest' at_ hlaunch => ?_⟩⟩
  · rw [exec_queueRow hn hrow hext, acceptRun_of_nextIs hn mine check start hm]
    exact acceptCmd_outcomes (fun u => Host.Outcome.next (after u)) (accepting s b q x f rest) (newCmd s b q x f) check start
  · have harm : exec (.collExt b q) s = execCollExt b q s := rfl
    rw [harm, execCollExt, dropExt_of_own hn hop hat]
  · have hknown : knownOpcode (descHdr f.bytes).opcode = true := by
      rw [show (descHdr f.bytes).opcode = 0x60 by simpa [isOp] using hop]
      decide
    have hexec : exec (.collLaunch b q) s = .next (settle (acceptLaunch s b q)) := rfl
    have htakes : extTaken f rest = ext ∧ afterLaunch f rest = rest' ∧ extAwaited x f rest = at_ := by
      obtain ⟨rfl, rfl, hno, rfl⟩ | ⟨e, rfl, ht, he, rfl, rfl⟩ := hlaunch
      · simp [extTaken, afterLaunch, nextExt_of_none hno, extAwaited_eq]
      · simp [extTaken, afterLaunch, nextExt_of_ext rest' ht he, extAwaited_eq, Option.filter, apply_ite]
    obtain ⟨htaken, hbehind, hawaited⟩ := htakes
    rw [hexec, acceptLaunch_of_nextIs hn hop htaken hbehind hawaited]
    intro c0 s0
    obtain ⟨hgone, hlive⟩ := acceptCmd_outcomes (fun u => Host.Outcome.next (settle u)) s0 c0 checkLaunch startLaunch
    exact ⟨hgone, fun h => ⟨fun hbad => (hlive h).1 (.inl hbad), fun hh => (hlive h).2 hh hknown⟩⟩

end Sys2Proof.Machine
end

section
/-!
SUPPORT. A port's record read after a write, a port taken DOWN or into TRAINING (R400, R401, R411), and a write of a halyard's CFG
by case (R372); then the statement on port control writes and halyard entries.
-/
namespace Sys2Proof.Machine

open Sys2Proof

/-! ## A port's record -/

theorem portOf_setPort (s : State) (p q : Nat) (r : Port) : portOf (setPort s p r) q = if q = p then r else portOf s q := by
  have hget : Tab.get? (setPort s p r).ports q = if p = q then some r else Tab.get? s.ports q := Tab.get?_put ..
  rw [portOf, Tab.getD, hget]
  by_cases h : q = p
  · rw [if_pos h, if_pos h.symm, Option.getD_some]
  · rw [if_neg h, if_neg (Ne.symm h), portOf, Tab.getD]

@[simp] theorem portOf_setPort_same (s : State) (p : Nat) (r : Port) : portOf (setPort s p r) p = r := by simp [portOf_setPort]

theorem portOf_setPort_other (s : State) {p q : Nat} (r : Port) (h : q ≠ p) : portOf (setPort s p r) q = portOf s q := by
  simp [portOf_setPort, h]

@[simp] theorem portOf_setReg (s : State) (o p : Nat) (v : Word) : portOf (setReg s o v) p = portOf s p := rfl
@[simp] theorem portOf_emit (s : State) (p : Nat) (o : Out) : portOf (emit s o) p = portOf s p := rfl
@[simp] theorem reg_setPort (s : State) (p o : Nat) (r : Port) : reg (setPort s p r) o = reg s o := rfl
@[simp] theorem portEnabled_setPort (s : State) (p q : Nat) (r : Port) : portEnabled (setPort s p r) q = portEnabled s q := rfl
@[simp] theorem portsRun_setPort (s : State) (p : Nat) (r : Port) : portsRun (setPort s p r) = portsRun s := rfl

theorem portsRun_of_configurable {s : State} (hc : configurable s = true) (hg : s.power.gated = false) : portsRun s = true := by
  simp [portsRun, hc, hg]

/-! ## Training (R400) -/

/-- A port's record on entry to TRAINING. -/
def trainingPort (r : Port) (now : Nat) : Port :=
  { r with state := .training, aligned := 0, initSent := false, mySet := none, peerAcked := false, peerInit := none, trainingAt := now }

theorem beginTraining_eq (s : State) (p : Nat) : beginTraining s p = setPort s p (trainingPort (portOf s p) s.now) := rfl

theorem tryTrain_trains {s : State} {p : Nat} (hrun : portsRun s = true) (hdown : (portOf s p).state = .down)
    (hen : portEnabled s p = true) (hcable : (portOf s p).cable = .ready) (hlanes : 4 ≤ laneCount (usableLanes (portOf s p))) :
    tryTrain s p = setPort s p (trainingPort (portOf s p) s.now) := by
  simp [tryTrain, hrun, hdown, hen, hcable, hlanes, beginTraining_eq]

theorem tryTrain_of_notReady {s : State} {p : Nat} (hcable : (portOf s p).cable ≠ .ready) : tryTrain s p = s := by
  simp [tryTrain, hcable]

/-! ## Leaving for DOWN (R400, R401) -/

/-- A port that is not UP goes DOWN with no more than its own record changed: QUARANTINE is left on ENABLE 0 alone. -/
theorem takeDown_of_notUp {s : State} {p : Nat} {cause : BitVec 4} (hup : (portOf s p).state ≠ .up)
    (hq : (portOf s p).state = .quarantine → cause = caDisabled) :
    ∃ r, takeDown s p cause = setPort s p r ∧ r.state = .down ∧ r.cause = cause ∧ r.cable = (portOf s p).cable ∧
      usableLanes r = usableLanes (portOf s p) := by
  have hdown : takeDown s p cause = putDown s p .down cause := if_neg fun h => h.2 (hq h.1)
  have hquiet : ¬((portOf s p).state = .up ∧ portsRun s = true) := fun h => hup h.1
  rw [hdown, putDown, if_neg hquiet]
  exact ⟨_, rfl, rfl, rfl, rfl, rfl⟩

theorem takeDown_of_quarantine {s : State} {p : Nat} {cause : BitVec 4} (hq : (portOf s p).state = .quarantine) (hc : cause ≠ caDisabled) :
    takeDown s p cause = setPort s p { portOf s p with cause := cause } := if_pos ⟨hq, hc⟩

/-! ## RETRAIN and RELEASE (R411) -/

section
variable {s : State} {p : Nat}

theorem retrainPort_of_quarantine (hq : (portOf s p).state = .quarantine) :
    retrainPort s p = setPort s p { portOf s p with cause := caRetrain } := by
  rw [retrainPort, takeDown_of_quarantine hq (by decide)]
  simp [tryTrain, hq]

theorem retrainPort_trains (hrun : portsRun s = true) (hst : (portOf s p).state = .down ∨ (portOf s p).state = .training)
    (hen : portEnabled s p = true) (hcable : (portOf s p).cable = .ready) (hlanes : 4 ≤ laneCount (usableLanes (portOf s p))) :
    ∃ r, retrainPort s p = setPort (setPort s p r) p (trainingPort r s.now) ∧ r.cause = caRetrain := by
  have hup : (portOf s p).state ≠ .up := by rcases hst with h | h <;> simp [h]
  have hnq : (portOf s p).state ≠ .quarantine := by rcases hst with h | h <;> simp [h]
  obtain ⟨r, hdown, hstate, hcause, hrcable, hrlanes⟩ := takeDown_of_notUp (cause := caRetrain) hup fun h => absurd h hnq
  have htrain := tryTrain_trains (s := setPort s p r) (p := p) (by simpa using hrun) (by simpa using hstate) (by simpa using hen)
    (by simpa [hrcable] using hcable) (by simpa [hrlanes] using hlanes)
  refine ⟨r, ?_, hcause⟩
  rw [retrainPort, hdown, htrain, portOf_setPort_same]
  rfl

theorem releasePort_of_quarantine (hq : (portOf s p).state = .quarantine) :
    releasePort s p = setPort (setPort s p (trainingPort (portOf s p) s.now)) p
      { trainingPort (portOf s p) s.now with peerInit := (portOf s p).peerInit } := by
  simp [releasePort, hq, updPort, beginTraining_eq]

theorem releasePort_of_other (hq : (portOf s p).state ≠ .quarantine) : releasePort s p = s := if_neg hq

/-! ## A write of PT_CFG (R400, R402, R410) -/

theorem tryCable_of_started (h : (portOf s p).cable ≠ .absent) : tryCable s p = s := by simp [tryCable, h]

theorem tryCable_starts (hrun : portsRun s = true) (hpresent : (portOf s p).present = true) (hen : portEnabled s p = true)
    (hcable : (portOf s p).cable = .absent) :
    tryCable s p = emit (setPort s p { portOf s p with cable := .waitLowPwr }) (.sideband p sbReleaseReset) := by
  simp [tryCable, hrun, hpresent, hen, hcable, startCable, updPort]

/-- ENABLE as the write of a PT_CFG value leaves it. -/
theorem portEnabled_written (s : State) (p : Nat) (v : Word) : portEnabled (setReg s (ptBase p) (v &&& 0xFF000003)) p = v.getLsbD 0 := by
  have hmask : (0xFF000003 : Word).getLsbD 0 = true := by decide
  rw [portEnabled, regBit, reg_setReg_same, BitVec.getLsbD_and, hmask, Bool.and_true]

theorem writePortCfg_refused {v : Word} (h : portCfgOk s p v = false) : writePortCfg s p v = logRegWrite s (ptBase p) v.toNat := by
  simp [writePortCfg, h]

theorem writePortCfg_disable {v : Word} (h : portCfgOk s p v = true) (hv : v.getLsbD 0 = false) :
    writePortCfg s p v = takeDown (setReg s (ptBase p) (v &&& 0xFF000003)) p caDisabled := by
  simp only [writePortCfg, h, hv]
  rfl

theorem writePortCfg_enable {v : Word} (h : portCfgOk s p v = true) (hv : v.getLsbD 0 = true) :
    writePortCfg s p v = tryTrain (tryCable (setReg s (ptBase p) (v &&& 0xFF000003)) p) p := by
  simp only [writePortCfg, h, hv]
  rfl

section
variable {v : Word} (hok : portCfgOk s p v = true) (hv : v.getLsbD 0 = true) (hrun : portsRun s = true)
include hok hv hrun

theorem writePortCfg_trains (hdown : (portOf s p).state = .down) (hcable : (portOf s p).cable = .ready)
    (hlanes : 4 ≤ laneCount (usableLanes (portOf s p))) :
    writePortCfg s p v = setPort (setReg s (ptBase p) (v &&& 0xFF000003)) p (trainingPort (portOf s p) s.now) := by
  have hen : portEnabled (setReg s (ptBase p) (v &&& 0xFF000003)) p = true := (portEnabled_written s p v).trans hv
  rw [writePortCfg_enable hok hv, tryCable_of_started (by simp [hcable]),
    tryTrain_trains (s := setReg s (ptBase p) (v &&& 0xFF000003)) hrun hdown hen hcable hlanes]
  rfl

theorem writePortCfg_startsCable (hcable : (portOf s p).cable = .absent) (hpresent : (portOf s p).present = true) :
    writePortCfg s p v = emit (setPort (setReg s (ptBase p) (v &&& 0xFF000003)) p { portOf s p with cable := .waitLowPwr })
      (.sideband p sbReleaseReset) := by
  have hen : portEnabled (setReg s (ptBase p) (v &&& 0xFF000003)) p = true := (portEnabled_written s p v).trans hv
  rw [writePortCfg_enable hok hv, tryCable_starts (s := setReg s (ptBase p) (v &&& 0xFF000003)) hrun hpresent hen hcable]
  refine tryTrain_of_notReady ?_
  rw [portOf_emit, portOf_setPort_same]
  simp

end

end

/-! ## The rows of port control -/

section
variable {s : State} (hc : configurable s = true) (p : Nat)
include hc

theorem exec_retrain : exec (.retrain p) s = .next (settle (retrainPort s p)) := by
  have harm : exec (.retrain p) s = execRetrain p s := rfl
  rw [harm, execRetrain, if_pos hc]

theorem exec_release : exec (.release p) s = .next (releasePort s p) := by
  have harm : exec (.release p) s = execRelease p s := rfl
  rw [harm, execRelease, if_pos hc]

theorem exec_portEnableWrite (v : Word) : exec (.portEnableWrite p v) s = .next (settle (writePortCfg s p v)) := by
  have harm : exec (.portEnableWrite p v) s = execPortEnableWrite p v s := rfl
  rw [harm, execPortEnableWrite, if_pos hc]

end

/-! ## A halyard's CFG written (R372) -/

@[simp] theorem reg_setHalyardState_same (s : State) (h st cause : Nat) :
    reg (setHalyardState s h st cause) (halyardOff h + 8) = BitVec.ofNat 32 (cause % 16 * 16 + st) := reg_setReg_same ..

theorem reg_setHalyardState_other (s : State) (h st cause : Nat) {o : Nat} (ho : o ≠ halyardOff h + 8) :
    reg (setHalyardState s h st cause) o = reg s o := reg_setReg_other s _ o _ ho

@[simp] theorem reg_setHalyardState_cfg (s : State) (h st cause : Nat) :
    reg (setHalyardState s h st cause) (halyardOff h) = reg s (halyardOff h) := reg_setHalyardState_other s h st cause (by omega)

/-- No halyard's entry is a register of the event ring. -/
theorem halyardOff_ne (h d o : Nat) (ho : o < 0x90000) : halyardOff h + d ≠ mgBase + o := by
  unfold halyardOff
  omega

/-- What is left of a CFG value with ENABLE set, where reserved bits read zero. -/
theorem enabledCfg_eq (cfg : Word) : (cfg ||| 0x80000000) &&& 0xC7FFFFFF = (cfg &&& 0x47FFFFFF) ||| 0x80000000 := by
  have hmask : (0xC7FFFFFF : Word) = 0x47FFFFFF ||| 0x80000000 := by decide
  rw [hmask]
  ext i hi
  simp only [BitVec.getElem_and, BitVec.getElem_or, Bool.or_and_distrib_right]

theorem enabledCfg_enable (cfg : Word) : ((cfg &&& 0x47FFFFFF) ||| 0x80000000).getLsbD 31 = true := by
  have hbit : (0x80000000 : Word).getLsbD 31 = true := by decide
  rw [BitVec.getLsbD_or, hbit, Bool.or_true]

/-- The entry as it stands while the conditions of R372 are checked: ENABLE 0. -/
theorem enabledCfg_cleared (cfg : Word) : ((cfg &&& 0x47FFFFFF) ||| 0x80000000) &&& 0x7FFFFFFF = cfg &&& 0x47FFFFFF := by
  have hmask : (0x47FFFFFF : Word) &&& 0x7FFFFFFF = 0x47FFFFFF := by decide
  have hbit : (0x80000000 : Word) &&& 0x7FFFFFFF = 0#32 := by decide
  rw [BitVec.and_or_distrib_right, BitVec.and_assoc, hmask, hbit, BitVec.or_zero]

theorem clearedCfg_enable (v : Word) : (v &&& 0x7FFFFFFF).getLsbD 31 = false := by
  have hbit : (0x7FFFFFFF : Word).getLsbD 31 = false := by decide
  rw [BitVec.getLsbD_and, hbit, Bool.and_false]

theorem clearedCfg_fields (v : Word) : (v &&& 0x7FFFFFFF) &&& 0xC7FFFFFF &&& 0x47FFFFFF = v &&& 0x47FFFFFF := by
  have hmask : (0x7FFFFFFF &&& (0xC7FFFFFF &&& 0x47FFFFFF) : Word) = 0x47FFFFFF := by decide
  rw [BitVec.and_assoc, BitVec.and_assoc, hmask]

section
variable {s : State} {h : Nat}

theorem writeHalyardCfg_enable (hoff : regBit s (halyardOff h) 31 = false) (cfg : Word) :
    writeHalyardCfg s h (cfg ||| 0x80000000) =
      if mayAdmit (setReg s (halyardOff h) (cfg &&& 0x47FFFFFF)) h = true
      then setHalyardState (setReg (setReg s (halyardOff h) (cfg &&& 0x47FFFFFF)) (halyardOff h) ((cfg &&& 0x47FFFFFF) ||| 0x80000000)) h 1 0
      else logHalyard (setHalyardState (setReg s (halyardOff h) (cfg &&& 0x47FFFFFF)) h 3 0) h 372 := by
  have hold : (reg s (halyardOff h)).getLsbD 31 = false := hoff
  simp only [writeHalyardCfg, enabledCfg_eq, hold, enabledCfg_enable, enabledCfg_cleared]
  rfl

theorem writeHalyardCfg_clear (hon : regBit s (halyardOff h) 31 = true) :
    writeHalyardCfg s h (reg s (halyardOff h) &&& 0x7FFFFFFF) =
      endWatches (setHalyardState (setReg s (halyardOff h) (reg s (halyardOff h) &&& 0x7FFFFFFF)) h 0 0) h stOk 0 := by
  have hold : (reg s (halyardOff h)).getLsbD 31 = true := hon
  have hnew : (reg s (halyardOff h) &&& 0x7FFFFFFF &&& 0xC7FFFFFF).getLsbD 31 = false := by
    rw [BitVec.getLsbD_and, clearedCfg_enable, Bool.false_and]
  simp only [writeHalyardCfg, hold, hnew, clearedCfg_fields]
  rfl

/-- Where nothing watches a halyard, no watch ends. -/
theorem endWatches_of_unwatched (hw : ∀ w ∈ s.switch.watches, w.1 ≠ h) (st : Byte) (cause : Nat) : endWatches s h st cause = s := by
  have hmine : s.switch.watches.filter (fun w => decide (w.1 = h)) = [] := by simpa [List.filter_eq_nil_iff] using hw
  have hrest : s.switch.watches.filter (fun w => decide (w.1 ≠ h)) = s.switch.watches := by simpa [List.filter_eq_self] using hw
  simp only [endWatches, hmine, hrest, List.map_nil, List.foldl_nil]

variable (hc : configurable s = true) (hr : recovery s = false) (hh : h < 4096)
include hc hr hh

theorem exec_halyardEnable (cfg : Word) : exec (.halyardEnable h cfg) s = .next (writeHalyardCfg s h (cfg ||| 0x80000000)) := by
  have harm : exec (.halyardEnable h cfg) s = execHalyardEnable h cfg s := rfl
  simp [harm, execHalyardEnable, unlessRecovery, hc, hr, hh]

theorem exec_halyardClear : exec (.halyardClear h) s = .next (writeHalyardCfg s h (reg s (halyardOff h) &&& 0x7FFFFFFF)) := by
  have harm : exec (.halyardClear h) s = execHalyardClear h s := rfl
  simp [harm, execHalyardClear, unlessRecovery, hc, hr, hh]

end

/-- A refused admission moves, of the registers, the halyard's STATE and the event ring's own (R372, R600). -/
theorem reg_logHalyard (s : State) (h k d rule : Nat) : reg (logHalyard s h rule) (halyardOff k + d) = reg s (halyardOff k + d) :=
  reg_logEvent s _ _ _ _ _ (halyardOff_ne k d _ (by decide)) (halyardOff_ne k d _ (by decide)) (halyardOff_ne k d _ (by decide))

theorem reg_logHalyard_cfg (s : State) (h k rule : Nat) : reg (logHalyard s h rule) (halyardOff k) = reg s (halyardOff k) :=
  reg_logHalyard s h k 0 rule

/-- Settles O14: each write is the change of one port's record, or of one halyard's CFG and STATE, that its lemma names. -/
theorem portAndHalyardControl : Obligations.PortAndHalyardControl := by
  refine ⟨fun p v s hc => ⟨fun hst hg hen hcable hlanes => ?retrain, fun hq => ?retrainQuarantined, fun hq => ?release,
    fun hq => ?releaseOther, fun hbad => ?refusedCfg, fun hok hv hup => ?disable, fun hok hv hg hdown => ⟨fun hcable hlanes => ?train,
    fun hcable hpresent => ?cable⟩⟩, fun h cfg s hc hr hh => ⟨fun hoff => ⟨fun hadmit => ?admitted, fun hrefuse => ?refused⟩,
    fun hon hw => ?clear⟩⟩
  case retrain =>
    obtain ⟨r, hretrain, hcause⟩ := retrainPort_trains (portsRun_of_configurable hc hg) hst hen hcable hlanes
    rw [exec_retrain hc, hretrain]
    refine ⟨_, rfl, ?_⟩
    rw [portOf_setPort_same]
    exact ⟨rfl, hcause, rfl, fun q hq => by rw [portOf_setPort_other _ _ hq, portOf_setPort_other _ _ hq], rfl, rfl, rfl⟩
  case retrainQuarantined => rw [exec_retrain hc, retrainPort_of_quarantine hq]
  case release =>
    rw [exec_release hc, releasePort_of_quarantine hq]
    refine ⟨_, rfl, ?_⟩
    rw [portOf_setPort_same]
    exact ⟨rfl, rfl, rfl, fun q hq => by rw [portOf_setPort_other _ _ hq, portOf_setPort_other _ _ hq], rfl, rfl, rfl⟩
  case releaseOther => rw [exec_release hc, releasePort_of_other hq]
  case refusedCfg => rw [exec_portEnableWrite hc, writePortCfg_refused hbad]
  case disable =>
    obtain ⟨r, hdown, hstate, hcause, -, -⟩ :=
      takeDown_of_notUp (s := setReg s (ptBase p) (v &&& 0xFF000003)) (p := p) (cause := caDisabled) hup fun _ => rfl
    rw [exec_portEnableWrite hc, writePortCfg_disable hok hv, hdown]
    refine ⟨_, rfl, ?_⟩
    rw [portOf_setPort_same, reg_setPort, reg_setReg_same]
    exact ⟨hstate, hcause, rfl, fun q hq => portOf_setPort_other _ _ hq, fun o ho => (reg_setPort ..).trans (reg_setReg_other _ _ _ _ ho)⟩
  case train =>
    rw [exec_portEnableWrite hc, writePortCfg_trains hok hv (portsRun_of_configurable hc hg) hdown hcable hlanes]
    refine ⟨_, rfl, ?_⟩
    rw [portOf_setPort_same, reg_setPort, reg_setReg_same]
    exact ⟨rfl, rfl, fun q hq => portOf_setPort_other _ _ hq⟩
  case cable =>
    rw [exec_portEnableWrite hc, writePortCfg_startsCable hok hv (portsRun_of_configurable hc hg) hcable hpresent]
    refine ⟨_, rfl, ?_⟩
    rw [portOf_emit, portOf_setPort_same]
    exact ⟨hdown, rfl, rfl⟩
  case admitted =>
    rw [exec_halyardEnable hc hr hh, writeHalyardCfg_enable hoff, if_pos hadmit]
    refine ⟨_, rfl, ?_⟩
    rw [reg_setHalyardState_cfg, reg_setReg_same]
    exact ⟨rfl, reg_setHalyardState_same _ h _ _, rfl, rfl, fun o hcfg hst => by
      rw [reg_setHalyardState_other _ _ _ _ hst, reg_setReg_other _ _ _ _ hcfg, reg_setReg_other _ _ _ _ hcfg]⟩
  case refused =>
    rw [exec_halyardEnable hc hr hh, writeHalyardCfg_enable hoff, if_neg (ne_true_of_eq_false hrefuse)]
    refine ⟨_, rfl, ?_⟩
    rw [reg_logHalyard_cfg, reg_logHalyard, reg_setHalyardState_cfg, reg_setReg_same]
    exact ⟨rfl, reg_setHalyardState_same _ h _ _, logEvent_eventSeq .., logRoute_switch .., logRoute_queues ..⟩
  case clear =>
    rw [exec_halyardClear hc hr hh, writeHalyardCfg_clear hon, endWatches_of_unwatched (s := setHalyardState (setReg s _ _) h 0 0) hw]
    refine ⟨_, rfl, ?_⟩
    rw [regBit, reg_setHalyardState_cfg, reg_setReg_same]
    exact ⟨clearedCfg_enable _, reg_setHalyardState_same _ h _ _, rfl, rfl, fun o hcfg hst => by
      rw [reg_setHalyardState_other _ _ _ _ hst, reg_setReg_other _ _ _ _ hcfg]⟩

end Sys2Proof.Machine
end
